-- ==== Sys2Proof/Word.lean ====
section
/-! DEFINITION. The words of the TW408: a byte of exchange memory, a 16-bit word of the host bus, a 48-bit encoder
position, and one 10-byte slot of a station-link frame. -/

namespace Sys2Proof

/-- One byte of exchange memory or of a frame (00_scope 5.4). -/
abbrev Byte := BitVec 8

/-- One word of the host bus (R167) or a host-visible register (10.5). -/
abbrev Word := BitVec 16

/-- An encoder position or high-water mark: a 48-bit unsigned count (R1, 00_scope 5.1). -/
abbrev Position := BitVec 48

/-- One slot of a cycle frame: 10 bytes, outbound or reply (R139, 8.1.1). -/
abbrev Slot := Vector Byte 10

end Sys2Proof
end

