-- ==== Sys2Proof/Syntax.lean ====
section
/-! DEFINITION. The commands of the TW408: one constructor per row of spec/opcode_table.json, with the operands the rules
of the row speak of. A position event that belongs to one unit or one splice names it by its PE coordinate, which no two
records share (R7), no two splice entries share (R11). -/

namespace Sys2Proof

/-- The two encoders of R1: PE A/B moves W, FE A/B moves W_F. -/
inductive Encoder where
  | pe
  | fe
  deriving DecidableEq, Repr

/-- What a quadrature transition says (R1): one count forward, one count in reverse, or both channels at once, which has
no direction. -/
inductive Sense where
  | forward
  | reverse
  | both
  deriving DecidableEq, Repr

/-- The two registers of 10.5 whose writes the REGISTER_WRITE row speaks of (R172, R175). -/
inductive HostRegister where
  | status
  | control
  deriving DecidableEq, Repr

/-- Why the label receiver gives a frame up other than by a gap: the cases of R115. -/
inductive LabelError where
  /-- a byte with a parity or framing error -/
  | lineError
  /-- a body length above 302 -/
  | bodyTooLong
  /-- a bad check -/
  | badCheck
  /-- a complete frame with a good check whose kind is not 2, 3 or 4 -/
  | unknownKind
  deriving DecidableEq, Repr

/-- The commands, in the table's order. -/
inductive Instr where
  | powerOn
  | resetPin
  | encoderTransition (enc : Encoder) (sense : Sense)
  | speedMeasurement
  | markEdge
  | spliceEdge
  | emarkEdge
  | eindexEdge
  | blockClose
  | referenceWindowExpiry
  | embossWindowExpiry (unit : Int)
  | unitLeavesTrack
  | spliceEntryLeaves (entry : Int)
  | spliceZoneStart (entry : Int)
  | spliceZoneEnd (entry : Int)
  | spliceGuardStart (entry : Int)
  | spliceGuardEnd (entry : Int)
  | nipCheck (unit : Int)
  | shadeEvent (unit : Int)
  | shadeHorizon (unit : Int)
  | leadPoint
  | leadPointPassed
  | cutMissedThreshold
  | rollHandover
  | linkCycle
  | frameReturn (hop : Byte) (slots : List Slot)
  | frameReturnBad
  | driveTimerExpiry
  | labelStatus (body : List Byte)
  | labelAck (body : List Byte)
  | labelNak (body : List Byte)
  | labelFrameError (cause : LabelError)
  | labelGapTimeout
  | labelJobSent
  | labelReplyTimeout
  | labelWaitTimeout
  | exchangeWrite (addr : BitVec 13) (value : Word)
  | noticeWrite (value : Word)
  | routeWrite (value : Word)
  | registerWrite (register : HostRegister) (value : Word)
  | attention
  | freeze
  | thaw
  | resume
  | enterConfig
  | leaveConfig
  | lineReset
  | sweepTimer
  | sweepEnd
  | refreshTick
  | refreshEnd
  | lineStopToggle
  deriving DecidableEq, Repr

end Sys2Proof
end

