-- ==== Sys2Proof/Config.lean ====
section
/-! DEFINITION. The values the spec leaves open, as constants without a body: no proof can see what they are. -/

namespace Sys2Proof.Config

/-- The position after a forward count at 2^48 - 1. Conventions 5.1 says that coordinates 'do not wrap in service' and
gives no value there, so the n-th such count leaves the free value `freePosition n` (log 5). -/
opaque freePosition : Nat → Position

/-- L_exp after the taking order becomes none. R31 says 'L_exp becomes the new order's L_nom_PE' also there, where there is
no new order: the n-th such change leaves the free value `freeRepeat n` (log 5). -/
opaque freeRepeat : Nat → Int

/-- Numbers of an order that no rule names. A roll with no units belongs to the order of the roll closed before it (R104); where no
roll was closed before it, no rule says what its record carries. `freeNumber n k` is the k-th such number of the n-th such
record (log 51). -/
opaque freeNumber : Nat → Nat → Nat

/-- Characters of such an order: the i-th one of the n-th such record (log 51). -/
opaque freeCharacter : Nat → Nat → Byte

/-- The sequence byte of a CYCLE frame's slot at a position beyond the node table. R139 gives every position 1…n a slot, the
table holds at most 12 entries (R142), and no expected count exists for the others: the free value is applied to the frame's
cycle number and the position (log 50). -/
opaque freeSequence : Nat → Nat → Byte

end Sys2Proof.Config
end

