-- ==== Sys2Proof/Machine/Arith.lean ====
section
/-! DEFINITION. The arithmetic of Conventions 5.2 and 5.3: the four roundings, clamps, the integer square root, length
conversions, counters that run 1…m, the bytes of a number, and the cyclic check of the link frame (R139). -/

namespace Sys2Proof.Machine

/-- Round half away from zero of `n / d`, for `d > 0` (5.3). -/
def roundHalfAway (n d : Int) : Int :=
  if 0 ≤ n then (2 * n + d) / (2 * d) else -((2 * (-n) + d) / (2 * d))

/-- Truncate `n / d` (5.3). -/
def truncate (n d : Int) : Int := n.tdiv d

/-- Floor of `n / d`, for `d > 0` (5.3). -/
def floorDiv (n d : Int) : Int := n.fdiv d

/-- Ceiling of `n / d`, for `d > 0` (5.3). -/
def ceilDiv (n d : Int) : Int := -((-n).fdiv d)

/-- The magnitude |v| (5.3). -/
def magnitude (v : Int) : Int := if 0 ≤ v then v else -v

/-- `v` clamped to ±`x` (5.3). -/
def clamp (v x : Int) : Int := if x < v then x else if v < -x then -x else v

/-- The sign test of R64: both are positive or both are negative. -/
def sameSign (u v : Int) : Bool := (decide (0 < u) && decide (0 < v)) || (decide (u < 0) && decide (v < 0))

/-- One bit of the integer square root at a time, from bit `b - 1` down. -/
def isqrtFrom (n : Nat) : Nat → Nat → Nat
  | 0, r => r
  | b + 1, r => if (r + 2 ^ b) * (r + 2 ^ b) ≤ n then isqrtFrom n b (r + 2 ^ b) else isqrtFrom n b r

/-- isqrt(n): the greatest integer whose square does not exceed n (5.3). -/
def isqrt (n : Nat) : Nat := isqrtFrom n (Nat.log2 n / 2 + 1) 0

/-- A length in 0.1 mm as counts of an encoder with the given pitch (5.2). -/
def toCounts (len pitch : Int) : Int := roundHalfAway (len * 100000) pitch

/-- Counts of an encoder as a length in 0.1 mm (5.2). -/
def toLength (counts pitch : Int) : Int := roundHalfAway (counts * pitch) 100000

/-- A setting in µm as counts, at least 1 (R38, R42, R50, R55, R58). -/
def micronsToCounts (um pitch : Int) : Int := max 1 (roundHalfAway (um * 1000) pitch)

/-- The next value of a counter that runs 1…m and then continues at 1 (tags, sequences, unit numbers). -/
def nextCyclic (m v : Nat) : Nat := if v < m then v + 1 else 1

/-- A count saturated at `m`. -/
def saturate (m v : Nat) : Nat := min m v

/-! ## Numbers and bytes (little-endian, 5.4) -/

/-- Bytes of a natural number, least significant first, `len` of them. -/
def natBytes : Nat → Nat → List Byte
  | 0, _ => []
  | len + 1, v => BitVec.ofNat 8 v :: natBytes len (v / 256)

/-- Bytes of a signed number in two's complement, least significant first. -/
def intBytes (len : Nat) (v : Int) : List Byte := natBytes len (v % (256 : Int) ^ len).toNat

/-- The number whose bytes are given, least significant first. -/
def natOfBytes : List Byte → Nat
  | [] => 0
  | b :: bs => b.toNat + 256 * natOfBytes bs

/-- The signed number whose bytes are given, least significant first. -/
def intOfBytes (bs : List Byte) : Int :=
  let v : Int := natOfBytes bs
  if 2 * v < (256 : Int) ^ bs.length then v else v - (256 : Int) ^ bs.length

/-- A byte of a small number. -/
def byte (v : Nat) : Byte := BitVec.ofNat 8 v

/-- An indication: 1 when it holds (10.6). -/
def flagByte (b : Bool) : Byte := if b then 1 else 0

/-! ## The check of the link frame (R139) -/

/-- One bit step of the check register: polynomial x^16 + x^12 + x^5 + 1, most significant bit first. -/
def crcShift (r : Nat) : Nat := if r < 32768 then 2 * r else Nat.xor (2 * r - 65536) 0x1021

/-- The check register after one more byte. -/
def crcByte (r : Nat) (b : Byte) : Nat :=
  let r := Nat.xor r (256 * b.toNat)
  crcShift (crcShift (crcShift (crcShift (crcShift (crcShift (crcShift (crcShift r)))))))

/-- The 16-bit cyclic check of the given bytes: the register starts at all ones, no final inversion. -/
def frameCheck (bs : List Byte) : Nat := bs.foldl crcByte 65535

/-! ## Decimal text (R119) -/

/-- Decimal digits of a number, least significant first, with enough fuel for any value in use. -/
def decimalDigits : Nat → Nat → List Byte
  | 0, _ => []
  | fuel + 1, v => byte (48 + v % 10) :: (if v < 10 then [] else decimalDigits fuel (v / 10))

/-- A number in decimal, without leading zeros. -/
def decimal (v : Nat) : List Byte := (decimalDigits 24 v).reverse

/-! ## Lists -/

/-- Replace entry `i` by its image. -/
def modifyAt {α : Type} (f : α → α) : Nat → List α → List α
  | _, [] => []
  | 0, a :: as => f a :: as
  | i + 1, a :: as => a :: modifyAt f i as

/-- Insert in order of a key, before the first entry with a greater key. -/
def insertBy {α : Type} (key : α → Int) (a : α) : List α → List α
  | [] => [a]
  | b :: bs => if key a < key b then a :: b :: bs else b :: insertBy key a bs

/-- A list in rising order of a key; entries with one key keep their order. -/
def sortBy {α : Type} (key : α → Int) (l : List α) : List α := l.reverse.foldl (fun acc a => insertByFirst a acc) []
where
  /-- insert before the first entry whose key is not smaller -/
  insertByFirst (a : α) : List α → List α
    | [] => [a]
    | b :: bs => if key b < key a then b :: insertByFirst a bs else a :: b :: bs

end Sys2Proof.Machine
end

