-- ==== Sys2Proof/Machine/State.lean ====
section
/-! DEFINITION. The state of the TW408 as plain data, block by block (00_scope 3), and the state right after power-on or
the reset pin. Coordinates on the web, thresholds and signed quantities are exact integers (00_scope 5.3); the encoder
positions themselves are 48-bit counts. A unit record is named by its PE coordinate c everywhere: no two records share
one (R7). -/

namespace Sys2Proof.Machine

/-! ## Exchange port (chapter 10) -/

/-- The part phase (R182, header field 0x04). -/
inductive Phase where
  | starting
  | config
  | operating
  deriving DecidableEq, Repr

/-- The freeze state of the live image (R177). -/
inductive Freeze where
  | thawed
  | freezing
  | frozen
  deriving DecidableEq, Repr

/-- Registers and timers of the exchange port (R168 to R178). -/
structure Port where
  phase : Phase
  /-- NOTICE: bit f is factor f (R173) -/
  notice : Word
  /-- ROUTE (R174) -/
  route : Word
  /-- exchange counter (R169) -/
  counter : Nat
  sweepTimer : Bool
  sweepRunning : Bool
  sweepPending : Bool
  refreshNo : Nat
  refreshRunning : Bool
  freeze : Freeze
  deriving DecidableEq, Repr

/-! ## Coordinates and the web track (chapter 1) -/

/-- Encoder positions, high-water marks and speed (R1, R2, R5). -/
structure Coord where
  w : Position
  wF : Position
  h : Position
  hF : Position
  /-- web speed v in mm/s, signed (R5) -/
  speed : Int
  /-- W when the running 10 ms interval began (R5) -/
  speedBase : Position
  deriving DecidableEq, Repr

/-- A shade reading in 0.01 shade unit (1.2, R68). -/
structure Reading where
  l : Int
  a : Int
  b : Int
  deriving DecidableEq, Repr

/-- The verdict of a unit (1.2). -/
inductive Verdict where
  | waiting
  | isIn
  | outRun
  | excursion
  | absent
  deriving DecidableEq, Repr

/-- The flags of a unit record (1.2). -/
structure UnitFlags where
  synthetic : Bool
  splice : Bool
  boundary : Bool
  defect : Bool
  unembossed : Bool
  register : Bool
  mismatch : Bool
  estimated : Bool
  offStandard : Bool
  changeover : Bool
  deriving DecidableEq, Repr

/-- A unit record of the web track (1.2), with the events armed for it. -/
structure UnitRec where
  /-- PE coordinate: the record's identity (R7) -/
  c : Int
  /-- order slot -/
  order : Nat
  /-- unit number 1…65535 -/
  number : Nat
  /-- PE length, once the next record exists (R6) -/
  lRh : Option Int
  /-- station errors e_2 … e_S; absent errors are `none` -/
  errors : List (Option Int)
  /-- FE coordinate (R15, R16) -/
  g : Option Int
  /-- finished length, provisional or final (R8) -/
  lFin : Option Int
  lFinal : Bool
  lMeasured : Bool
  /-- emboss phase error (R48) -/
  phi : Option Int
  reading : Option Reading
  verdict : Verdict
  batch : Nat
  flags : UnitFlags
  spurious : Nat
  /-- pattern-match deviation in ppm (R44) -/
  dev : Option Int
  /-- shade difference D against the unit's batch (R83) -/
  shadeD : Option Nat
  /-- the emboss sensor distance the match window was armed with (R14, R22) -/
  winX : Int
  /-- the half-width W_es of the match window (R14) -/
  winHalf : Int
  /-- armed H_F events: leaving (R10), nip (R21), shade (R67), horizon (R79) -/
  leaveAt : Option Int
  nipAt : Option Int
  shadeAt : Option Int
  horizonAt : Option Int
  deriving DecidableEq, Repr

/-- Where a splice entry lies: not settled yet, in a unit, or on web of no unit (R12). -/
inductive SpliceOwner where
  | unsettled
  | unit (c : Int)
  | unowned
  deriving DecidableEq, Repr

/-- An entry of the splice list (1.3). -/
structure SpliceRec where
  p : Int
  f : Option Int
  owner : SpliceOwner
  /-- H_F threshold of the cutter event (R13) -/
  leaveAt : Option Int
  /-- H threshold of an unowned entry's leaving (R12) -/
  dropAfter : Option Int
  deriving DecidableEq, Repr

/-- The web track with its splice list. -/
structure Track where
  units : List UnitRec
  /-- previous-record coordinate (R6) -/
  prevC : Option Int
  /-- number of the most recent record as given at its creation (R162); 0 for none -/
  lastNumber : Nat
  splices : List SpliceRec
  /-- nominal repeat in 0.1 mm of the most recently activated order (R11); 0 for none -/
  lastNominal : Int
  deriving DecidableEq, Repr

/-! ## Register unit (chapter 2) -/

/-- Mark-block geometry of the taking order (R23). -/
structure Geometry where
  stations : Nat
  pitch : Int
  half : Int
  quiet : Int
  /-- o_2 … o_S -/
  offsets : List Int
  lNom : Int
  deriving DecidableEq, Repr

/-- The open mark block (R28): reference stamp, the geometry it was opened with (it runs on to its close when the taking
order changes, R31), and the stamps placed in a station's window. -/
structure Block where
  r : Int
  half : Int
  /-- o_2 … o_S -/
  offsets : List Int
  marks : List (Nat × Int)
  /-- H threshold of the block end -/
  closeAfter : Int
  deriving DecidableEq, Repr

inductive LoopState where
  | off
  | acquire
  | tracking
  | settling
  | hold
  | lost
  deriving DecidableEq, Repr

/-- The last report of a print drive (R150). -/
structure PrintReport where
  ready : Bool
  applied : Int
  deriving DecidableEq, Repr

/-- A station loop (2.2). -/
structure Loop where
  st : LoopState
  /-- filtered error E_s in sixteenths of a PE count -/
  e16 : Int
  reload : Bool
  valid : Nat
  miss : Nat
  settle : Nat
  outCount : Nat
  inCount : Nat
  lastE : Option Int
  report : Option PrintReport
  /-- the reference coordinate of the unit that ended SETTLING together with a lost trim, whose mark is not used (R39, R40, log 62) -/
  spent : Option Int
  deriving DecidableEq, Repr

/-- An interval tracked for a splice entry, named by the entry's p: a register zone on H (R34) or a guard interval on
H_F (R53). It begins when the mark reaches `start` and ends when it passes `stop`. -/
structure Zone where
  p : Int
  start : Int
  stop : Int
  begun : Bool
  deriving DecidableEq, Repr

/-- The register unit (2.1, 2.2). -/
structure RegisterUnit where
  lastEdge : Option Int
  cPrev : Option Int
  lExp : Int
  synthCount : Nat
  block : Option Block
  geom : Option Geometry
  /-- the low-speed hold cause (R33, R43) -/
  lowSpeed : Bool
  zones : List Zone
  /-- loops of stations 1…8 -/
  loops : List Loop
  deriving DecidableEq, Repr

/-! ## Emboss unit (chapters 1 and 3) -/

inductive EmbossState where
  | off
  | lifted
  | syncing
  | engaging
  | engaged
  | lifting
  deriving DecidableEq, Repr

inductive EmbossPosition where
  | engaged
  | lifted
  | moving
  deriving DecidableEq, Repr

/-- The last report of the emboss drive (R51). -/
structure EmbossReport where
  atTemperature : Bool
  position : EmbossPosition
  deriving DecidableEq, Repr

/-- Drift, strain, matching and the emboss loop (1.4, 2.5, 3.1, 3.2). -/
structure EmbossUnit where
  delta : Int
  sigma : Int
  missCount : Nat
  matchCount : Nat
  clearCount : Nat
  st : EmbossState
  /-- φ_f in sixteenths of an FE count -/
  phi16 : Int
  lastPhi : Option Int
  reload : Bool
  settle : Nat
  lock : Nat
  loss : Nat
  liftPending : Bool
  resent : Bool
  timer : Bool
  report : Option EmbossReport
  warm : Bool
  /-- last index stamp I (R47) -/
  lastIndex : Option Int
  /-- phase-pending list: PE coordinates of up to 4 units (R47) -/
  phasePending : List Int
  /-- splice guard intervals (R53) -/
  guards : List Zone
  deriving DecidableEq, Repr

/-- The last report of the draw drive (R150). -/
structure DrawReport where
  ready : Bool
  atLimit : Bool
  applied : Int
  deriving DecidableEq, Repr

/-- The draw loop (3.4). -/
structure DrawLoop where
  total : Int
  sum : Int
  count : Nat
  settle : Nat
  report : Option DrawReport
  /-- the node table has shown the draw drive PRESENT since the enumeration (R66) -/
  shown : Bool
  deriving DecidableEq, Repr

/-! ## Shade unit (chapter 4) -/

inductive RequestState where
  | waiting
  | inFlight
  | done
  deriving DecidableEq, Repr

/-- A shade request (4.1). `result` is the reading of a DONE request, `none` for ABSENT. -/
structure Request where
  unit : Int
  tag : Nat
  st : RequestState
  result : Option Reading
  cycles : Nat
  /-- the head showed CALIBRATING when the request went IN FLIGHT (R67) -/
  calAtFlight : Bool
  deriving DecidableEq, Repr

/-- A batch record (R84). -/
structure BatchRec where
  isOpen : Bool
  ref : Reading
  boundaryUnit : Nat
  lastUnit : Nat
  units : Nat
  excursions : Nat
  rolls : Nat
  /-- update count of the mirror record (R85) -/
  updates : Nat
  deriving DecidableEq, Repr

/-- An order as a block remembers it: its slot and the serial of its taking (log 29). -/
structure OrderKey where
  slot : Nat
  serial : Nat
  deriving DecidableEq, Repr

/-- The shade unit (4.1, 4.3). -/
structure ShadeUnit where
  queue : List Request
  /-- CALIBRATING of the last head report, or none (R70) -/
  headCal : Option Bool
  cutCount : Nat
  calPending : Bool
  /-- the pending calibration has been reported lost once (R71) -/
  calAgain : Bool
  classifying : Option OrderKey
  /-- batch b is entry b - 1 -/
  batches : List BatchRec
  /-- number of the OPEN batch -/
  openBatch : Option Nat
  /-- units of the persistence run, by PE coordinate -/
  run : List Int
  runReadings : Nat
  tableFull : Bool
  deriving DecidableEq, Repr

/-! ## Cut planner and winder (chapter 5) -/

/-- A set of cut reasons (R88). -/
structure Reasons where
  target : Bool
  batch : Bool
  spliceBefore : Bool
  spliceAfter : Bool
  orderEnd : Bool
  changeover : Bool
  deriving DecidableEq, Repr

/-- An entry of the cut plan (R88). -/
structure PlanEntry where
  x : Int
  reasons : Reasons
  deferred : Bool
  deriving DecidableEq, Repr

/-- What a block asks of the planner (R89). A SPLICE_BEFORE carries the point f + a_F its segment waits for (R94); an
ORDER_END names its order; `missed` is the set of reasons of a cut given up, with the coordinate it stood at (R101). -/
inductive CutKind where
  | target
  | batch
  | spliceBefore (tail : Int)
  | spliceAfter
  | orderEnd (slot : Nat)
  | changeover
  | missed (reasons : Reasons) (origin : Int)
  deriving DecidableEq, Repr

/-- A request at a coordinate, or (`none`) at the first span boundary at least one lead ahead (R95, R101). -/
structure CutRequest where
  kind : CutKind
  coordinate : Option Int
  deriving DecidableEq, Repr

/-- A waste segment (R93, R94): its start B, the point f + a_F, and its end A once SPLICE_AFTER is placed. -/
structure Segment where
  start : Int
  tail : Int
  stop : Option Int
  deriving DecidableEq, Repr

/-- What the planner tells the order unit (R90, R95). -/
inductive PlanReport where
  /-- a TARGET entry was placed at a coordinate -/
  | target (x : Int)
  /-- the ORDER_END of an order was placed or joined; `opening`: to the opening reasons of the roll in progress (R89) -/
  | orderEnd (slot : Nat) (x : Int) (opening : Bool)
  /-- the entry at the first coordinate, with its ORDER_END, went to the second -/
  | moved (x y : Int)
  deriving DecidableEq, Repr

/-- The cut planner (5.1 to 5.3). -/
structure Planner where
  plan : List PlanEntry
  /-- requests held by an open segment, in arrival order (R94) -/
  held : List CutRequest
  /-- requests waiting for room, oldest first (R95) -/
  full : List CutRequest
  /-- requests waiting for a boundary at least one lead ahead to be known (log 24) -/
  awaiting : List CutRequest
  segments : List Segment
  /-- count start K (R90) -/
  k : Option Int
  /-- the count Σ (R90) -/
  count : Int
  /-- span end of the last unit counted, K before the first -/
  cursor : Int
  /-- the first unit counted from K, by PE coordinate -/
  first : Option Int
  /-- the order of that unit: the roll's order (R90) -/
  rollOrder : Nat
  targetDrop : Bool
  /-- reports the order unit has not taken yet; none is left when a command is done -/
  reports : List PlanReport
  deriving DecidableEq, Repr

inductive Spindle where
  | a
  | b
  deriving DecidableEq, Repr

inductive SpindleState where
  | empty
  | winding
  | full
  deriving DecidableEq, Repr

inductive WinderState where
  | thread
  | winding
  | cutIssued
  | stalled
  deriving DecidableEq, Repr

/-- A roll on a spindle (R97). Its order is that of its first unit, its finished length the sum of its units' lengths. -/
structure Roll where
  start : Int
  opening : Reasons
  spindle : Spindle
  units : List UnitRec
  deriving DecidableEq, Repr

/-- A closed roll not yet handed over (R100, R118). -/
structure ClosingRoll where
  roll : Roll
  stop : Int
  close : Reasons
  deferred : Bool
  removed : Bool
  deriving DecidableEq, Repr

/-- The cut committed to the drive (R99). -/
structure OutstandingCut where
  x : Int
  reasons : Reasons
  deferred : Bool
  /-- H_F passes this: CUT_MISSED (R99, R101) -/
  missAfter : Int
  resent : Bool
  /-- the spindle that will receive the web -/
  receiver : Spindle
  serial : Nat
  deriving DecidableEq, Repr

/-- The H_F event armed at the lead point of the earliest entry (R98). -/
structure LeadEvent where
  entry : Int
  threshold : Int
  fired : Bool
  deriving DecidableEq, Repr

/-- The conditions of R98 that failed (R102). -/
structure Blocked where
  spindle : Bool
  queue : Bool
  cut : Bool
  deriving DecidableEq, Repr

/-- The winder (5.4 to 5.6). -/
structure Winder where
  st : WinderState
  roll : Option Roll
  closing : List ClosingRoll
  out : Option OutstandingCut
  spindles : Option (SpindleState × SpindleState)
  active : Spindle
  residual : Int
  blocked : Blocked
  lead : Option LeadEvent
  /-- an entry waits at its place for the next span boundary to be known (R102) -/
  awaitBoundary : Bool
  cutSerial : Nat
  deriving DecidableEq, Repr

/-! ## The body of an order (7.1.1) -/

/-- The order unit's copy of an order body (R123, 7.1.1). -/
structure OrderBody where
  seq : Int
  ref : Int
  product : List Byte
  batchPrefix : List Byte
  stations : Int
  emboss : Int
  splice : Int
  template : Int
  pitch : Int
  nominal : Int
  matchTol : Int
  shrink : Int
  cutPhase : Int
  calEvery : Int
  persistence : Int
  target : Int
  rolls : Int
  tol : Int
  wL : Int
  wC : Int
  excLimit : Int
  stdPresent : Int
  stdL : Int
  stdA : Int
  stdB : Int
  stdTol : Int
  deriving DecidableEq, Repr

/-! ## Roll records and the label line (chapter 6) -/

inductive LabelState where
  | waiting
  | sent
  | printed
  | applied
  | failed
  deriving DecidableEq, Repr

/-- A roll record of the holding queue (R109 to R112). -/
structure RollRec where
  seq : Nat
  order : OrderKey
  orderRef : Nat
  product : List Byte
  batchPrefix : List Byte
  excLimit : Nat
  template : Nat
  rollNumber : Nat
  batch : Nat
  ref : Reading
  flags : Word
  /-- finished length in 0.1 mm -/
  length : Int
  units : Nat
  firstUnit : Nat
  start : Int
  stop : Int
  opening : Reasons
  close : Reasons
  deferred : Bool
  spindle : Spindle
  label : LabelState
  jobNumber : Nat
  maxDev : Nat
  matchUnits : Nat
  meanD : Nat
  maxD : Nat
  excursions : Nat
  absents : Nat
  unembossed : Nat
  register : Nat
  defect : Nat
  estimated : Nat
  synthetic : Nat
  /-- other-order entries: slot and units (R111) -/
  others : List (Nat × Nat)
  maxPhi : Nat
  removed : Bool
  deriving DecidableEq, Repr

/-- An entry of the reference store (R110). -/
structure StoredRef where
  order : OrderKey
  batch : Nat
  ref : Reading
  deriving DecidableEq, Repr

/-- The outstanding label job (R113): the record's sequence, its number, and whether the reply timer runs. -/
structure LabelJob where
  seq : Nat
  number : Nat
  replyTimer : Bool
  deriving DecidableEq, Repr

/-- What the roll composed last leaves to a roll with no units, which belongs to the same order (R104): its roll number and the body
of the order (R109, log 51). -/
structure ComposedRoll where
  number : Nat
  body : OrderBody
  deriving DecidableEq, Repr

/-- The roll-record block (6.1, 6.2). -/
structure RollUnit where
  queue : List RollRec
  seq : Nat
  store : List StoredRef
  job : Option LabelJob
  nextJob : Nat
  waitTimer : Bool
  /-- last printer report: READY is `true` (R116) -/
  printer : Option Bool
  rxErrors : Nat
  freeSlots : Nat
  /-- order of the roll last composed (R104) -/
  lastOrder : OrderKey
  /-- roll number and order body of the roll last composed; none before any (log 51) -/
  lastComposed : Option ComposedRoll
  /-- the frame last sent on LBL TX (6.2.1) -/
  tx : List Byte
  deriving DecidableEq, Repr

/-! ## Order unit (chapter 7) -/

/-- Order states; `none` is a slot never answered (7.1.1). -/
inductive OrderState where
  | none
  | taken
  | refused
  | active
  | ending
  | done
  | withdrawn
  deriving DecidableEq, Repr

/-- The changeover decided for an order (R132, R133). -/
inductive Changeover where
  | undecided
  /-- flying, E′ not fixed yet -/
  | flying
  /-- flying, done -/
  | flown
  | stopped
  deriving DecidableEq, Repr

/-- What the order unit keeps for the order of one slot. -/
structure OrderRec where
  st : OrderState
  serial : Nat
  body : Option OrderBody
  produced : Nat
  currentRoll : Nat
  /-- end coordinate E (R132) -/
  e : Option Int
  /-- the last coordinate the planner reported for its ORDER_END (R134) -/
  endAt : Option Int
  /-- span start of the first and of the second unit (R130, R137) -/
  s0 : Option Int
  s1 : Option Int
  nextUnit : Nat
  lastRoll : Nat
  hasUnits : Bool
  /-- reached ENDING by withdrawal (R134) -/
  byWithdrawal : Bool
  /-- ORDER_END to be requested when s1 is known (R137) -/
  endWanted : Bool
  changeover : Changeover
  /-- host tag of the post refused with SLOT_BUSY, 0 for none (R125) -/
  busyTag : Nat
  deriving DecidableEq, Repr

/-- The order unit. -/
structure OrderUnit where
  orders : List OrderRec
  active : Option Nat
  hold : Bool
  waste : Bool
  nextSerial : Nat
  deriving DecidableEq, Repr

/-! ## Station link (chapter 8) -/

/-- The commands the blocks hand to the link (8.1.1). MEASURE names its unit, CALIBRATE says whether it is a repeat
(R71), CUT IN names its cut. -/
inductive LinkCmd where
  | phaseTrim (um : Int)
  | engage
  | lift
  | drawTrim (ppm : Int)
  | measure (tag : Nat) (unit : Int)
  | calibrate (again : Bool)
  | cutIn (um : Int) (serial : Nat)
  deriving DecidableEq, Repr

/-- What a slot of a frame carries. -/
inductive SlotCmd where
  | idle
  | enumerate
  | configure
  | command (c : LinkCmd)
  deriving DecidableEq, Repr

inductive NodeState where
  | configuring
  | present
  | silent
  | mismatched
  deriving DecidableEq, Repr

/-- An entry of the node table (8.2). -/
structure Node where
  /-- node kind code, 1…5 for the kinds of 8.1.1 -/
  kind : Nat
  serial : BitVec 32
  st : NodeState
  station : Nat
  expected : Nat
  settled : Bool
  silent : Nat
  waiting : List LinkCmd
  lastEvent : Nat
  /-- was CONFIGURING before it went SILENT (R148) -/
  wasConfiguring : Bool
  deriving DecidableEq, Repr

/-- A slot as sent, with the command it carries. -/
structure SentSlot where
  bytes : Slot
  carries : SlotCmd
  deriving DecidableEq, Repr

/-- The outstanding frame (R139). -/
structure Frame where
  enumerate : Bool
  slots : List SentSlot
  deriving DecidableEq, Repr

/-- What one node showed in an ENUMERATE reply (R142). -/
structure Found where
  kind : Nat
  serial : BitVec 32
  counter : Nat
  deriving DecidableEq, Repr

/-- A chain as one ENUMERATE frame gave it: hop count and nodes. -/
structure Chain where
  hop : Nat
  nodes : List Found
  deriving DecidableEq, Repr

/-- The station link (8.1, 8.2). -/
structure Link where
  enumerating : Bool
  nodes : List Node
  n : Nat
  stale : Bool
  cycle : Nat
  badRun : Nat
  out : Option Frame
  /-- the chain of the last good ENUMERATE frame of an unbroken pair (R142) -/
  lastChain : Option Chain
  /-- the frame last sent on LINK OUT -/
  tx : List Byte
  deriving DecidableEq, Repr

/-! ## Fault unit (chapter 9) -/

/-- Reaction classes in rising order, coded 0…3 (R155). -/
inductive Reaction where
  | note
  | mark
  | lift
  | stop
  deriving DecidableEq, Repr

inductive FaultState where
  | config
  | normal
  | alert
  | stopped
  deriving DecidableEq, Repr

/-- A fault: its code and subject (9.1). -/
structure FaultId where
  code : Nat
  subject : Nat
  deriving DecidableEq, Repr

/-- The fault unit. The entries themselves stand in the fault slots of exchange memory. -/
structure FaultUnit where
  st : FaultState
  /-- active-fault set, in order of raising (R156) -/
  active : List FaultId
  pulse : Reaction
  entrySeq : Nat
  /-- free-slot set (R163), one mark per fault slot -/
  free : List Bool
  /-- the last sweep found the slot's tags equal, and the entry has not been written since (R164) -/
  acked : List Bool
  /-- the two lines of the STOP pair (R161) -/
  stopA : Bool
  stopB : Bool
  deriving DecidableEq, Repr

/-! ## The whole part -/

/-- The state of the TW408. -/
structure State where
  /-- commands waiting, first in, first out -/
  pending : List Instr
  /-- exchange memory: the bytes that are not 0, in rising order of address -/
  mem : List Host.Cell
  port : Port
  /-- working copy of the settings, fields 1…79 (R179) -/
  settings : List Int
  coord : Coord
  track : Track
  reg : RegisterUnit
  emb : EmbossUnit
  draw : DrawLoop
  shade : ShadeUnit
  cut : Planner
  winder : Winder
  rolls : RollUnit
  ord : OrderUnit
  link : Link
  fault : FaultUnit
  /-- how many free values have been used (log 5) -/
  freeIdx : Nat
  deriving DecidableEq, Repr

/-- Why a step stops with a fault. -/
inductive Fault where
  /-- Raised by no meaning of this model: the spec gives every command an effect, and its own faults (chapter 9) are
  changes of State after which the part goes on. It stands so that a stop could be named; stopping is safe. -/
  | unspecified (what : String)
  deriving DecidableEq, Repr

/-- Why a step is refused. -/
inductive Refusal where
  /-- Raised by an arm of `exec` whose command has no meaning yet; no arm does. Safe. -/
  | notModelled (mnemonic : String)
  deriving DecidableEq, Repr

/-! ## The values after power-on and the reset pin -/

/-- The default column of the settings record (11.1), fields 1 to 79. -/
def defaultSettings : List Int :=
  [2500, 5000, 250000, 0, 300000, 0] ++ List.replicate 7 0 ++ [5000, 10000, 400000, 5300, 0]
    ++ List.replicate 12 0 ++ [2, 40, 32, 100] ++ [1, 100, 32, 1000] ++ [400, 2000] ++ [200, 32, 10000]
    ++ [3, 4, 100, 100, 10000, 10, 10000, 3000, 10000, 20000]
    ++ [0, 3, 1, 1, 2, 2, 3, 2, 0, 0, 0, 3, 3, 3, 0, 0, 3, 0, 0, 3, 3, 0, 3, 3, 0, 0]

def Port.reset : Port :=
  { phase := .starting, notice := 0, route := 0, counter := 0, sweepTimer := false, sweepRunning := false,
    sweepPending := false, refreshNo := 0, refreshRunning := false, freeze := .thawed }

def Coord.reset : Coord := { w := 0, wF := 0, h := 0, hF := 0, speed := 0, speedBase := 0 }

def Track.reset : Track := { units := [], prevC := none, lastNumber := 0, splices := [], lastNominal := 0 }

/-- A loop that is OFF, as R32 and R43 leave it. -/
def Loop.reset : Loop :=
  { st := .off, e16 := 0, reload := false, valid := 0, miss := 0, settle := 0, outCount := 0, inCount := 0,
    lastE := none, report := none, spent := none }

/-- R23, R31, R43: low speed holds until the first measurement at or above the minimum. -/
def RegisterUnit.reset : RegisterUnit :=
  { lastEdge := none, cPrev := none, lExp := 0, synthCount := 0, block := none, geom := none, lowSpeed := true,
    zones := [], loops := List.replicate 8 Loop.reset }

/-- R22, R46, R47, R62. R62's table has no row for the last φ that the live image shows: the model takes none here, and an
activation keeps it: DESIGN CHOICE (log 46). -/
def EmbossUnit.reset : EmbossUnit :=
  { delta := 0, sigma := 0, missCount := 0, matchCount := 0, clearCount := 0, st := .off, phi16 := 0, lastPhi := none,
    reload := true, settle := 0, lock := 0, loss := 0, liftPending := false, resent := false, timer := false,
    report := none, warm := false, lastIndex := none, phasePending := [], guards := [] }

/-- R66. -/
def DrawLoop.reset : DrawLoop := { total := 0, sum := 0, count := 0, settle := 0, report := none, shown := false }

/-- R86. -/
def ShadeUnit.reset : ShadeUnit :=
  { queue := [], headCal := none, cutCount := 0, calPending := false, calAgain := false, classifying := none,
    batches := [], openBatch := none, run := [], runReadings := 0, tableFull := false }

/-- The empty set of reasons. -/
def Reasons.none : Reasons :=
  { target := false, batch := false, spliceBefore := false, spliceAfter := false, orderEnd := false,
    changeover := false }

/-- R88, R90, R107. -/
def Planner.reset : Planner :=
  { plan := [], held := [], full := [], awaiting := [], segments := [], k := .none, count := 0, cursor := 0,
    first := .none, rollOrder := 0, targetDrop := false, reports := [] }

/-- R96, R97, R107. -/
def Winder.reset : Winder :=
  { st := .thread, roll := none, closing := [], out := none, spindles := none, active := .a, residual := 0,
    blocked := { spindle := false, queue := false, cut := false }, lead := none, awaitBoundary := false,
    cutSerial := 0 }

/-- R122. -/
def RollUnit.reset : RollUnit :=
  { queue := [], seq := 0, store := [], job := none, nextJob := 1, waitTimer := false, printer := none, rxErrors := 0,
    freeSlots := 0, lastOrder := { slot := 0, serial := 0 }, lastComposed := none, tx := [] }

/-- A slot whose order has never been answered. -/
def OrderRec.reset : OrderRec :=
  { st := .none, serial := 0, body := .none, produced := 0, currentRoll := 0, e := .none, endAt := .none, s0 := .none,
    s1 := .none, nextUnit := 1, lastRoll := 0, hasUnits := false, byWithdrawal := false, endWanted := false,
    changeover := .undecided, busyTag := 0 }

/-- R138. -/
def OrderUnit.reset : OrderUnit :=
  { orders := List.replicate 8 OrderRec.reset, active := none, hold := false, waste := false, nextSerial := 1 }

/-- R142, R154: the table is empty and enumeration begins. -/
def Link.reset : Link :=
  { enumerating := true, nodes := [], n := 0, stale := false, cycle := 0, badRun := 0, out := none, lastChain := none,
    tx := [] }

/-- R158, R161, R166: CONFIG, both lines low, every fault slot free. -/
def FaultUnit.reset : FaultUnit :=
  { st := .config, active := [], pulse := .note, entrySeq := 0, free := List.replicate 32 true,
    acked := List.replicate 32 false, stopA := false, stopB := false }

/-- R182: exchange memory after the zeroing and the header write: part code 408 and layout revision 1. -/
def resetMemory : List Host.Cell := [(0, 0x98#8), (1, 0x01#8), (2, 0x01#8)]

/-- The part after power-on or the release of the reset pin: STARTING, with enumeration begun (R182). -/
def State.reset : State :=
  { pending := [], mem := resetMemory, port := Port.reset, settings := defaultSettings, coord := Coord.reset,
    track := Track.reset, reg := RegisterUnit.reset, emb := EmbossUnit.reset, draw := DrawLoop.reset,
    shade := ShadeUnit.reset, cut := Planner.reset, winder := Winder.reset, rolls := RollUnit.reset,
    ord := OrderUnit.reset, link := Link.reset, fault := FaultUnit.reset, freeIdx := 0 }

end Sys2Proof.Machine
end

