-- ==== Sys2Proof/Machine/Ops.lean ====
section
/-! DEFINITION. Exchange memory and the exchange port's shared operations: the map and its owners (10.1), reading and
writing bytes, words and fields, the host's access (R167), tag writes and the exchange counter (R169), the notice factors
and lines (R173, R174) and STATUS (R172). -/

namespace Sys2Proof.Machine

/-! ## The map (10.1) -/

/-- Size of exchange memory (R167). -/
def memSize : Nat := 8192

def settingsBase : Nat := 0x0040
def orderSlotAddr (n : Nat) : Nat := 0x0400 + 128 * n
def rollSlotAddr (n : Nat) : Nat := 0x0800 + 96 * n
/-- Mirror record of batch `b` (1…8), R85. -/
def mirrorAddr (b : Nat) : Nat := 0x1400 + 32 * (b - 1)
def faultSlotAddr (n : Nat) : Nat := 0x1500 + 32 * n
def imageBase : Nat := 0x1900
def imageSize : Nat := 0x300
def templateAddr (t : Nat) : Nat := 0x1C00 + 256 * t

/-- Whether the word holding byte `a` is owned by the host (10.1): settings, host halves of the order slots, the ack tag
words of roll and fault slots, and the label templates. -/
def hostOwned (a : Nat) : Bool :=
  if a < 0x0040 then false
  else if a < 0x0400 then true
  else if a < 0x0800 then decide ((a - 0x0400) % 128 < 0x70)
  else if a < 0x1400 then decide ((a - 0x0800) % 96 / 2 = 1)
  else if a < 0x1500 then false
  else if a < 0x1900 then decide ((a - 0x1500) % 32 / 2 = 1)
  else if a < 0x1C00 then false
  else decide (a < 0x2000)

/-! ## Memory as a list of the bytes that are not 0 -/

/-- What address `a` holds; an unlisted address reads 0, since power-on zeroes the memory (R182). -/
def memRead (m : List Host.Cell) (a : Nat) : Byte :=
  match m with
  | [] => 0
  | c :: rest => if c.1 = a then c.2 else memRead rest a

/-- Consecutive bytes from address `a` as cells, without the zeros. -/
def cellsFrom (a : Nat) : List Byte → List Host.Cell
  | [] => []
  | b :: bs => if b = 0 then cellsFrom (a + 1) bs else (a, b) :: cellsFrom (a + 1) bs

/-- Memory with the bytes `bs` stored from address `a` on; nothing is stored beyond the end of the memory. -/
def memStore (m : List Host.Cell) (a : Nat) (bs : List Byte) : List Host.Cell :=
  if a + bs.length ≤ memSize then
    m.filter (fun c => decide (c.1 < a)) ++ (cellsFrom a bs ++ m.filter (fun c => decide (a + bs.length ≤ c.1)))
  else m

/-- The canonical form: rising addresses from `lo` on, inside the memory, and no byte 0. -/
def memWfFrom (lo : Nat) : List Host.Cell → Bool
  | [] => true
  | c :: rest => decide (lo ≤ c.1) && decide (c.1 < memSize) && decide (c.2 ≠ 0) && memWfFrom (c.1 + 1) rest

/-- The memory is in its one canonical form. -/
def Memory.wf (m : List Host.Cell) : Bool := memWfFrom 0 m

/-- Consecutive bytes from address `a`. -/
def memBytes (m : List Host.Cell) (a : Nat) : Nat → List Byte
  | 0 => []
  | len + 1 => memRead m a :: memBytes m (a + 1) len

/-- A byte of exchange memory. -/
def State.readByte (s : State) (a : Nat) : Byte := memRead s.mem a

/-- Bytes of exchange memory. -/
def State.readBytes (s : State) (a len : Nat) : List Byte := memBytes s.mem a len

/-- An unsigned field of `len` bytes. -/
def State.readNat (s : State) (a len : Nat) : Nat := natOfBytes (s.readBytes a len)

/-- A signed field of `len` bytes. -/
def State.readInt (s : State) (a len : Nat) : Int := intOfBytes (s.readBytes a len)

/-- Whether every byte of a range is part-owned. -/
def partRange (a : Nat) : Nat → Bool
  | 0 => true
  | len + 1 => !hostOwned a && partRange (a + 1) len

/-- A write by the part. The exchange port gives the part its own words only (R167, R161's law). -/
def State.partStore (s : State) (a : Nat) (bs : List Byte) : State :=
  if partRange a bs.length then { s with mem := memStore s.mem a bs } else s

/-! ## Host access (R167) -/

/-- A host read of the word at the even address at or below `a`. -/
def State.hostReadWord (s : State) (a : BitVec 13) : Word :=
  let e := 2 * (a.toNat / 2)
  BitVec.ofNat 16 (s.readNat e 2)

/-- A host write: stored when the word is host-owned, discarded otherwise; the address bit 0 is not decoded (R167). -/
def State.hostWriteWord (s : State) (a : BitVec 13) (v : Word) : State :=
  let e := 2 * (a.toNat / 2)
  if hostOwned e then { s with mem := memStore s.mem e (natBytes 2 v.toNat) } else s

/-! ## Header, notices and the exchange counter -/

/-- A header field (10.2). -/
def State.header (s : State) (offset len v : Nat) : State := s.partStore offset (natBytes len v)

/-- The notice factors in their bit order (10.5). -/
inductive Factor where
  | order
  | roll
  | batch
  | fault
  | stop
  | frozen
  | link
  deriving DecidableEq, Repr

/-- The bit of a factor in NOTICE. -/
def Factor.bit : Factor → Nat
  | .order => 0
  | .roll => 1
  | .batch => 2
  | .fault => 3
  | .stop => 4
  | .frozen => 5
  | .link => 6

/-- Latch a factor (R173). -/
def State.latch (s : State) (f : Factor) : State :=
  { s with port := { s.port with notice := s.port.notice ||| (1#16 <<< f.bit) } }

/-- Whether a factor is set in NOTICE. -/
def State.noticed (s : State) (f : Factor) : Bool := s.port.notice.getLsbD f.bit

/-- The routing of factor `f`: 0 none, 1 routine, 2 and 3 urgent (10.5, R174). -/
def State.routing (s : State) (f : Nat) : Nat := s.port.route.toNat / 4 ^ f % 4

/-- NOTICE-R: asserted while a set factor is routed routine (R174). -/
def State.noticeR (s : State) : Bool :=
  (List.range 7).any (fun f => s.port.notice.getLsbD f && decide (s.routing f = 1))

/-- NOTICE-U: asserted while a set factor is routed urgent (R174). -/
def State.noticeU (s : State) : Bool :=
  (List.range 7).any (fun f => s.port.notice.getLsbD f && decide (2 ≤ s.routing f))

/-- A completed tag write advances the exchange counter; its header copy is written after it (R169). -/
def State.tagWritten (s : State) : State :=
  let v := nextCyclic 255 s.port.counter
  { s with port := { s.port with counter := v } }.header 0x0A 1 v

/-- The code of the part phase (10.2, 10.5). -/
def Phase.code : Phase → Nat
  | .starting => 0
  | .config => 1
  | .operating => 2

/-- A change of the part phase, in STATUS and in the header in one step (R168). -/
def State.setPhase (s : State) (p : Phase) : State :=
  { s with port := { s.port with phase := p } }.header 0x04 1 p.code

/-- The code of the fault-unit state (10.5). -/
def FaultState.code : FaultState → Nat
  | .config => 0
  | .normal => 1
  | .alert => 2
  | .stopped => 3

/-- STATUS (R172, 10.5). -/
def State.status (s : State) : Word :=
  let activeBits := match s.ord.active with
    | some n => 16 * (n % 8) + 128
    | none => 0
  BitVec.ofNat 16 (s.port.phase.code + 4 * s.fault.st.code + activeBits + 256 * (s.port.counter % 256))

/-- A host read of a register by its word offset 0, 2, 4 or 6 (10.5); CONTROL reads 0 (R175). -/
def State.readRegister (s : State) (offset : Nat) : Word :=
  if offset = 0 then s.status
  else if offset = 2 then s.port.notice
  else if offset = 4 then s.port.route
  else 0

/-- Free-value source: the position left by a forward count at 2^48 - 1 (log 5). -/
def maxPosition : Nat := 2 ^ 48 - 1

end Sys2Proof.Machine
end

