-- ==== Sys2Proof/Machine/Operands.lean ====
section
/-! DEFINITION. What the blocks read to do their work: the settings of the working copy by name (11.1), the positions as
numbers, the fields of an order body (7.1.1), the values converted to counts, and look-ups of units, orders and nodes. -/

namespace Sys2Proof.Machine

/-! ## Settings (11.1) -/

/-- Field `i` (1…79) of the working copy. -/
def State.setting (s : State) (i : Nat) : Int := s.settings.getD (i - 1) 0

def State.peP (s : State) : Int := s.setting 1
def State.feP (s : State) : Int := s.setting 2
def State.xES (s : State) : Int := toCounts (s.setting 3) s.peP
def State.dSplice (s : State) : Int := toCounts (s.setting 4) s.peP
def State.yNip (s : State) : Int := toCounts (s.setting 14) s.feP
def State.yShade (s : State) : Int := toCounts (s.setting 15) s.feP
def State.yCut (s : State) : Int := toCounts (s.setting 16) s.feP
def State.cF (s : State) : Int := toCounts (s.setting 17) s.feP
def State.thetaF (s : State) : Int := toCounts (s.setting 18) s.feP
/-- Station-to-head distance of station `st` (2…8), 0.1 mm. -/
def State.stationDistance (s : State) (st : Nat) : Int := s.setting (5 + st)
/-- Expected arrangement at position `p` (1…12). -/
def State.arrangement (s : State) (p : Nat) : Int := s.setting (18 + p)
def State.leadF (s : State) : Int := toCounts (s.setting 48) s.feP
def State.allowanceF (s : State) : Int := toCounts (s.setting 51) s.feP
def State.guardF (s : State) : Int := toCounts (s.setting 52) s.feP
def State.remnantF (s : State) : Int := toCounts (s.setting 50) s.feP
def State.reverseLimit (s : State) : Int := toCounts (s.setting 53) s.peP
def State.printDeadband (s : State) : Int := micronsToCounts (s.setting 32) s.peP
def State.registerTol (s : State) : Int := micronsToCounts (s.setting 46) s.peP
def State.embossDeadband (s : State) : Int := micronsToCounts (s.setting 36) s.feP
def State.lockWindow (s : State) : Int := micronsToCounts (s.setting 39) s.feP
def State.liftWindow (s : State) : Int := micronsToCounts (s.setting 40) s.feP

/-! ## Positions -/

def State.posW (s : State) : Int := s.coord.w.toNat
def State.posWF (s : State) : Int := s.coord.wF.toNat
def State.posH (s : State) : Int := s.coord.h.toNat
def State.posHF (s : State) : Int := s.coord.hF.toNat

/-! ## Orders -/

/-- The record of order slot `n`. -/
def State.order (s : State) (n : Nat) : OrderRec := s.ord.orders.getD n OrderRec.reset

/-- Change the record of order slot `n`. -/
def State.setOrder (s : State) (n : Nat) (f : OrderRec → OrderRec) : State :=
  { s with ord := { s.ord with orders := modifyAt f n s.ord.orders } }

/-- A body of zeros: what stands for the copy of a slot that holds none. -/
def OrderBody.zero : OrderBody :=
  { seq := 0, ref := 0, product := [], batchPrefix := [], stations := 0, emboss := 0, splice := 0, template := 0,
    pitch := 0, nominal := 0, matchTol := 0, shrink := 0, cutPhase := 0, calEvery := 0, persistence := 0, target := 0,
    rolls := 0, tol := 0, wL := 0, wC := 0, excLimit := 0, stdPresent := 0, stdL := 0, stdA := 0, stdB := 0,
    stdTol := 0 }

/-- The copy of the order in slot `n` (R123). -/
def State.body (s : State) (n : Nat) : OrderBody := (s.order n).body.getD OrderBody.zero

/-- The key of the order now in slot `n` (log 29). -/
def State.orderKey (s : State) (n : Nat) : OrderKey := { slot := n, serial := (s.order n).serial }

/-- The body in order slot `n` as it stands in exchange memory (7.1.1). -/
def State.readBody (s : State) (n : Nat) : OrderBody :=
  let at_ := orderSlotAddr n
  let u (o len : Nat) : Int := s.readNat (at_ + o) len
  { seq := u 0x02 2, ref := u 0x04 4, product := s.readBytes (at_ + 0x08) 16,
    batchPrefix := s.readBytes (at_ + 0x18) 4, stations := u 0x1C 1, emboss := u 0x1D 1, splice := u 0x1E 1,
    template := u 0x1F 1, pitch := u 0x20 2, nominal := u 0x22 2, matchTol := u 0x24 2,
    shrink := s.readInt (at_ + 0x26) 2, cutPhase := u 0x28 2, calEvery := u 0x2A 1, persistence := u 0x2B 1,
    target := u 0x2C 4, rolls := u 0x30 2, tol := u 0x32 2, wL := u 0x34 1, wC := u 0x35 1, excLimit := u 0x36 2,
    stdPresent := u 0x38 1, stdL := u 0x3A 2, stdA := s.readInt (at_ + 0x3C) 2, stdB := s.readInt (at_ + 0x3E) 2,
    stdTol := u 0x40 2 }

/-- The active order's copy, when an order is active. -/
def State.activeBody (s : State) : Option OrderBody := s.ord.active.map s.body

/-- L_nom_PE of an order (R6). -/
def State.lNomPE (s : State) (b : OrderBody) : Int := toCounts b.nominal s.peP
/-- L_nom_F of an order (R44). -/
def State.lNomF (s : State) (b : OrderBody) : Int := toCounts b.nominal s.feP
/-- The cut phase φ_F of an order in FE counts (R9). -/
def State.phaseF (s : State) (b : OrderBody) : Int := toCounts b.cutPhase s.feP
/-- The roll target T_F in FE counts (R90). -/
def State.targetF (s : State) (b : OrderBody) : Int := toCounts b.target s.feP

/-- Whether an emboss order is active (3.2, R52). -/
def State.embossOrder (s : State) : Bool :=
  match s.activeBody with
  | some b => decide (b.emboss = 1)
  | none => false

/-- The slots of the order queue: TAKEN orders in increasing sequence number (R128). -/
def State.orderQueue (s : State) : List Nat :=
  sortBy (fun n => (s.body n).seq) ((List.range 8).filter (fun n => decide ((s.order n).st = .taken)))

/-! ## Units -/

/-- The unit of the track whose PE coordinate is `c`. -/
def State.unit? (s : State) (c : Int) : Option UnitRec := s.track.units.find? (fun u => decide (u.c = c))

/-- Change the unit whose PE coordinate is `c`; a write for a unit no longer held is discarded (R10). -/
def State.setUnit (s : State) (c : Int) (f : UnitRec → UnitRec) : State :=
  { s with track := { s.track with units := s.track.units.map (fun u => if u.c = c then f u else u) } }

/-- Span start of a unit: g + φ_F of its order (R9), once g is set. -/
def State.spanStart (s : State) (u : UnitRec) : Option Int := u.g.map (fun g => g + s.phaseF (s.body u.order))

/-- The units of the track in creation order, each with the record after it. -/
def withNext : List UnitRec → List (UnitRec × Option UnitRec)
  | [] => []
  | [u] => [(u, none)]
  | u :: v :: rest => (u, some v) :: withNext (v :: rest)

/-- The span boundaries known: the span starts of the units that have g, rising (R9). -/
def State.boundaries (s : State) : List Int := sortBy (fun x => x) (s.track.units.filterMap s.spanStart)

/-- A coordinate is at least one lead ahead while H_F has not passed its lead point (R88). -/
def State.leadAhead (s : State) (x : Int) : Bool := decide (s.posHF ≤ x + s.yCut - s.leadF)

/-- The first span boundary that is at least one lead ahead. -/
def State.firstAhead (s : State) : Option Int := s.boundaries.find? s.leadAhead

/-- The first span boundary after a coordinate. -/
def State.boundaryAfter (s : State) (x : Int) : Option Int := s.boundaries.find? (fun y => decide (x < y))

/-! ## Nodes (R150) -/

/-- Node kind codes (8.1.1). -/
def kindPrint : Nat := 1
def kindEmboss : Nat := 2
def kindDraw : Nat := 3
def kindShade : Nat := 4
def kindWinder : Nat := 5

/-- A place a block hands commands to (R144). -/
inductive Target where
  | station (st : Nat)
  | emboss
  | draw
  | shade
  | winder
  deriving DecidableEq, Repr

/-- The positions (from 0) of the nodes of a kind, in chain order. -/
def nodesOfKind (kind : Nat) : Nat → List Node → List Nat
  | _, [] => []
  | i, n :: rest => if n.kind = kind then i :: nodesOfKind kind (i + 1) rest else nodesOfKind kind (i + 1) rest

/-- The index (from 0) of a block's node: the s-th PRINT_DRIVE in chain order is station s; of the other kinds the first
node is the block's (R150). -/
def State.nodeIndex (s : State) : Target → Option Nat
  | .station st => if st = 0 ∨ 8 < st then none else (nodesOfKind kindPrint 0 s.link.nodes)[st - 1]?
  | .emboss => (nodesOfKind kindEmboss 0 s.link.nodes)[0]?
  | .draw => (nodesOfKind kindDraw 0 s.link.nodes)[0]?
  | .shade => (nodesOfKind kindShade 0 s.link.nodes)[0]?
  | .winder => (nodesOfKind kindWinder 0 s.link.nodes)[0]?

/-- The block that owns the node at index `i`, if any (R150). -/
def State.ownerOf (s : State) (i : Nat) : Option Target :=
  match s.link.nodes[i]? with
  | none => none
  | some n =>
    if n.kind = kindPrint then
      match (nodesOfKind kindPrint 0 s.link.nodes).findIdx? (fun j => decide (j = i)) with
      | some k => if k < 8 then some (.station (k + 1)) else none
      | none => none
    else
      [Target.emboss, Target.draw, Target.shade, Target.winder].find? (fun t => decide (s.nodeIndex t = some i))

/-- Whether the node table shows a block's node PRESENT. -/
def State.nodePresent (s : State) (t : Target) : Bool :=
  match s.nodeIndex t with
  | some i =>
    match s.link.nodes[i]? with
    | some n => decide (n.st = .present)
    | none => false
  | none => false

/-! ## Reasons -/

/-- The union of two sets of reasons. -/
def Reasons.union (r q : Reasons) : Reasons :=
  { target := r.target || q.target, batch := r.batch || q.batch, spliceBefore := r.spliceBefore || q.spliceBefore,
    spliceAfter := r.spliceAfter || q.spliceAfter, orderEnd := r.orderEnd || q.orderEnd,
    changeover := r.changeover || q.changeover }

/-- Whether a set of reasons is empty. -/
def Reasons.isEmpty (r : Reasons) : Bool := decide (r = Reasons.none)

/-- An entry with a reason other than TARGET is forced (R88). -/
def Reasons.forced (r : Reasons) : Bool := r.batch || r.spliceBefore || r.spliceAfter || r.orderEnd || r.changeover

end Sys2Proof.Machine
end

