-- ==== Sys2Proof/Machine/FaultUnit.lean ====
section
/-! DEFINITION. The fault unit by itself (chapter 9): kinds and reactions, the active-fault set, the fault list, and the
fault-unit state with the STOP pair. What a change of the reaction in force does to the loops is in React.lean. -/

namespace Sys2Proof.Machine

/-! ## Fault codes (R155) -/

def refMarkMiss : Nat := 1
def referenceLost : Nat := 2
def stationMarkLost : Nat := 3
def registerOut : Nat := 4
def embossMarkLost : Nat := 5
def embossRegisterLoss : Nat := 6
def embossDriveTimeout : Nat := 7
def embossCold : Nat := 8
def shadeUnresolved : Nat := 9
def batchTableFull : Nat := 10
def matchRun : Nat := 11
def winderStall : Nat := 12
def cutMissed : Nat := 13
def cutPlanFull : Nat := 14
def labelFailed : Nat := 15
def recordHoldFull : Nat := 16
def nodeSilent : Nat := 17
def nodeRestarted : Nat := 18
def commandLost : Nat := 19
def arrangementFault : Nat := 20
def reverseLimitFault : Nat := 21
def spuriousMarks : Nat := 22
def trackFull : Nat := 23
def spliceListFull : Nat := 24
def drawLimitFault : Nat := 25
def linkCheck : Nat := 26

/-- The kinds of type Event; every other kind is of type Condition (R155). -/
def isEventKind (code : Nat) : Bool := decide (code ∈ [1, 9, 10, 13, 15, 18, 19, 22, 26])

/-- The kinds with a fixed reaction, which is STOP for each (R155). -/
def isFixedKind (code : Nat) : Bool := decide (code ∈ [7, 13, 14, 20, 23, 24])

/-- The lowest and highest reaction a configurable kind may be set to, coded 0…3 (R155). -/
def reactionRange (code : Nat) : Int × Int :=
  if code = 1 then (0, 1) else if code = 2 then (1, 3) else if code ∈ [5, 6, 8] then (2, 3)
  else if code = 17 then (1, 3) else if code = 19 then (0, 1) else if code = 22 then (0, 1) else (0, 3)

/-! ## Reactions -/

/-- The code of a reaction (R155). -/
def Reaction.code : Reaction → Nat
  | .note => 0
  | .mark => 1
  | .lift => 2
  | .stop => 3

/-- The reaction with a code. -/
def reactionOfCode (v : Int) : Reaction := if v = 1 then .mark else if v = 2 then .lift else if v = 3 then .stop else .note

/-- The higher of two reactions. -/
def Reaction.max (a b : Reaction) : Reaction := if a.code < b.code then b else a

/-- The reaction of a kind, read from the working copy whenever it is needed (R155). -/
def State.reactionOf (s : State) (code : Nat) : Reaction :=
  if isFixedKind code then .stop else reactionOfCode (s.setting (53 + code))

/-- The reaction in force (R157). -/
def State.reaction (s : State) : Reaction :=
  let ofActive := s.fault.active.foldl (fun r f => r.max (s.reactionOf f.code)) Reaction.note
  let withPulse := ofActive.max s.fault.pulse
  if s.fault.st = .stopped then withPulse.max .stop else withPulse

/-- Whether a fault is in the active-fault set. -/
def State.faultActive (s : State) (code subject : Nat) : Bool :=
  decide (({ code := code, subject := subject } : FaultId) ∈ s.fault.active)

/-- Whether a fault of this code is active with any subject. -/
def State.faultActiveAny (s : State) (code : Nat) : Bool := s.fault.active.any (fun f => decide (f.code = code))

/-- The number of STOP-class faults in the active-fault set (R156). -/
def State.stopClassCount (s : State) : Nat := (s.fault.active.filter (fun f => decide (s.reactionOf f.code = .stop))).length

/-! ## The fault-unit state and the STOP pair (R158, R159, R161) -/

/-- NORMAL and ALERT follow the reaction in force; CONFIG and STOPPED are left by their own rules (R158). -/
def State.faultSettle (s : State) : State :=
  match s.fault.st with
  | .config => s
  | .stopped => s
  | .normal => { s with fault := { s.fault with st := if s.reaction = .note then .normal else .alert } }
  | .alert => { s with fault := { s.fault with st := if s.reaction = .note then .normal else .alert } }

/-- Entry to STOPPED from NORMAL or ALERT: both lines low, STOP latched (R159). In CONFIG and STOPPED nothing. -/
def State.enterStopped (s : State) : State :=
  if s.fault.st = .normal ∨ s.fault.st = .alert then
    { s with fault := { s.fault with st := .stopped, stopA := false, stopB := false } }.latch .stop
  else s

/-- The fault unit enters CONFIG: both lines low at once, and the pulse ends (R157, R158, R161). -/
def State.faultToConfig (s : State) : State :=
  { s with fault := { s.fault with st := .config, stopA := false, stopB := false, pulse := .note } }

/-- The fault unit leaves CONFIG or STOPPED for NORMAL, then judges its reaction; toggling begins with the first line
high (R158, R160, R161). -/
def State.faultToRunning (s : State) : State :=
  State.faultSettle { s with fault := { s.fault with st := .normal, stopA := true, stopB := false } }

/-! ## The fault list (9.4) -/

/-- Fields of a fault entry, by offset (9.4.1). -/
def State.faultTag (s : State) (n : Nat) : Nat := s.readNat (faultSlotAddr n) 1
def State.faultAck (s : State) (n : Nat) : Nat := s.readNat (faultSlotAddr n + 0x02) 1
def State.faultCode (s : State) (n : Nat) : Nat := s.readNat (faultSlotAddr n + 0x06) 1
def State.faultSubject (s : State) (n : Nat) : Nat := s.readNat (faultSlotAddr n + 0x07) 1
/-- 1 ACTIVE, 2 CLEARED. -/
def State.faultEntryState (s : State) (n : Nat) : Nat := s.readNat (faultSlotAddr n + 0x08) 1

/-- A producer's next tag: the previous one plus 1, continuing at 1 after 255, and once more when it equals the ack tag
(R121, R163). -/
def nextTag (prev ack : Nat) : Nat :=
  let t := nextCyclic 255 prev
  if t = ack then nextCyclic 255 t else t

/-- The tag word of a fault slot is written, last; a tag write at LINE RESET does not advance the counter (R163, R169,
R183). -/
def State.writeFaultTag (s : State) (n : Nat) (advance : Bool) : State :=
  let t := nextTag (s.faultTag n) (s.faultAck n)
  let s := s.partStore (faultSlotAddr n) [byte t, 0]
  let s := { s with fault := { s.fault with acked := s.fault.acked.set n false } }
  if advance then s.tagWritten else s

/-- The ACTIVE entry of a fault (R164). -/
def State.activeEntry (s : State) (code subject : Nat) : Option Nat :=
  (List.range 32).find? (fun n => decide (s.faultTag n ≠ 0) && decide (s.faultEntryState n = 1)
    && decide (s.faultCode n = code) && decide (s.faultSubject n = subject))

/-- How many entry sequences ago an entry was made; the sequence runs 1…65535 (R163). -/
def State.entryAge (s : State) (n : Nat) : Nat := (s.fault.entrySeq + 65535 - s.readNat (faultSlotAddr n + 0x04) 2) % 65535

/-- The entry an event-type raise joins: the newest CLEARED entry of the fault that the host has not acknowledged at the
last sweep, or that was written since (R164). -/
def State.joinableEntry (s : State) (code subject : Nat) : Option Nat :=
  let fits := (List.range 32).filter (fun n => decide (s.faultTag n ≠ 0) && decide (s.faultEntryState n = 2)
    && decide (s.faultCode n = code) && decide (s.faultSubject n = subject) && !(s.fault.acked.getD n false))
  fits.foldl (fun best n => match best with
    | none => some n
    | some m => if s.entryAge n < s.entryAge m then some n else some m) none

/-- A new entry (R162, R163): the entry sequence is used up in any case; with no free slot the entry is dropped and
counted in the header. -/
def State.newEntry (s : State) (code subject : Nat) : State :=
  let q := nextCyclic 65535 s.fault.entrySeq
  let s := { s with fault := { s.fault with entrySeq := q } }
  match s.fault.free.findIdx? (fun f => f) with
  | none => s.header 0x0C 2 (saturate 65535 (s.readNat 0x0C 2 + 1))
  | some n =>
    let h := natBytes 6 s.coord.h.toNat
    let ref := match s.activeBody with
      | some b => intBytes 4 b.ref
      | none => natBytes 4 0
    let roll := match s.ord.active with
      | some o => (s.order o).currentRoll
      | none => 0
    let event := isEventKind code
    let body := natBytes 2 q ++ [byte code, byte subject, if event then 2 else 1, byte (s.reactionOf code).code]
      ++ natBytes 2 1 ++ h ++ natBytes 2 s.track.lastNumber ++ ref ++ natBytes 2 roll
      ++ (if event then h else natBytes 6 0)
    let s := s.partStore (faultSlotAddr n + 0x04) body
    let s := { s with fault := { s.fault with free := s.fault.free.set n false } }
    (s.writeFaultTag n true).latch .fault

/-- A further raise on an entry: count + 1 saturating, the reaction rewritten, and for an event the present H as the
clearing coordinate (R162, R164). -/
def State.countEntry (s : State) (n code : Nat) : State :=
  let a := faultSlotAddr n
  let s := s.partStore (a + 0x09) [byte (s.reactionOf code).code]
  let s := s.partStore (a + 0x0A) (natBytes 2 (saturate 65535 (s.readNat (a + 0x0A) 2 + 1)))
  let s := if isEventKind code then s.partStore (a + 0x1A) (natBytes 6 s.coord.h.toNat) else s
  s.writeFaultTag n true

/-- An ACTIVE entry becomes CLEARED at the present H (R164, R166). -/
def State.clearEntry (s : State) (n code : Nat) (advance : Bool) : State :=
  let a := faultSlotAddr n
  let s := s.partStore (a + 0x08) [2, byte (s.reactionOf code).code]
  let s := s.partStore (a + 0x1A) (natBytes 6 s.coord.h.toNat)
  s.writeFaultTag n advance

/-! ## Raising and clearing (R156, R157, R159, R164, R165) -/

/-- The fault list's part of a raise. -/
def State.listRaise (s : State) (code subject : Nat) : State :=
  if isEventKind code then
    match s.joinableEntry code subject with
    | some n => s.countEntry n code
    | none => s.newEntry code subject
  else if s.faultActive code subject then
    match s.activeEntry code subject with
    | some n => s.countEntry n code
    | none => s.newEntry code subject
  else s.newEntry code subject

/-- A raise reaches the fault unit. The list, the active-fault set or the pulse, then the fault-unit state. -/
def State.raiseCore (s : State) (code subject : Nat) : State :=
  let s := s.listRaise code subject
  let r := s.reactionOf code
  let s :=
    if isEventKind code then
      if r = .mark ∨ r = .lift then { s with fault := { s.fault with pulse := s.fault.pulse.max r } } else s
    else if s.faultActive code subject then s
    else { s with fault := { s.fault with active := s.fault.active ++ [{ code := code, subject := subject }] } }
  let s := if r = .stop then s.enterStopped else s
  s.faultSettle

/-- A clear reaches the fault unit; a fault not in the set changes nothing (R156). -/
def State.clearCore (s : State) (code subject : Nat) : State :=
  if s.faultActive code subject then
    let s := match s.activeEntry code subject with
      | some n => (s.clearEntry n code true).latch .fault
      | none => s
    let s := { s with fault := { s.fault with
      active := s.fault.active.filter (fun f => decide (f ≠ ({ code := code, subject := subject } : FaultId))) } }
    s.faultSettle
  else s

/-- The pulse ends at the creation of a unit record (R157). -/
def State.endPulse (s : State) : State := State.faultSettle { s with fault := { s.fault with pulse := .note } }

end Sys2Proof.Machine
end

