-- ==== Sys2Proof/Machine/React.lean ====
section
/-! DEFINITION. Handing a command to the link (R144), and what the loops do the moment a cause begins or ends: the hold
causes of the station loops (R33) and the lift causes of the emboss loop (R52, R54, R56, R57). `State.raise` and
`State.clear` are a raise and a clear with everything that follows from them at once.

A cause set is a view of the state, and a loop's reaction is a function of whether the set is empty: it is applied
after each change that can begin or end a cause, which is the same as acting when a cause begins or the last one ends. -/

namespace Sys2Proof.Machine

/-! ## Handing a command to the link (R144) -/

/-- Change node `i` (from 0) of the table. -/
def State.setNode (s : State) (i : Nat) (f : Node → Node) : State :=
  { s with link := { s.link with nodes := modifyAt f i s.link.nodes } }

/-- Whether a waiting command is a DRAW TRIM. -/
def LinkCmd.isDrawTrim : LinkCmd → Bool
  | .drawTrim _ => true
  | _ => false

/-- A block hands the link a command (R144). The second component says that the command was not taken and is reported
lost at once: 10 commands are already waiting. A command for a node that is not there or not PRESENT is discarded. -/
def State.hand (s : State) (t : Target) (c : LinkCmd) : State × Bool :=
  match s.nodeIndex t with
  | none => (s, false)
  | some i =>
    match s.link.nodes[i]? with
    | none => (s, false)
    | some n =>
      if n.st ≠ .present then (s, false)
      else if c.isDrawTrim && n.waiting.any LinkCmd.isDrawTrim then
        (s.setNode i (fun n => { n with waiting := n.waiting.map (fun w => if w.isDrawTrim then c else w) }), false)
      else if 10 ≤ n.waiting.length then (s, true)
      else (s.setNode i (fun n => { n with waiting := n.waiting ++ [c] }), false)

/-! ## Station loops: hold causes (R33) -/

/-- The loop of station `st` (1…8). -/
def State.loop (s : State) (st : Nat) : Loop := s.reg.loops.getD (st - 1) Loop.reset

/-- Change the loop of station `st` (1…8). -/
def State.setLoop (s : State) (st : Nat) (f : Loop → Loop) : State :=
  { s with reg := { s.reg with loops := modifyAt f (st - 1) s.reg.loops } }

/-- The splice-in-the-register-zone cause (R34): a zone that has begun and not ended. -/
def State.spliceHold (s : State) : Bool := s.reg.zones.any (fun z => z.begun)

/-- Whether any hold cause of R33 holds for station `st`. -/
def State.holds (s : State) (st : Nat) : Bool :=
  s.reg.lowSpeed || s.spliceHold || s.faultActive referenceLost 0 || decide (s.fault.st = .stopped)
    || !s.nodePresent (.station st)

/-- A loop under its set of causes (R33): a running loop goes to HOLD when a cause holds, giving up any settling; a loop
in HOLD goes to ACQUIRE when none does. -/
def Loop.settled (l : Loop) (holds : Bool) : Loop :=
  match l.st with
  | .off => l
  | .hold => if holds then l else { l with st := .acquire, valid := 0, miss := 0, settle := 0, reload := false }
  | .acquire => if holds then { l with st := .hold, settle := 0 } else l
  | .tracking => if holds then { l with st := .hold, settle := 0 } else l
  | .settling => if holds then { l with st := .hold, settle := 0 } else l
  | .lost => if holds then { l with st := .hold, settle := 0 } else l

/-- Every station loop under its causes. -/
def State.loopsSettle (s : State) : State :=
  { s with reg := { s.reg with loops := s.reg.loops.mapIdx (fun i l => l.settled (s.holds (i + 1))) } }

/-! ## Emboss loop: lift causes (R52) -/

/-- The splice-guard cause (R53): H_F lies inside a guard interval that has begun. -/
def State.spliceGuard (s : State) : Bool := s.emb.guards.any (fun z => z.begun)

/-- Whether the last drive report shows AT_TEMPERATURE; none counts as not (R51). -/
def State.atTemperature (s : State) : Bool :=
  match s.emb.report with
  | some r => r.atTemperature
  | none => false

/-- Whether any lift cause of R52 holds. -/
def State.lifts (s : State) : Bool :=
  s.spliceGuard || decide (2 ≤ s.reaction.code) || !s.atTemperature || s.faultActive embossMarkLost 0
    || s.faultActive embossRegisterLoss 0 || !s.embossOrder

/-- LIFT is handed to the link, the drive timer starts with re-sent no, and the loop goes to LIFTING (R51, R56, R57);
settling is given up. A LIFT that is not taken is handed once more, as a loss report asks (R59). The settle and lock counts become 0; R56 and R57 give
no value for the lock count, nor for the settle count on the way from ENGAGING: DESIGN CHOICE (log 52). -/
def State.sendLift (s : State) : State :=
  let s := { s with emb := { s.emb with st := .lifting, timer := true, resent := false, settle := 0, lock := 0 } }
  match s.hand .emboss .lift with
  | (s, false) => s
  | (s, true) => ({ s with emb := { s.emb with resent := true } }.hand .emboss .lift).1

/-- Entry to SYNCING (R49, R54). -/
def State.enterSyncing (s : State) : State :=
  { s with emb := { s.emb with st := .syncing, reload := true, lock := 0, loss := 0, settle := 0 } }

/-- Entry to LIFTED by any path (R54, R57): the timer stops, EMBOSS_DRIVE_TIMEOUT and EMBOSS_REGISTER_LOSS clear, and
the loop goes on to OFF when no emboss order is active, or to SYNCING when no cause holds. From ENGAGED and ENGAGING
no value of the settle and lock counts is stated, and both become 0: DESIGN CHOICE (log 52). -/
def State.enterLifted (s : State) : State :=
  let s := { s with emb := { s.emb with
    st := .lifted, timer := false, loss := 0, liftPending := false, settle := 0, lock := 0 } }
  let s := (s.clearCore embossDriveTimeout 0).clearCore embossRegisterLoss 0
  if !s.embossOrder then { s with emb := { s.emb with st := .off, phasePending := [] } }
  else if s.lifts then s
  else s.enterSyncing

/-- The emboss loop under its lift causes (R52, R54, R56, R57). -/
def State.embossSettle (s : State) : State :=
  match s.emb.st with
  | .off => s
  | .lifted => if s.embossOrder && !s.lifts then s.enterSyncing else s
  | .syncing => if s.lifts then s.enterLifted else s
  | .engaging => if s.lifts then { s with emb := { s.emb with liftPending := true } } else s
  | .engaged => if s.lifts then s.sendLift else s
  | .lifting => s

/-! ## Raising and clearing with what follows at once -/

/-- Both kinds of loop under their causes. -/
def State.settle (s : State) : State := s.loopsSettle.embossSettle

/-- A block raises a fault (R156 to R159): the fault unit, then the loops under the reaction now in force. -/
def State.raise (s : State) (code subject : Nat) : State := (s.raiseCore code subject).settle

/-- A block clears a fault. -/
def State.clear (s : State) (code subject : Nat) : State := (s.clearCore code subject).settle

/-- Raise a condition-type fault when its condition begins, clear it when it ends. -/
def State.follow (s : State) (code subject : Nat) (condition : Bool) : State :=
  if condition then (if s.faultActive code subject then s else s.raise code subject) else s.clear code subject

end Sys2Proof.Machine
end

