-- ==== Sys2Proof/Machine/Planner.lean ====
section
/-! DEFINITION. The cut planner (5.1 to 5.3): placing requests (R89), waste segments (R93, R94), the count toward the
target (R90, R91), and requests that wait (R95). What the planner tells the order unit is put into `reports`, which the
loop of Plan.lean hands on. -/

namespace Sys2Proof.Machine

/-! ## Reasons and requests -/

/-- The reasons a request brings (R88). -/
def CutKind.reasons : CutKind → Reasons
  | .target => { Reasons.none with target := true }
  | .batch => { Reasons.none with batch := true }
  | .spliceBefore _ => { Reasons.none with spliceBefore := true }
  | .spliceAfter => { Reasons.none with spliceAfter := true }
  | .orderEnd _ => { Reasons.none with orderEnd := true }
  | .changeover => { Reasons.none with changeover := true }
  | .missed r _ => r

/-- Change the planner. -/
def State.setCut (s : State) (f : Planner → Planner) : State := { s with cut := f s.cut }

/-- The plan changes; when entries have left it, CUT_PLAN_FULL clears (R89). -/
def State.setPlan (s : State) (plan : List PlanEntry) : State :=
  let fewer := decide (plan.length < s.cut.plan.length)
  let s := s.setCut (fun p => { p with plan := plan })
  if fewer then s.clear cutPlanFull 0 else s

/-- The entry at a coordinate. -/
def State.entryAt (s : State) (x : Int) : Option PlanEntry := s.cut.plan.find? (fun e => decide (e.x = x))

/-- The planner has something to tell the order unit. -/
def State.report (s : State) (r : PlanReport) : State := s.setCut (fun p => { p with reports := p.reports ++ [r] })

/-! ## The count start (R90, R91) -/

/-- K takes a coordinate and the count starts anew; the TARGET drop indication clears (R90, R91). -/
def State.moveCount (s : State) (x : Int) : State :=
  s.setCut (fun p => { p with k := some x, count := 0, cursor := x, first := none, targetDrop := false })

/-- The final lengths of the units whose span starts lie from `x` up to `y`. -/
def State.lengthsFrom (s : State) (x y : Int) : Int :=
  s.track.units.foldl (fun sum u =>
    match s.spanStart u with
    | some b => if x ≤ b ∧ b < y then sum + u.lFin.getD 0 else sum
    | none => sum) 0

/-- The unit whose span starts at a coordinate. -/
def State.unitAt (s : State) (x : Int) : Option UnitRec := s.track.units.find? (fun u => decide (s.spanStart u = some x))

/-- A forced entry stands at `x` where the counting has already gone past: K takes `x` (R91). -/
def State.countFrom (s : State) (x : Int) : State :=
  match s.cut.k with
  | none => s
  | some k =>
    if k < x ∧ x < s.cut.cursor then
      let sum := s.lengthsFrom x s.cut.cursor
      let first := s.unitAt x
      s.setCut (fun p => { p with
        k := some x, count := sum, first := first.map UnitRec.c,
        rollOrder := (first.map UnitRec.order).getD p.rollOrder, targetDrop := false })
    else s

/-- The roll's order: the order of the first unit counted from K (R90). -/
def State.countOrder (s : State) : Nat :=
  match s.cut.first.bind s.unit? with
  | some u => u.order
  | none => s.cut.rollOrder

/-! ## Placing (R89) -/

/-- Rule 3 of R89: TARGET is taken out of the entries beyond a forced cut. -/
def State.stripTarget (s : State) (x : Int) : State :=
  let plan := s.cut.plan.map (fun e => if x < e.x then { e with reasons := { e.reasons with target := false } } else e)
  s.setPlan (plan.filter (fun e => !e.reasons.isEmpty))

/-- What follows the placing of a request at `x`: the report, the opening of a segment, the count start (R90 to R95). -/
def State.placed (s : State) (kind : CutKind) (x : Int) (opening : Bool) : State :=
  let s := match kind with
    | .target => (s.setCut (fun p => { p with targetDrop := false })).report (.target x)
    | .spliceBefore tail =>
      s.setCut (fun p => { p with segments := p.segments ++ [{ start := x, tail := tail, stop := none }] })
    | .orderEnd slot => s.report (.orderEnd slot x opening)
    | .batch => s
    | .spliceAfter => s
    | .changeover => s
    | .missed _ _ => s
  if kind.reasons.forced && !opening then s.countFrom x else s

/-- Rule 4 of R89: the plan is full. -/
def State.planFull (s : State) (kind : CutKind) (x : Int) : State :=
  let s := if s.faultActive cutPlanFull 0 then s else s.raise cutPlanFull 0
  match kind with
  | .target => s.setCut (fun p => { p with targetDrop := true })
  | .spliceAfter => s.setCut (fun p => { p with full := p.full ++ [{ kind := kind, coordinate := some x }] })
  | .orderEnd _ => s.setCut (fun p => { p with full := p.full ++ [{ kind := kind, coordinate := some x }] })
  | .changeover => s.setCut (fun p => { p with full := p.full ++ [{ kind := kind, coordinate := some x }] })
  | .batch => s
  | .spliceBefore _ => s
  | .missed _ _ => s

/-- Insert an entry at its place in coordinate order. -/
def insertEntry (e : PlanEntry) (plan : List PlanEntry) : List PlanEntry := insertBy PlanEntry.x e plan

/-- The roll in progress, when it starts at a coordinate (rule 1 of R89). -/
def State.rollAt (s : State) (x : Int) : Option Roll := s.winder.roll.filter (fun roll => decide (roll.start = x))

/-- Rule 1 of R89: reasons are added to the opening reasons of the roll in progress. -/
def State.joinOpening (s : State) (roll : Roll) (r : Reasons) : State :=
  { s with winder := { s.winder with roll := some { roll with opening := roll.opening.union r } } }

/-- The places of the plan that are taken for a request: its entries, and for one that has not been waiting for room itself the
requests that have, since a place that comes free is theirs (R95). -/
def State.placesTaken (s : State) (waiting : Bool) : Nat := s.cut.plan.length + (if waiting then 0 else s.cut.full.length)

/-- R89 at a coordinate. `waiting`: the request had been waiting for room, so a place just freed is its own (R95). -/
def State.placeAt (s : State) (kind : CutKind) (x : Int) (waiting : Bool) : State :=
  let r := kind.reasons
  let late := decide (kind = .target) && s.cut.targetDrop
  match s.rollAt x with
  | some roll => (s.joinOpening roll r).placed kind x true
  | none =>
    if (s.entryAt x).isSome then
      (s.setCut (fun p => { p with plan := p.plan.map (fun e =>
        if e.x = x then { e with reasons := e.reasons.union r, deferred := e.deferred || late } else e) })).placed
        kind x false
    else
      let s := if r.forced then s.stripTarget x else s
      if 16 ≤ s.placesTaken waiting then s.planFull kind x
      else
        (s.setCut (fun p => { p with plan := insertEntry { x := x, reasons := r, deferred := late } p.plan })).placed
          kind x false

/-! ## Segments (R93, R94) -/

/-- An open segment that holds a request back until it closes (R94). -/
def State.holding (s : State) (kind : CutKind) (x : Int) : Bool :=
  s.cut.segments.any (fun g => g.stop.isNone &&
    match kind with
    | .batch => decide (g.start < x)
    | .orderEnd _ => decide (g.start < x)
    | .changeover => decide (g.start < x)
    | .spliceBefore _ => true
    | .target => false
    | .spliceAfter => false
    | .missed _ _ => false)

/-- The end of a closed segment that holds `x` strictly inside. -/
def State.segmentAround (s : State) (x : Int) : Option Int :=
  (s.cut.segments.find? (fun g =>
    match g.stop with
    | some a => decide (g.start < x) && decide (x < a)
    | none => false)).bind Segment.stop

/-- The closed segment whose end lies at or beyond `x`, for a later splice (R94). -/
def State.segmentEnding (s : State) (x : Int) : Option Segment :=
  s.cut.segments.find? (fun g =>
    match g.stop with
    | some a => decide (x ≤ a)
    | none => false)

/-- Two segments become one: the entry at the first one's end loses SPLICE_AFTER, and the joined segment stays open until
the later splice's end (R94). -/
def State.joinSegments (s : State) (g : Segment) (tail : Int) (stop : Option Int) : State :=
  let plan := s.cut.plan.map (fun e =>
    if some e.x = g.stop then { e with reasons := { e.reasons with spliceAfter := false } } else e)
  let s := s.setPlan (plan.filter (fun e => !e.reasons.isEmpty))
  s.setCut (fun p => { p with
    segments := p.segments.map (fun q => if q.start = g.start then { q with tail := tail, stop := stop } else q) })

/-- A forced request that lands at `x` where R94 then takes its reason away from `x` again, with the outcome `merged`. The rules of
R89 come first: the roll in progress takes the reasons when it starts there (rule 1); an entry there is joined (rule 2); else TARGET
is taken out of the entries beyond (rule 3), and a full plan raises CUT_PLAN_FULL and deals with the request (rule 4). An entry made
by rule 5 leaves the plan again by R94's rule, at which CUT_PLAN_FULL clears (log 22). -/
def State.landAt (s : State) (kind : CutKind) (x : Int) (waiting : Bool) (merged : State → State) : State :=
  match s.rollAt x with
  | some roll =>
    match kind with
    | .spliceBefore _ => merged (s.joinOpening roll kind.reasons)
    | _ => s.placeAt kind x waiting
  | none =>
    if (s.entryAt x).isSome then merged s
    else
      let s := s.stripTarget x
      if 16 ≤ s.placesTaken waiting then s.planFull kind x else merged (s.clear cutPlanFull 0)

/-- A request with its coordinate: held by an open segment (log 22), or placed by R89, after which the rules of R94 for a closed
segment around it are applied (R89, R94). -/
def State.takeAt (s : State) (kind : CutKind) (x : Int) (waiting : Bool) : State :=
  if s.holding kind x then s.setCut (fun p => { p with held := p.held ++ [{ kind := kind, coordinate := some x }] })
  else
    match kind with
    | .batch => if (s.segmentAround x).isSome then s.landAt kind x waiting id else s.placeAt kind x waiting
    | .orderEnd _ =>
      match s.segmentAround x with
      | some a => s.landAt kind x waiting (fun t => t.placeAt kind a waiting)
      | none => s.placeAt kind x waiting
    | .changeover =>
      match s.segmentAround x with
      | some a => s.landAt kind x waiting (fun t => t.placeAt kind a waiting)
      | none => s.placeAt kind x waiting
    | .spliceBefore tail =>
      match s.segmentEnding x with
      | some g => s.landAt kind x waiting (fun t => t.joinSegments g tail none)
      | none => s.placeAt kind x waiting
    | .target => s.placeAt kind x waiting
    | .spliceAfter => s.placeAt kind x waiting
    | .missed _ _ => s

/-- Segments and end coordinates follow an entry that goes from `x` to `y`; a segment whose start meets its end is gone
(R102). -/
def State.entryMoved (s : State) (x y : Int) (orderEnd : Bool) : State :=
  let shift (v : Int) : Int := if v = x then y else v
  let s := s.setCut (fun p => { p with
    segments := (p.segments.map (fun g => { g with start := shift g.start, stop := g.stop.map shift })).filter
      (fun g => match g.stop with
        | some a => decide (g.start < a)
        | none => true) })
  if orderEnd then s.report (.moved x y) else s

/-- Rule 3 of R89 for an entry that comes to `x` with its reasons and joins no forced entry there (log 23). -/
def State.stripFor (s : State) (x : Int) : State :=
  if (s.entryAt x).any (fun e => e.reasons.forced) then s else s.stripTarget x

/-- The reasons of a cut given up go back into the plan at `x`, marked DEFERRED, with every entry up to there (R101). TARGET is taken
out of the entries beyond, for TARGET alone given up too: such a later TARGET was counted from the cut that was not made, and
R104's law would fail of the roll it closes. DEDUCED (log 23). -/
def State.placeMissed (s : State) (r : Reasons) (origin x : Int) : State :=
  let upTo := s.cut.plan.filter (fun e => decide (e.x ≤ x))
  if 16 ≤ s.cut.plan.length ∧ upTo = [] then
    match s.cut.plan with
    | [] => s
    | e :: rest =>
      (s.setCut (fun p => { p with
        plan := { e with reasons := e.reasons.union r, deferred := true } :: rest })).entryMoved origin e.x r.orderEnd
  else
    let all := upTo.foldl (fun acc e => acc.union e.reasons) r
    let s := s.stripFor x
    let s := s.setPlan (s.cut.plan.filter (fun e => decide (x < e.x)))
    let s := s.setCut (fun p => { p with plan := insertEntry { x := x, reasons := all, deferred := true } p.plan })
    let s := upTo.foldl (fun s e => s.entryMoved e.x x e.reasons.orderEnd) (s.entryMoved origin x r.orderEnd)
    if all.forced then s.countFrom x else s

/-- A request reaches the planner (R89, R95). One without a coordinate goes to the first boundary at least one lead ahead,
and waits while none is known (log 24). -/
def State.request (s : State) (kind : CutKind) (coordinate : Option Int) : State :=
  match coordinate with
  | some x => s.takeAt kind x false
  | none =>
    match s.firstAhead with
    | some x => s.takeAt kind x false
    | none => s.setCut (fun p => { p with awaiting := p.awaiting ++ [{ kind := kind, coordinate := none }] })

/-- Reasons join the entry at `a`, which is made anew when a merge has removed it (R94). -/
def State.joinReasons (s : State) (a : Int) (r : Reasons) : State :=
  if r.isEmpty then s
  else if (s.entryAt a).isSome then
    s.setCut (fun p => { p with plan := p.plan.map (fun q =>
      if q.x = a then { q with reasons := q.reasons.union r } else q) })
  else s.setCut (fun p => { p with plan := insertEntry { x := a, reasons := r, deferred := false } p.plan })

/-- The merge rules for an entry, as it stands when its turn comes, of a segment that starts at `b` and closes at `a` (R94). -/
def State.mergeReasons (s : State) (b a : Int) (e : PlanEntry) : State :=
  let inside := decide (e.x < a)
  let keep : Reasons :=
    { e.reasons with
      batch := e.reasons.batch && !inside, orderEnd := e.reasons.orderEnd && !inside,
      changeover := e.reasons.changeover && !inside, spliceBefore := false }
  let movesOn : Reasons :=
    { Reasons.none with orderEnd := e.reasons.orderEnd && inside, changeover := e.reasons.changeover && inside }
  let plan := s.cut.plan.map (fun q => if q.x = e.x then { q with reasons := keep } else q)
  let s := (s.setPlan (plan.filter (fun q => !q.reasons.isEmpty))).joinReasons a movesOn
  let s := if movesOn.orderEnd then s.report (.moved e.x a) else s
  if e.reasons.spliceBefore then
    match s.cut.segments.find? (fun g => decide (g.start = b)), s.cut.segments.find? (fun g => decide (g.start = e.x)) with
    | some g, some later =>
      let s := s.setCut (fun p => { p with segments := p.segments.filter (fun q => decide (q.start ≠ e.x)) })
      s.joinSegments g later.tail later.stop
    | _, _ => s
  else s

/-- The place `x` beyond the start of a closing segment (R94). The entry is the one that stands there now, so that what has joined it
stays; the end is the one the segment has now, where it was joined with a later closed segment, and else `a`. -/
def State.mergeEntry (s : State) (b a x : Int) : State :=
  match s.entryAt x with
  | none => s
  | some e =>
    let stop := ((s.cut.segments.find? (fun g => decide (g.start = b))).bind Segment.stop).getD a
    if x ≤ stop then s.mergeReasons b stop e else s

/-- The merge rules for a request that waited while the segment that starts at `b` closed at `a` (R94). It was not placed before, so
the rules of R89 are not applied at its own coordinate: a BATCH inside is dropped, an ORDER_END or CHANGEOVER inside joins the entry
at the end, the SPLICE_BEFORE of a later splice joins the two segments, and any other request is placed. Where an earlier merge has
left the segment open, the request waits again. -/
def State.mergeRequest (s : State) (b a : Int) (q : CutRequest) : State :=
  let g := (s.cut.segments.find? (fun g => decide (g.start = b))).getD { start := b, tail := a, stop := some a }
  match q.coordinate, g.stop with
  | some x, some a =>
    if s.holding q.kind x then s.request q.kind q.coordinate
    else
      match q.kind with
      | .batch => if b < x ∧ x < a then s else s.request q.kind q.coordinate
      | .orderEnd _ => if b < x ∧ x < a then s.placeAt q.kind a false else s.request q.kind q.coordinate
      | .changeover => if b < x ∧ x < a then s.placeAt q.kind a false else s.request q.kind q.coordinate
      | .spliceBefore tail => if x ≤ a then s.joinSegments g tail none else s.request q.kind q.coordinate
      | _ => s.request q.kind q.coordinate
  | _, _ => s.request q.kind q.coordinate

/-- A request that waits for room at a coordinate beyond `b` up to the end `a` of a closing segment: the end has an entry it
joins, and so needs no place (R94). Beside SPLICE_AFTER only ORDER_END and CHANGEOVER wait for room (rule 4 of R89). -/
def endsInside (b a : Int) (q : CutRequest) : Bool :=
  (match q.kind with
    | .orderEnd _ => true
    | .changeover => true
    | _ => false) && q.coordinate.any (fun x => decide (b < x) && decide (x ≤ a))

/-- SPLICE_AFTER stands at `a`: the segment that starts at `b` is closed there, and the merge rules are applied to the
entries beyond its start and to the requests that waited, those that waited for room inside it among them (R94). -/
def State.finishClose (s : State) (b a : Int) : State :=
  let joining := s.cut.full.filter (endsInside b a)
  let s := s.setCut (fun p => { p with
    segments := p.segments.map (fun g => if g.start = b then { g with stop := some a } else g),
    full := p.full.filter (fun q => decide (q.kind ≠ .spliceAfter) && !endsInside b a q) })
  let inside := match s.cut.k with
    | some k => decide (b ≤ k)
    | none => false
  let s := if inside then s.moveCount a else s
  let s := ((s.cut.plan.map PlanEntry.x).filter (fun x => decide (b < x))).foldl (fun s x => s.mergeEntry b a x) s
  let held := sortBy (fun q : CutRequest => q.coordinate.getD 0) (joining ++ s.cut.held)
  let s := s.setCut (fun p => { p with held := [] })
  held.foldl (fun s q => s.mergeRequest b a q) s

/-- A request that waited for room is placed at its own coordinate if that is still at least one lead ahead, and otherwise
at the first boundary that is (R95). A SPLICE_AFTER placed so closes its segment (R89, R94). -/
def State.placeWaiting (s : State) (q : CutRequest) : State :=
  match (q.coordinate.filter s.leadAhead).or s.firstAhead with
  | none => s.setCut (fun p => { p with awaiting := p.awaiting ++ [{ q with coordinate := none }] })
  | some x =>
    let s := s.takeAt q.kind x true
    if q.kind = .spliceAfter then
      match s.cut.segments.find? (fun g => g.stop.isNone && decide (g.start < x)), s.entryAt x with
      | some g, some e => if e.reasons.spliceAfter then s.finishClose g.start x else s
      | _, _ => s
    else s

/-- The end of a segment is known: SPLICE_AFTER is placed there by R89, and unless it must wait the segment closes. -/
def State.closeSegment (s : State) (g : Segment) (a : Int) : State :=
  let s := s.placeAt .spliceAfter a false
  if s.cut.full.any (fun q => decide (q.kind = .spliceAfter)) then s else s.finishClose g.start a

/-- An entry beyond the start of an open segment has reached its lead point: the segment is closed at it (R94). -/
def State.closeAtEntry (s : State) (x : Int) : State :=
  match s.cut.segments.find? (fun g => g.stop.isNone && decide (g.start < x)) with
  | none => s
  | some g =>
    (s.setCut (fun p => { p with plan := p.plan.map (fun e =>
      if e.x = x then { e with reasons := { e.reasons with spliceAfter := true } } else e) })).finishClose g.start x

/-- The start of the waste segment of a splice at FE coordinate `f` (R93); none when the splice is carried. -/
def State.segmentStart (s : State) (f : Int) : Option Int :=
  let point := f - s.allowanceF
  let bs := s.boundaries
  let start := match (bs.filter (fun b => decide (b ≤ point))).getLast? with
    | some b => some b
    | none => bs.head?
  match start with
  | none => none
  | some b =>
    if s.leadAhead b then some b
    else
      match s.firstAhead with
      | some y => if y < f then some y else none
      | none => none

/-- A splice entry of unit `u` has taken its FE coordinate (R93). -/
def State.spliceKnown (s : State) (u : UnitRec) (f : Int) : State :=
  if (s.body u.order).splice = 1 then
    match s.segmentStart f with
    | some b => s.request (.spliceBefore (f + s.allowanceF)) (some b)
    | none => s
  else s

/-! ## Counting (R90) -/

/-- The order unit's answer to the planner's target question (R132). -/
def State.targetAllowed (s : State) : Bool :=
  match s.cut.k, (s.order s.countOrder).e with
  | some k, some e => decide (k < e)
  | _, _ => true

/-- The segment K stands in, at its start or inside (R90, R94). -/
def State.segmentOfCount (s : State) (k : Int) : Option Segment :=
  s.cut.segments.find? (fun g => decide (g.start ≤ k) &&
    match g.stop with
    | some a => decide (k < a)
    | none => true)

/-- Whether a roll begins at `x` by a forced cut: planned, outstanding or made. -/
def State.forcedAt (s : State) (x : Int) : Bool :=
  s.cut.plan.any (fun e => decide (e.x = x) && e.reasons.forced)
    || (match s.winder.out with
        | some c => decide (c.x = x) && c.reasons.forced
        | none => false)
    || (match s.winder.roll with
        | some r => decide (r.start = x)
        | none => false)

/-- A TARGET request at the end of the unit just counted (R90) is placed by R89. A retry, after a TARGET request that the full
plan dropped (R91), is dropped in its turn while any request waits for room (R95). -/
def State.placeTarget (s : State) : State :=
  if s.cut.targetDrop = true ∧ s.cut.full ≠ [] then s else s.placeAt .target s.cut.cursor false

/-- One unit is counted (R90). -/
def State.countUnit (s : State) (k : Int) (u : UnitRec) (b lFin : Int) : State :=
  let s := if s.forcedAt b && decide (k < b) then s.moveCount b else s
  if (s.segmentOfCount (s.cut.k.getD b)).isSome then s
  else
    let s := s.setCut (fun p => { p with
      first := if p.first.isNone then some u.c else p.first,
      rollOrder := if p.first.isNone then u.order else p.rollOrder,
      count := p.count + lFin, cursor := b + lFin })
    if s.targetF (s.body s.countOrder) ≤ s.cut.count ∧ s.targetAllowed = true then s.placeTarget else s

/-- The next step of the counting, when it is not suspended. -/
def State.countStep (s : State) : Option State :=
  match s.cut.k with
  | none => none
  | some k =>
    if s.cut.plan.any (fun e => e.reasons.target) then none
    else
      match s.segmentOfCount k with
      | some g => g.stop.map s.moveCount
      | none =>
        match s.track.units.find? (fun u =>
          match s.spanStart u with
          | some b => decide (s.cut.cursor ≤ b)
          | none => false) with
        | none => none
        | some u =>
          match s.spanStart u, u.lFin with
          | some b, some lFin => if u.lFinal then some (s.countUnit k u b lFin) else none
          | _, _ => none

end Sys2Proof.Machine
end

