-- ==== Sys2Proof/Machine/Winder.lean ====
section
/-! DEFINITION. The winder (5.4 to 5.6): spindles, the roll in progress, committing a cut, stall and deferral, CUT DONE and
CUT_MISSED, and the closing rolls. -/

namespace Sys2Proof.Machine

/-- Change the winder. -/
def State.setWinder (s : State) (f : Winder → Winder) : State := { s with winder := f s.winder }

/-- The other spindle. -/
def Spindle.other : Spindle → Spindle
  | .a => .b
  | .b => .a

/-- The finished length of a roll (R97). -/
def Roll.length (r : Roll) : Int := r.units.foldl (fun sum u => sum + u.lFin.getD 0) 0

/-- The order of a roll: that of its first unit (R97). -/
def Roll.order (r : Roll) : Option Nat := r.units.head?.map UnitRec.order

/-! ## Conditions for a cut (R96, R98) -/

/-- The idle spindle counts as EMPTY (R96). -/
def State.idleEmpty (s : State) : Bool :=
  match s.winder.spindles with
  | none => false
  | some (a, b) =>
    s.nodePresent .winder && decide ((match s.winder.active with
      | .a => b
      | .b => a) = SpindleState.empty)

/-- The holding queue has room, the closed rolls not yet handed over counted in (R98). -/
def State.queueRoom (s : State) : Bool := decide (s.rolls.queue.length + s.winder.closing.length < 4)

/-- The conditions of R98 that fail now. -/
def State.failing (s : State) : Blocked :=
  { spindle := !s.idleEmpty, queue := !s.queueRoom, cut := s.winder.out.isSome }

/-- No condition fails. -/
def Blocked.clear (b : Blocked) : Bool := !b.spindle && !b.queue && !b.cut

/-- The remaining distance to a coordinate in µm (R98). -/
def State.remaining (s : State) (x : Int) : Int := truncate ((x + s.yCut - s.posHF) * s.feP) 1000

/-- The lead point of a coordinate (R88). -/
def State.leadPoint (s : State) (x : Int) : Int := x + s.yCut - s.leadF

/-! ## Overlength (R103) -/

/-- The overlength test of a STALLED winder. -/
def State.overlengthTest (s : State) : State :=
  match s.winder.st, s.winder.roll with
  | .stalled, some r =>
    match r.order with
    | some o =>
      let limit := floorDiv (s.targetF (s.body o) * (100 + s.setting 49)) 100
      if limit < r.length ∧ ¬ s.faultActive winderStall 0 then s.raise winderStall 0 else s
    | none => s
  | _, _ => s

/-! ## The end of an outstanding cut (R100, R101) -/

/-- The outstanding cut is cleared and the winder goes to WINDING. The lead event of the earliest entry stays armed at its own
threshold, since R98 re-arms it only when the entry changes, moves or leaves. Where H_F has reached that threshold the event
counts as fired, and the entry is decided at once when the planner has come to rest (R100, R101, `leadStep`). -/
def State.cutLeft (s : State) : State :=
  s.setWinder (fun w => { w with
    out := none, st := .winding, blocked := { spindle := false, queue := false, cut := false }, awaitBoundary := false,
    lead := w.lead.map (fun l => { l with fired := l.fired || decide (l.threshold ≤ s.posHF) }) })

/-! ## CUT_MISSED (R101) -/

/-- The outstanding cut is given up. -/
def State.giveUpCut (s : State) : State :=
  match s.winder.out with
  | none => s
  | some c =>
    let s := s.raise cutMissed 0
    let s := s.cutLeft
    s.setCut (fun p => { p with awaiting := p.awaiting ++ [{ kind := .missed c.reasons c.x, coordinate := none }] })

/-- A CUT IN is reported lost (R99): sent again once while distance remains, and otherwise given up. The fuel says how
often a CUT IN that the link does not take may count as lost within one report. -/
def State.cutInLost (s : State) (serial : Nat) : Nat → State
  | 0 => s
  | fuel + 1 =>
    match s.winder.out with
    | none => s
    | some c =>
      if c.serial ≠ serial then s
      else if c.resent then s.giveUpCut
      else
        let rem := s.remaining c.x
        if 0 < rem then
          let s := s.setWinder (fun w => { w with out := some { c with resent := true } })
          match s.hand .winder (.cutIn rem serial) with
          | (s, false) => s
          | (s, true) => s.cutInLost serial fuel
        else s.giveUpCut

/-! ## Deciding the earliest entry (R98, R102) -/

/-- L_nom_F for the CUT_MISSED threshold of a cut at `x` (R99). -/
def State.missLength (s : State) (x : Int) : Int :=
  match s.unitAt x with
  | some u => s.lNomF (s.body u.order)
  | none =>
    match s.winder.roll.bind Roll.order with
    | some o => s.lNomF (s.body o)
    | none => 0

/-- The earliest entry becomes the outstanding cut (R98, R99); a TARGET moves the count start (R91), and a segment that
ends there is done. -/
def State.commitCut (s : State) (e : PlanEntry) (rem : Int) : State :=
  let s := s.setPlan (s.cut.plan.filter (fun q => decide (q.x ≠ e.x)))
  let s := s.setCut (fun p => { p with segments := p.segments.filter (fun g => decide (g.stop ≠ some e.x)) })
  let s := if e.reasons.target then s.moveCount e.x else s
  let serial := s.winder.cutSerial + 1
  let c : OutstandingCut :=
    { x := e.x, reasons := e.reasons, deferred := e.deferred, missAfter := e.x + s.yCut + s.missLength e.x,
      resent := false, receiver := s.winder.active.other, serial := serial }
  let s := s.setWinder (fun w => { w with
    out := some c, st := .cutIssued, cutSerial := serial, lead := none, awaitBoundary := false,
    blocked := { spindle := false, queue := false, cut := false } })
  match s.hand .winder (.cutIn rem serial) with
  | (s, false) => s
  | (s, true) => s.cutInLost serial 3

/-- An entry goes to the boundary `y`, DEFERRED, and merges with an entry already there (R102). A forced one then stands before
a TARGET counted from its old coordinate, which rule 3 of R89 takes out, so that the roll it opens is counted from `y`
(R104's law, log 23). -/
def State.deferEntry (s : State) (e : PlanEntry) (y : Int) : State :=
  let plan (old : List PlanEntry) : List PlanEntry :=
    let rest := old.filter (fun q => decide (q.x ≠ e.x))
    match rest.find? (fun q => decide (q.x = y)) with
    | some _ =>
      rest.map (fun q => if q.x = y then { q with reasons := q.reasons.union e.reasons, deferred := true } else q)
    | none => insertEntry { e with x := y, deferred := true } rest
  let s := if e.reasons.forced then s.stripFor y else s
  let s := (s.setPlan (plan s.cut.plan)).entryMoved e.x y e.reasons.orderEnd
  if e.reasons.forced then s.countFrom y else s

/-- The entry whose lead point H_F has passed goes to the next boundary, or waits for one to be known (R102). -/
def State.deferEarliest (s : State) : State :=
  match s.cut.plan with
  | [] => s
  | e :: _ =>
    match s.boundaryAfter e.x with
    | some y => (s.deferEntry e y).setWinder (fun w => { w with awaitBoundary := false, lead := none })
    | none => s.setWinder (fun w => { w with awaitBoundary := true })

/-- The winder goes to, or stays in, STALLED with its failed conditions (R102, R103). On entering, RECORD_HOLD_FULL is raised before the
overlength test raises WINDER_STALL, an order no rule states: DESIGN CHOICE (log 60). -/
def State.stall (s : State) (b : Blocked) : State :=
  let entering := decide (s.winder.st ≠ .stalled)
  let s := s.setWinder (fun w => { w with st := .stalled, blocked := b })
  let s := if b.queue && !(s.faultActive recordHoldFull 0) then s.raise recordHoldFull 0 else s
  if entering then s.overlengthTest else s

/-- The winder decides the earliest entry, which is within the lead (R98). -/
def State.decideEntry (s : State) : State :=
  match s.cut.plan with
  | [] => s
  | e :: _ =>
    let s := s.closeAtEntry e.x
    match s.cut.plan with
    | [] => s
    | e :: _ =>
      if s.failing.clear then
        let rem := s.remaining e.x
        if 0 < rem then s.commitCut e rem else s.deferEarliest
      else s.stall s.failing

/-- The state a winder that is not STALLED shows (R97). -/
def State.restingState (s : State) : WinderState := if s.winder.out.isSome then .cutIssued else .winding

/-- Whether H_F has reached the threshold that the lead event of the entry at `x` was armed with: a new cutter lead leaves an
armed event as it is (R98, R107). -/
def State.leadReached (s : State) (x : Int) : Bool :=
  s.winder.lead.any (fun l => decide (l.entry = x) && decide (l.threshold ≤ s.posHF))

/-- A STALLED winder with no blocked entry shows its resting state, and its failed conditions are dropped (R97, R102). -/
def State.unstall (s : State) : State :=
  if s.winder.st ≠ .stalled then s
  else s.setWinder (fun w => { w with
    st := s.restingState, blocked := { spindle := false, queue := false, cut := false }, awaitBoundary := false })

/-- The failed conditions of a STALLED winder are brought up to date; when none is left, an entry at its lead point is
decided at once, and otherwise the winder leaves STALLED (R102). R102 speaks of an entry that is then at least one lead ahead.
An entry past its lead point that still waits for a next boundary to be known is decided at once too, and may be committed:
DESIGN CHOICE (log 49). -/
def State.reassess (s : State) : State :=
  if s.winder.st ≠ .stalled then s
  else
    match s.cut.plan with
    | [] => s.unstall
    | e :: _ =>
      if s.failing.clear then
        let s := s.unstall
        if s.leadReached e.x then s.decideEntry else s
      else s.stall s.failing

/-- The earliest entry's lead event has fired and the entry still has to be decided: the cut that blocked it is gone (R100,
R101). A STALLED winder has decided it, and so has one whose entry waits for the next boundary (R102). -/
def State.leadUndecided (s : State) : Bool :=
  decide (s.winder.st ≠ .stalled) && !s.winder.awaitBoundary && s.winder.lead.any LeadEvent.fired

/-- The entry that the lead event was armed for has left the plan, and was not just moved (R102 takes the event from an entry it
moves). -/
def State.leadEntryLeft (s : State) : Bool :=
  s.winder.lead.any (fun l => s.cut.plan.all (fun e => decide (e.x ≠ l.entry)))

/-- The lead event is armed at the earliest entry when that has changed; `true` when the entry is to be decided at once
(R98). -/
def State.armLead (s : State) : State × Bool :=
  match s.cut.plan with
  | [] => (s.setWinder (fun w => { w with lead := none }), false)
  | e :: _ =>
    let armed := match s.winder.lead with
      | some l => decide (l.entry = e.x)
      | none => false
    if armed then (s, s.leadUndecided)
    else
      let t := s.leadPoint e.x
      let due := decide (t ≤ s.posHF)
      (s.setWinder (fun w => { w with lead := some { entry := e.x, threshold := t, fired := due }, awaitBoundary := false }),
        due)

/-- Whether H_F has passed the lead point of a blocked entry (R102). -/
def State.leadPassed (s : State) : Bool :=
  decide (s.winder.st = .stalled) && !s.winder.blocked.clear &&
    match s.winder.lead with
    | some l => l.fired && decide (l.threshold < s.posHF)
    | none => false

/-! ## The roll in progress (R97) -/

/-- The spindle a roll opened from THREAD winds on (R96). -/
def State.threadSpindle (s : State) : Spindle :=
  match s.winder.spindles with
  | some (a, b) => if a ≠ .winding ∧ b = .winding then .b else .a
  | none => .a

/-- In THREAD the first g set opens the roll in progress; an entry at its start goes into the opening reasons (R97). -/
def State.openRoll (s : State) (x : Int) : State :=
  if s.winder.st ≠ .thread then s
  else
    let opening := match s.entryAt x with
      | some e => e.reasons
      | none => Reasons.none
    let spindle := s.threadSpindle
    let s := s.setWinder (fun w => { w with
      st := .winding, active := spindle,
      roll := some { start := x, opening := opening, spindle := spindle, units := [] } })
    let s := s.setPlan (s.cut.plan.filter (fun e => decide (e.x ≠ x)))
    if opening.orderEnd then
      match (List.range 8).find? (fun n => decide ((s.order n).endAt = some x)) with
      | some n => s.report (.orderEnd n x true)
      | none => s
    else s

/-- A unit that leaves the track joins the roll whose range holds its span start (R97, R100). -/
def State.joinUnit (s : State) (u : UnitRec) : State :=
  let b := (s.spanStart u).getD 0
  match s.winder.closing.findIdx? (fun c => decide (c.roll.start ≤ b) && decide (b < c.stop)) with
  | some i => s.setWinder (fun w => { w with
      closing := modifyAt (fun c => { c with roll := { c.roll with units := c.roll.units ++ [u] } }) i w.closing })
  | none =>
    (s.setWinder (fun w => { w with roll := w.roll.map (fun r => { r with units := r.units ++ [u] }) })).overlengthTest

/-! ## CUT DONE (R100) -/

/-- The winder's part of a CUT DONE, up to the state it goes to: steps 1 to 6 but for what the other blocks are told. -/
def State.closeRoll (s : State) (c : OutstandingCut) (residual : Int) : State :=
  let before (u : UnitRec) : Bool :=
    match s.spanStart u with
    | some b => decide (b < c.x)
    | none => true
  let old := s.winder.roll
  let closed := old.toList.map (fun r =>
    ({ roll := { r with units := r.units.filter before }, stop := c.x, close := c.reasons, deferred := c.deferred,
       removed := false } : ClosingRoll))
  let late := match old with
    | some r => r.units.filter (fun u => !before u)
    | none => []
  let s := s.cutLeft.setWinder (fun w => { w with
    closing := w.closing ++ closed, active := c.receiver, residual := residual,
    roll := some { start := c.x, opening := c.reasons, spindle := c.receiver, units := late } })
  s.clear winderStall 0

/-- Whether the oldest closing roll can be handed over: every unit that starts before its end has left the track (R100). -/
def State.handoverDue (s : State) : Option ClosingRoll :=
  match s.winder.closing with
  | [] => none
  | c :: _ =>
    if s.track.units.any (fun u =>
        match s.spanStart u with
        | some b => decide (b < c.stop)
        | none => false) then none
    else some c

/-! ## Link reports (R96, R99) -/

/-- A reply of the winder drive (R96). -/
def State.winderReported (s : State) (pair : SpindleState × SpindleState) : State :=
  (s.setWinder (fun w => { w with spindles := some pair })).reassess

/-- The winder drive restarted (R96, R99). -/
def State.winderRestarted (s : State) : State :=
  ((s.setWinder (fun w => { w with spindles := none })).giveUpCut).reassess

/-! ## Classification (R105, R106) -/

/-- WASTE (R105). -/
def ClosingRoll.waste (c : ClosingRoll) : Bool :=
  (c.roll.opening.spliceBefore && c.close.spliceAfter) || c.close.changeover
    || (c.deferred && (c.close.batch || c.close.orderEnd))
    || c.roll.units.tail.any (fun u => u.flags.boundary)
    || (match c.roll.units with
        | [] => true
        | u :: rest => rest.any (fun v => decide (v.order ≠ u.order)))

/-- SHORT (R106), with the target T_F of the roll's order. -/
def ClosingRoll.short (c : ClosingRoll) (targetF : Int) : Bool := !c.close.target && decide (c.roll.length < targetF)

/-- REMNANT (R106). -/
def ClosingRoll.remnant (c : ClosingRoll) (remnantF : Int) : Bool := decide (c.roll.length < remnantF)

/-- OVERLENGTH (R106). -/
def ClosingRoll.overlength (c : ClosingRoll) : Bool := c.deferred && c.close.target

end Sys2Proof.Machine
end

