-- ==== Sys2Proof/Machine/Flags.lean ====
section
/-! DEFINITION. The flags and figures of a roll record (R111, R112), formed from the units of a closed roll. -/

namespace Sys2Proof.Machine

/-- How many units of a roll satisfy a test, saturating (R111). -/
def countUnits (us : List UnitRec) (p : UnitRec → Bool) : Nat := saturate 65535 (us.filter p).length

/-- The greatest magnitude of a quantity that some units have; 0 when none has (R111). -/
def greatest (us : List UnitRec) (f : UnitRec → Option Int) : Nat :=
  saturate 65535 (us.foldl (fun m u => match f u with
    | some v => Nat.max m v.natAbs
    | none => m) 0)

/-- The differences D of the units of a batch, which is a shade class of one order: order slot and batch number (R111). -/
def batchDifferences (us : List UnitRec) (slot b : Nat) : List Nat :=
  us.filterMap (fun u => if u.order = slot ∧ u.batch = b then u.shadeD else none)

/-- The mean of some differences, rounded half away from zero; 0 for none. -/
def meanDifference (ds : List Nat) : Nat :=
  if ds = [] then 0
  else saturate 65535 (roundHalfAway (ds.foldl (fun sum d => sum + (d : Int)) 0) ds.length).toNat

/-- The orders other than `slot` that some units are assigned to, with their counts, in order of first appearance (R111). -/
def otherOrders (us : List UnitRec) (slot : Nat) : List (Nat × Nat) :=
  (us.foldl (fun acc u =>
    if u.order = slot then acc
    else if acc.any (fun e => decide (e.1 = u.order)) then
      acc.map (fun e => if e.1 = u.order then (e.1, e.2 + 1) else e)
    else acc ++ [(u.order, 1)]) []).take 7

/-- A 16-bit word with the bits of a list of Booleans, bit 0 first. -/
def flagWord : List Bool → Nat
  | [] => 0
  | b :: bs => (if b then 1 else 0) + 2 * flagWord bs

/-- The roll flags of R112 in their bit order (6.3.1), LABEL_FAILED clear. -/
def rollFlags (c : ClosingRoll) (targetF remnantF : Int) (excursions limit : Nat) : Word :=
  let us := c.roll.units
  let any (p : UnitFlags → Bool) : Bool := us.any (fun u => p u.flags)
  BitVec.ofNat 16 (flagWord
    [c.short targetF, c.remnant remnantF, c.waste, any UnitFlags.splice, any UnitFlags.unembossed,
     any UnitFlags.mismatch, us ≠ [] && (decide (limit < excursions) || us.any (fun u => decide (u.batch = 0))),
     any UnitFlags.offStandard, any UnitFlags.register, any UnitFlags.defect, c.overlength, any UnitFlags.synthetic,
     false, any UnitFlags.changeover || c.close.changeover])

/-- The bit of LABEL_FAILED (6.3.1). -/
def labelFailedBit : Word := 0x1000#16

/-- The byte of a set of reasons; bit 6 is DEFERRED, in close reasons only (6.3.1). -/
def Reasons.byte (r : Reasons) (deferred : Bool) : Byte :=
  BitVec.ofNat 8 (flagWord [r.target, r.batch, r.spliceBefore, r.spliceAfter, r.orderEnd, r.changeover, deferred])

end Sys2Proof.Machine
end

