-- ==== Sys2Proof/Machine/ShadeCore.lean ====
section
/-! DEFINITION. What the shade unit does with verdicts and batches (chapter 4): the shade difference (R73), the batch table
and its mirror (R84, R85), deciding units and runs (R74 to R80, R83), and the classification of a unit. Requests and
replies are in Shade.lean. -/

namespace Sys2Proof.Machine

/-- Change the shade unit. -/
def State.setShade (s : State) (f : ShadeUnit → ShadeUnit) : State := { s with shade := f s.shade }

/-! ## The shade difference (R73) -/

/-- The weighted square S of a reading against a reference. -/
def shadeSquare (wL wC : Int) (r q : Reading) : Int :=
  let l := wL * (r.l - q.l)
  let a := wC * (r.a - q.a)
  let b := wC * (r.b - q.b)
  l * l + a * a + b * b

/-- Whether a reading is within a tolerance of a reference. -/
def shadeWithin (wL wC t : Int) (r q : Reading) : Bool := decide (shadeSquare wL wC r q ≤ (16 * t) * (16 * t))

/-- The reported difference D. -/
def shadeDifference (wL wC : Int) (r q : Reading) : Nat :=
  saturate 65535 ((isqrt (shadeSquare wL wC r q).toNat + 8) / 16)

/-! ## The batch table and its mirror (R84, R85) -/

/-- The bytes of mirror record `b`. -/
def BatchRec.bytes (r : BatchRec) (b : Nat) : List Byte :=
  [byte r.updates, 0, byte b, if r.isOpen then 1 else 2] ++ natBytes 2 r.ref.l.toNat ++ intBytes 2 r.ref.a
    ++ intBytes 2 r.ref.b ++ natBytes 2 r.boundaryUnit ++ natBytes 2 r.lastUnit ++ [0, 0]
    ++ natBytes 4 (saturate 4294967295 r.units) ++ natBytes 4 (saturate 4294967295 r.excursions)
    ++ natBytes 2 (saturate 65535 r.rolls) ++ [0, 0, 0, 0, 0, 0]

/-- Record `b` (1…8) changes: the table, then its mirror record with the update count advanced (R85). -/
def State.setBatch (s : State) (b : Nat) (f : BatchRec → BatchRec) : State :=
  match s.shade.batches[b - 1]? with
  | none => s
  | some r =>
    let r := f r
    let r := { r with updates := nextCyclic 255 r.updates }
    (s.setShade (fun p => { p with batches := p.batches.set (b - 1) r })).partStore (mirrorAddr b) (r.bytes b)

/-- The whole mirror is written to zero (R85). -/
def State.zeroMirror (s : State) : State := s.partStore (mirrorAddr 1) (List.replicate 256 0)

/-! ## Deciding units (R75, R83) -/

/-- The batch a unit is given when none is opened for it: the open batch, or 0 (R75, R79). -/
def State.batchNow (s : State) : Nat := s.shade.openBatch.getD 0

/-- The reference of batch `b` of the table. -/
def State.batchRef (s : State) (b : Nat) : Option Reading :=
  if b = 0 then none else (s.shade.batches[b - 1]?).map BatchRec.ref

/-- A unit is decided with a verdict and a batch: D is kept (R83), its horizon is disarmed (R79), and its batch record
counts it (R84). `counted`: the record already counts the unit. -/
def State.decideUnit (s : State) (c : Int) (v : Verdict) (b : Nat) (counted : Bool) : State :=
  match s.unit? c with
  | none => s
  | some u =>
    let body := s.body u.order
    let d := match u.reading, s.batchRef b with
      | some r, some q => some (shadeDifference body.wL body.wC r q)
      | _, _ => none
    let s := s.setUnit c (fun u => { u with verdict := v, batch := b, shadeD := d, horizonAt := none })
    if b = 0 ∨ counted = true then s
    else
      s.setBatch b (fun r => { r with
        lastUnit := u.number, units := r.units + 1,
        excursions := r.excursions + (if v = .excursion then 1 else 0) })

/-- A unit of the run is decided against a batch: EXCURSION with a reading, ABSENT without (R75, R77, R79, R80). -/
def State.decideOut (s : State) (b : Nat) (c : Int) : State :=
  match s.unit? c with
  | none => s
  | some u => s.decideUnit c (if u.reading.isSome then .excursion else .absent) b false

/-- The run is decided as excursions of the open batch, or of batch 0, and emptied (R75, R79). -/
def State.decideRun (s : State) : State :=
  let run := s.shade.run
  let b := s.batchNow
  let s := run.foldl (fun s c => s.decideOut b c) s
  s.setShade (fun p => { p with run := [], runReadings := 0 })

/-- The open batch is closed (R74, R76, R82). -/
def State.closeBatch (s : State) : State :=
  match s.shade.openBatch with
  | none => s
  | some b =>
    ((s.setBatch b (fun r => { r with isOpen := false })).setShade (fun p => { p with openBatch := none })).latch .batch

/-! ## Opening a batch (R76, R80) -/

/-- The present readings of the run. -/
def State.runReadings (s : State) : List Reading :=
  s.shade.run.filterMap (fun c => (s.unit? c).bind UnitRec.reading)

/-- The candidate reference: component means, rounded half away from zero (R76). -/
def candidate (rs : List Reading) : Reading :=
  let n : Int := rs.length
  { l := roundHalfAway (rs.foldl (fun sum r => sum + r.l) 0) n,
    a := roundHalfAway (rs.foldl (fun sum r => sum + r.a) 0) n,
    b := roundHalfAway (rs.foldl (fun sum r => sum + r.b) 0) n }

/-- The reference store takes a new batch's reference as its newest entry (R110). -/
def State.storeRef (s : State) (order : OrderKey) (b : Nat) (ref : Reading) : State :=
  let l := s.rolls.store ++ [{ order := order, batch := b, ref := ref }]
  { s with rolls := { s.rolls with store := l.drop (l.length - 16) } }

/-- The next batch opens for a consistent run whose first unit is `c` (R76). -/
def State.openNewBatch (s : State) (c : Int) (ref : Reading) : State :=
  match s.unit? c with
  | none => s
  | some u =>
    let s := s.closeBatch
    let b := s.shade.batches.length + 1
    let run := s.shade.run
    let last := match run.getLast?.bind s.unit? with
      | some w => w.number
      | none => u.number
    let r : BatchRec :=
      { isOpen := true, ref := ref, boundaryUnit := u.number, lastUnit := last, units := run.length, excursions := 0,
        rolls := 0, updates := 1 }
    let s := s.setShade (fun p => { p with
      batches := p.batches ++ [r], openBatch := some b, run := [], runReadings := 0 })
    let s := s.partStore (mirrorAddr b) (r.bytes b)
    let s := s.setUnit c (fun u => { u with flags := { u.flags with boundary := true } })
    let s := run.foldl (fun s d =>
      match s.unit? d with
      | some w => s.decideUnit d (if w.reading.isSome then .isIn else .absent) b true
      | none => s) s
    let s := match s.shade.classifying with
      | some k => s.storeRef k b ref
      | none => s
    let s := s.request .batch (s.spanStart u)
    s.latch .batch

/-- A ninth batch would open: the run becomes excursions of batch 8 (R80). -/
def State.tableFullRun (s : State) : State :=
  let run := s.shade.run
  let s := run.foldl (fun s c => s.decideOut 8 c) s
  let raised := s.shade.tableFull
  let s := s.setShade (fun p => { p with run := [], runReadings := 0, tableFull := true })
  if raised then s else s.raise batchTableFull 0

/-- How many units leave an inconsistent run: its first, and the ABSENT ones up to the next reading (R77). -/
def State.shedCount (s : State) : Nat :=
  1 + ((s.shade.run.drop 1).takeWhile (fun c => ((s.unit? c).bind UnitRec.reading).isNone)).length

/-- An inconsistent run sheds its oldest reading (R77). -/
def State.shedRun (s : State) : State :=
  let n := s.shedCount
  let b := s.batchNow
  let s := (s.shade.run.take n).foldl (fun s c => s.decideOut b c) s
  s.setShade (fun p => { p with run := p.run.drop n, runReadings := p.runReadings - 1 })

/-- The test of the run when a reading has joined it (R76, R77, R80). -/
def State.testRun (s : State) (body : OrderBody) : State :=
  if body.persistence ≤ (s.shade.runReadings : Int) then
    let rs := s.runReadings
    let ref := candidate rs
    if rs.all (fun r => shadeWithin body.wL body.wC body.tol r ref) then
      if 8 ≤ s.shade.batches.length then s.tableFullRun
      else
        match s.shade.run.head? with
        | some c => s.openNewBatch c ref
        | none => s
    else s.shedRun
  else s

/-! ## Classification (R74, R75, R78, R81, R82) -/

/-- The classifying order changes: the old order's run is decided, its batch closed, the table and mirror emptied (R74). -/
def State.changeClassifying (s : State) (k : OrderKey) : State :=
  let s := s.decideRun.closeBatch
  let s := s.setShade (fun p => { p with batches := [], openBatch := none, tableFull := false, classifying := some k })
  s.zeroMirror.latch .batch

/-- A present reading is written to its unit and tested against the standard shade (R74, R81). -/
def State.writeReading (s : State) (c : Int) (body : OrderBody) (r : Reading) : State :=
  let standard : Reading := { l := body.stdL, a := body.stdA, b := body.stdB }
  let off := decide (body.stdPresent = 1) && !(shadeWithin body.wL body.wC body.stdTol r standard)
  s.setUnit c (fun u => { u with
    reading := some r, flags := { u.flags with offStandard := u.flags.offStandard || off } })

/-- A reading joins the run as OUT_RUN, and the run is tested (R75, R78). -/
def State.joinRun (s : State) (c : Int) (body : OrderBody) : State :=
  let s := s.setUnit c (fun u => { u with verdict := .outRun })
  (s.setShade (fun p => { p with run := p.run ++ [c], runReadings := p.runReadings + 1 })).testRun body

/-- A unit with its result, for a classifying order that is not DONE (R75, R78). -/
def State.classifyRunning (s : State) (c : Int) (body : OrderBody) (result : Option Reading) : State :=
  match result with
  | some r =>
    match s.shade.openBatch with
    | some b =>
      if (s.batchRef b).any (fun q => shadeWithin body.wL body.wC body.tol r q) then
        s.decideRun.decideUnit c .isIn b false
      else s.joinRun c body
    | none => s.joinRun c body
  | none =>
    if s.shade.run = [] then s.decideUnit c .absent s.batchNow false
    else
      (s.setUnit c (fun u => { u with verdict := .absent })).setShade (fun p => { p with run := p.run ++ [c] })

/-- A unit reaches classification with its result (R74, R75, R78, R81, R82). -/
def State.classify (s : State) (c : Int) (result : Option Reading) : State :=
  match s.unit? c with
  | none => s
  | some u =>
    let body := s.body u.order
    let s := match result with
      | some r => s.writeReading c body r
      | none => s
    let k := s.orderKey u.order
    let s := if s.shade.classifying = some k then s else s.changeClassifying k
    if (s.order u.order).st = .done then
      s.decideUnit c (if result.isSome then .excursion else .absent) 0 false
    else s.classifyRunning c body result

/-- The classifying order becomes DONE (R82). -/
def State.shadeOrderDone (s : State) (k : OrderKey) : State :=
  if s.shade.classifying = some k then s.decideRun.closeBatch else s

/-- A composed roll is counted in its batch record (R84, R108). -/
def State.countRoll (s : State) (k : OrderKey) (b : Nat) (waste : Bool) : State :=
  if s.shade.classifying = some k ∧ b ≠ 0 ∧ waste = false then s.setBatch b (fun r => { r with rolls := r.rolls + 1 })
  else s

/-- Whether a unit has been decided: it is neither PENDING nor in the run (R79). -/
def State.undecided (s : State) (u : UnitRec) : Bool := decide (u.verdict = .waiting) || decide (u.c ∈ s.shade.run)

/-- At an activation the cut count becomes 0 and a pending calibration is dropped (R71). -/
def State.shadeActivated (s : State) : State :=
  s.setShade (fun p => { p with cutCount := 0, calPending := false, calAgain := false })

end Sys2Proof.Machine
end

