-- ==== Sys2Proof/Machine/Rolls.lean ====
section
/-! DEFINITION. The roll-record block (chapter 6): composing a record, labels and the label line, templates, and moving a
record into a roll slot. -/

namespace Sys2Proof.Machine

/-- Change the roll-record block. -/
def State.setRolls (s : State) (f : RollUnit → RollUnit) : State := { s with rolls := f s.rolls }

/-- Change the record with a sequence number. -/
def State.setRecord (s : State) (seq : Nat) (f : RollRec → RollRec) : State :=
  s.setRolls (fun r => { r with queue := r.queue.map (fun q => if q.seq = seq then f q else q) })

/-! ## Composing a record (R108 to R112) -/

/-- The order of a closed roll: that of its first unit, or of the roll closed before it (R104). -/
def State.rollOrder (s : State) (c : ClosingRoll) : OrderKey :=
  match c.roll.order with
  | some n => s.orderKey n
  | none => s.rolls.lastOrder

/-- Whether the copy of the roll's order is still held. It is while a unit of the order is in the roll (R123); a roll with no
units may come after its order was retired. -/
def State.copyHeld (s : State) (c : ClosingRoll) : Bool :=
  c.roll.order.isSome ||
    (let k := s.rollOrder c
     decide (s.orderKey k.slot = k) && (s.order k.slot).body.isSome)

/-- What a roll with no units carries of its order when no roll was composed before it: free values inside the ranges of 7.1.1
(log 51). -/
def unnamedOrder (n : Nat) : OrderBody :=
  { OrderBody.zero with
    ref := ((Config.freeNumber n 0 % 4294967296 : Nat) : Int), product := (List.range 16).map (Config.freeCharacter n),
    batchPrefix := (List.range 4).map (fun i => Config.freeCharacter n (16 + i)),
    template := ((Config.freeNumber n 1 % 4 : Nat) : Int), target := ((20000 + Config.freeNumber n 2 % 280001 : Nat) : Int),
    excLimit := ((Config.freeNumber n 3 % 10000 : Nat) : Int) }

/-- The body a record takes its values from: the order unit's copy (R109). R123 discards that copy although a roll with no units may
still follow; such a roll takes the values from what the roll composed before it left: DEDUCED (log 51). -/
def State.recordBody (s : State) (c : ClosingRoll) : OrderBody :=
  if s.copyHeld c then s.body (s.rollOrder c).slot
  else
    match s.rolls.lastComposed with
    | some p => p.body
    | none => unnamedOrder s.freeIdx

/-- The roll number of a record: the order's last roll number plus 1 (R109). For a roll with no units that number is the one of
the roll composed before it, whether or not the order's copy is still held; with no such roll it is free (log 51). -/
def State.recordNumber (s : State) (c : ClosingRoll) : Nat :=
  if s.copyHeld c then nextCyclic 65535 (s.order (s.rollOrder c).slot).lastRoll
  else
    match s.rolls.lastComposed with
    | some p => nextCyclic 65535 p.number
    | none => 1 + Config.freeNumber s.freeIdx 4 % 65535

/-- The reference of a roll's batch from the reference store; zero when there is none (R110). -/
def State.storedRef (s : State) (k : OrderKey) (b : Nat) : Reading :=
  match s.rolls.store.reverse.find? (fun e => decide (e.order = k ∧ e.batch = b ∧ b ≠ 0)) with
  | some e => e.ref
  | none => { l := 0, a := 0, b := 0 }

/-- The record of a closed roll with the given sequence and roll number (R109 to R112). -/
def State.rollRecord (s : State) (c : ClosingRoll) (seq number : Nat) : RollRec :=
  let us := c.roll.units
  let k := s.rollOrder c
  let b := s.recordBody c
  let batch := match us with
    | u :: _ => u.batch
    | [] => 0
  let ds := batchDifferences us k.slot batch
  let excursions := countUnits us (fun u => decide (u.verdict = .excursion))
  { seq := seq, order := k, orderRef := b.ref.toNat, product := b.product, batchPrefix := b.batchPrefix,
    excLimit := b.excLimit.toNat, template := b.template.toNat, rollNumber := number, batch := batch, ref := s.storedRef k batch,
    flags := rollFlags c (s.targetF b) s.remnantF (us.filter (fun u => decide (u.verdict = .excursion))).length
      b.excLimit.toNat,
    length := toLength c.roll.length s.feP, units := countUnits us (fun u => decide (u.order = k.slot)),
    firstUnit := match us with
      | u :: _ => u.number
      | [] => 0,
    start := c.roll.start, stop := c.stop, opening := c.roll.opening, close := c.close, deferred := c.deferred,
    spindle := c.roll.spindle, label := .waiting, jobNumber := 0, maxDev := greatest us UnitRec.dev,
    matchUnits := countUnits us (fun u => u.flags.mismatch), meanD := meanDifference ds,
    maxD := saturate 65535 (ds.foldl Nat.max 0), excursions := excursions,
    absents := countUnits us (fun u => decide (u.verdict = .absent)),
    unembossed := countUnits us (fun u => u.flags.unembossed), register := countUnits us (fun u => u.flags.register),
    defect := countUnits us (fun u => u.flags.defect), estimated := countUnits us (fun u => u.flags.estimated),
    synthetic := countUnits us (fun u => u.flags.synthetic), others := otherOrders us k.slot,
    maxPhi := greatest us (fun u => if u.flags.unembossed then none else u.phi), removed := c.removed }

/-- A closed roll is composed: the record joins the queue, and the shade unit is told of it (R108, R109). -/
def State.compose (s : State) (c : ClosingRoll) : State :=
  let k := s.rollOrder c
  let seq := nextCyclic 4294967295 s.rolls.seq
  let number := s.recordNumber c
  let r := s.rollRecord c seq number
  let body := s.recordBody c
  let s :=
    if s.copyHeld c then s.setOrder k.slot (fun o => { o with lastRoll := number })
    else if s.rolls.lastComposed.isSome then s
    else { s with freeIdx := s.freeIdx + 1 }
  let s := s.setRolls (fun u => { u with
    queue := u.queue ++ [r], seq := seq, lastOrder := k, lastComposed := some { number := number, body := body } })
  s.countRoll k r.batch (r.flags.getLsbD 2)

/-! ## Templates (R119) -/

/-- ASCII bytes of a short text. -/
def textBytes (t : String) : List Byte := t.toList.map (fun c => byte c.toNat)

/-- The codes of FLAGS_TEXT with their flag bits, in their order (R119). -/
def flagCodes : List (Nat × String) :=
  [(0, "SHT"), (1, "RMN"), (2, "WST"), (10, "OVL"), (3, "SPL"), (4, "UNE"), (5, "MAT"), (6, "OOS"), (7, "OFS"),
   (8, "REG"), (9, "DEF"), (11, "SYN"), (13, "CHG")]

/-- FLAGS_TEXT: codes separated by single spaces, up to the first that would take the line past 24 characters. -/
def flagsText (flags : Word) : List Byte :=
  let codes := (flagCodes.filter (fun c => flags.getLsbD c.1)).map (fun c => textBytes c.2)
  (codes.foldl (fun (acc : List Byte × Bool) c =>
    let line := if acc.1 = [] then c else acc.1 ++ [byte 32] ++ c
    if acc.2 && decide (line.length ≤ 24) then (line, true) else (acc.1, false)) ([], true)).1

/-- Text without its trailing spaces. -/
def trimText (bs : List Byte) : List Byte := (bs.reverse.dropWhile (fun b => decide (b = byte 32))).reverse

/-- LENGTH_M: metres to one decimal (R119). -/
def lengthText (len : Int) : List Byte :=
  let t := (roundHalfAway len 1000).toNat
  decimal (t / 10) ++ [byte 46, byte (48 + t % 10)]

/-- BATCH: WASTE, or the prefix and two digits (R119). -/
def batchText (r : RollRec) : List Byte :=
  if r.flags.getLsbD 2 then textBytes "WASTE" else r.batchPrefix ++ [byte (48 + r.batch / 10 % 10), byte (48 + r.batch % 10)]

/-- A field reference rendered (R119); none for a kind above 7. -/
def fieldText (r : RollRec) (kind : Nat) : Option (List Byte) :=
  if kind = 1 then some (decimal r.orderRef)
  else if kind = 2 then some (trimText r.product)
  else if kind = 3 then some (decimal r.rollNumber)
  else if kind = 4 then some (batchText r)
  else if kind = 5 then some (lengthText r.length)
  else if kind = 6 then some (flagsText r.flags)
  else if kind = 7 then some (decimal r.seq)
  else none

/-- The lines of `n` template entries packed in `bs`; none when rendering fails (R119). -/
def renderLines (r : RollRec) : Nat → List Byte → Option (List (List Byte))
  | 0, _ => some []
  | n + 1, bs =>
    match bs with
    | [] => none
    | k :: rest =>
      if k = 0 then
        match rest with
        | [] => none
        | c :: chars =>
          if 24 < c.toNat ∨ chars.length < c.toNat then none
          else (renderLines r n (chars.drop c.toNat)).map (fun ls => chars.take c.toNat :: ls)
      else
        match fieldText r k.toNat with
        | some line => (renderLines r n rest).map (fun ls => line.take 24 :: ls)
        | none => none

/-- A record's template rendered from exchange memory (R119). -/
def State.render (s : State) (r : RollRec) : Option (List (List Byte)) :=
  match s.readBytes (templateAddr r.template) 256 with
  | [] => none
  | n :: bs => if 12 < n.toNat then none else renderLines r n.toNat bs

/-! ## The label line (6.2, 6.2.1) -/

/-- A frame of the label line: start byte, kind, length, body, check (6.2.1). -/
def labelFrame (kind : Nat) (body : List Byte) : List Byte :=
  let covered := byte kind :: natBytes 2 body.length ++ body
  byte 0xA5 :: covered ++ [byte (256 - (covered.foldl (fun sum b => sum + b.toNat) 0) % 256)]

/-- The body of a JOB (6.2.1). -/
def jobBody (number : Nat) (lines : List (List Byte)) : List Byte :=
  byte number :: byte lines.length :: (lines.map (fun l => byte l.length :: l)).flatten

/-- A record's label becomes FAILED, and LABEL_FAILED is raised (R114, R117, R119). -/
def State.failLabel (s : State) (seq : Nat) : State :=
  (s.setRecord seq (fun r => { r with label := .failed, flags := r.flags ||| labelFailedBit })).raise labelFailed 0

/-- The head PENDING record: the oldest whose label is PENDING (R113). -/
def State.headPending (s : State) : Option RollRec := s.rolls.queue.find? (fun r => decide (r.label = .waiting))

/-- A JOB starts for a record (R113). -/
def State.startJob (s : State) (r : RollRec) (lines : List (List Byte)) : State :=
  let n := s.rolls.nextJob
  let s := s.setRecord r.seq (fun q => { q with label := .sent, jobNumber := n })
  s.setRolls (fun u => { u with
    nextJob := nextCyclic 99 n, job := some { seq := r.seq, number := n, replyTimer := false }, waitTimer := false,
    tx := labelFrame 1 (jobBody n lines) })

/-- The test of R113 and R114: a job is started, a bad template fails its record and the next is tested, or the wait timer
runs. The queue holds at most 4 records, which bounds the fuel. -/
def State.labelTest (s : State) : Nat → State
  | 0 => s
  | fuel + 1 =>
    match s.rolls.job with
    | some _ => s.setRolls (fun u => { u with waitTimer := false })
    | none =>
      match s.headPending with
      | none => s.setRolls (fun u => { u with waitTimer := false })
      | some r =>
        if s.rolls.printer = some true then
          match s.render r with
          | some lines => s.startJob r lines
          | none => (s.failLabel r.seq).labelTest fuel
        else s.setRolls (fun u => { u with waitTimer := true })

/-- The label test after a change of the queue, the job or the printer report. -/
def State.labelNext (s : State) : State := s.labelTest 8

/-- The job ends and the next record is tested (R117). -/
def State.endJob (s : State) : State := (s.setRolls (fun u => { u with job := none })).labelNext

/-- A received frame is discarded and counted (R115). -/
def State.labelRejected (s : State) : State :=
  s.setRolls (fun u => { u with rxErrors := saturate 65535 (u.rxErrors + 1) })

/-- An ACK with a job number (R117). -/
def State.labelAcked (s : State) (n : Nat) : State :=
  match s.rolls.job with
  | some j =>
    if j.number = n then
      (s.setRecord j.seq (fun r => { r with label := if r.removed then .applied else .printed })).endJob
    else s
  | none => s

/-- A NAK with a job number (R117). -/
def State.labelNaked (s : State) (n : Nat) : State :=
  match s.rolls.job with
  | some j => if j.number = n then (s.failLabel j.seq).endJob else s
  | none => s

/-- The reply timer runs out (R117). -/
def State.labelReplyExpired (s : State) : State :=
  match s.rolls.job with
  | some j => if j.replyTimer then (s.failLabel j.seq).endJob else s
  | none => s

/-- The wait timer reaches 30 s (R114): the head fails, and the next record's timer starts from 0. -/
def State.labelWaitExpired (s : State) : State :=
  if s.rolls.waitTimer then
    match s.headPending with
    | some r => ((s.setRolls (fun u => { u with waitTimer := false })).failLabel r.seq).labelNext
    | none => s
  else s

/-! ## ROLL_REMOVED (R118) -/

/-- Mark the first closing roll on a spindle that is not yet marked. -/
def markClosing (sp : Spindle) : List ClosingRoll → List ClosingRoll
  | [] => []
  | c :: rest =>
    if c.roll.spindle = sp ∧ c.removed = false then { c with removed := true } :: rest else c :: markClosing sp rest

/-- ROLL_REMOVED for a spindle (R118). -/
def State.rollRemoved (s : State) (sp : Spindle) : State :=
  match s.rolls.queue.find? (fun r => decide (r.spindle = sp) && !r.removed) with
  | some r =>
    s.setRecord r.seq (fun q => { q with
      removed := true, label := if q.label = .printed then .applied else q.label })
  | none => s.setWinder (fun w => { w with closing := markClosing sp w.closing })

/-! ## Roll slots (R120, R121) -/

/-- The label state's code (6.2, 6.3.1). -/
def LabelState.code : LabelState → Nat
  | .waiting => 1
  | .sent => 2
  | .printed => 3
  | .applied => 4
  | .failed => 5

/-- The body of a roll record, from offset 0x04 on (6.3.1). The unit counts of other-order entries not in use, whose slots read 0xFF,
are written as 0: DESIGN CHOICE (log 64). -/
def RollRec.bytes (r : RollRec) : List Byte :=
  let slots := r.others.map (fun e => byte e.1)
  let counts := r.others.map (fun e => natBytes 2 (saturate 65535 e.2))
  natBytes 4 r.seq ++ natBytes 4 r.orderRef ++ natBytes 2 r.rollNumber ++ [byte r.order.slot, byte r.batch]
    ++ natBytes 2 r.ref.l.toNat ++ intBytes 2 r.ref.a ++ intBytes 2 r.ref.b ++ natBytes 2 r.flags.toNat
    ++ natBytes 4 r.length.toNat ++ natBytes 2 r.units ++ natBytes 2 r.firstUnit ++ intBytes 6 r.start
    ++ intBytes 6 r.stop ++ [r.close.byte r.deferred, r.opening.byte false,
      (match r.spindle with
        | .a => 0
        | .b => 1), byte r.label.code, byte r.jobNumber, 0]
    ++ natBytes 2 r.maxDev ++ natBytes 2 r.matchUnits ++ natBytes 2 r.meanD ++ natBytes 2 r.maxD
    ++ natBytes 2 r.excursions ++ natBytes 2 r.absents ++ natBytes 2 r.unembossed ++ natBytes 2 r.register
    ++ natBytes 2 r.defect ++ natBytes 2 r.estimated ++ natBytes 2 r.synthetic
    ++ (slots ++ List.replicate (7 - slots.length) 0xFF#8) ++ [byte r.others.length]
    ++ (counts.flatten ++ List.replicate (14 - 2 * r.others.length) 0) ++ natBytes 2 r.maxPhi

/-- Whether a roll slot is free (R120). -/
def State.rollSlotFree (s : State) (n : Nat) : Bool :=
  let t := s.readNat (rollSlotAddr n) 1
  decide (t = 0) || decide (t = s.readNat (rollSlotAddr n + 2) 1)

/-- The head record is written into slot `n`, tag last, and leaves the queue; the winder is told (R121, R108, R102). -/
def State.moveRecord (s : State) (r : RollRec) (n : Nat) : State :=
  let a := rollSlotAddr n
  let s := s.partStore (a + 0x04) r.bytes
  let t := nextTag (s.readNat a 1) (s.readNat (a + 2) 1)
  let s := (s.partStore a [byte t, 0]).tagWritten
  let s := (s.setRolls (fun u => { u with queue := u.queue.drop 1 })).latch .roll
  (s.clear recordHoldFull 0).reassess

/-- Ready records at the head of the queue are moved into the free slots, lowest first (R120). -/
def State.moveRecords (s : State) : List Nat → State
  | [] => s
  | n :: rest =>
    match s.rolls.queue with
    | [] => s
    | r :: _ => if r.label = .applied ∨ r.label = .failed then (s.moveRecord r n).moveRecords rest else s

end Sys2Proof.Machine
end

