-- ==== Sys2Proof/Machine/Draw.lean ====
section
/-! DEFINITION. The draw loop (3.4): blocks of eight measured lengths, the trim total, DRAW_LIMIT, and the draw drive's
reports. -/

namespace Sys2Proof.Machine

/-- The settle length of the active order (R63); 0 when none is active (R66). -/
def State.drawSettleLength (s : State) : Nat :=
  match s.activeBody with
  | some b => saturate 255 (ceilDiv (s.setting 5) b.nominal + 1).toNat
  | none => 0

/-- The target of the draw loop (3.4). -/
def State.drawTarget (s : State) : Int :=
  match s.activeBody with
  | some b => if b.emboss = 1 then s.cF else s.lNomF b
  | none => 0

/-- Whether the last draw report shows AT_LIMIT. -/
def State.drawAtLimit (s : State) : Bool :=
  match s.draw.report with
  | some r => r.atLimit
  | none => false

/-- Whether the last draw report shows READY. -/
def State.drawReady (s : State) : Bool :=
  match s.draw.report with
  | some r => r.ready
  | none => false

/-- DRAW_LIMIT follows its condition (R65). -/
def State.followDrawLimit (s : State) : State :=
  s.follow drawLimitFault 0
    (s.ord.active.isSome && (decide (magnitude s.draw.total = s.setting 43) || s.drawAtLimit))

/-- The total is handed to the link (R64, R66). -/
def State.sendDraw (s : State) : State := (s.hand .draw (.drawTrim s.draw.total)).1

/-- The total goes out again and the settle count restarts (R66). -/
def State.drawResend (s : State) : State :=
  State.sendDraw { s with draw := { s.draw with settle := s.drawSettleLength } }

/-- The new total that a full block gives (R64): held, or moved by the step, within the limit. -/
def State.drawTotal (s : State) (rho : Int) : Int :=
  let step := roundHalfAway (rho * s.setting 42) 64
  let moved :=
    if magnitude rho ≤ s.setting 41 then s.draw.total
    else if sameSign step s.draw.total && s.drawAtLimit then s.draw.total
    else s.draw.total + step
  clamp moved (s.setting 43)

/-- A full block is computed (R64, R65). -/
def State.computeDraw (s : State) : State :=
  let mean := floorDiv s.draw.sum 8
  let rho := roundHalfAway ((s.drawTarget - mean) * 1000000) mean
  let total := s.drawTotal rho
  let changed := decide (total ≠ s.draw.total)
  let s := { s with draw := { s.draw with sum := 0, count := 0, total := total } }
  (if changed then s.drawResend else s).followDrawLimit

/-- A measured length is gathered, or fails a condition (R63). -/
def State.gatherDraw (s : State) (ofActive settled : Bool) (lFin : Int) : State :=
  let broken := decide (s.fault.st = .stopped) || !s.drawReady || !s.nodePresent .draw
  if broken then { s with draw := { s.draw with sum := 0, count := 0 } }
  else if ofActive && settled then
    let s := { s with draw := { s.draw with sum := s.draw.sum + lFin, count := s.draw.count + 1 } }
    if 8 ≤ s.draw.count then s.computeDraw else s
  else s

/-- A unit's length became final (R63). -/
def State.drawFinal (s : State) (slot : Nat) (measured : Bool) (lFin : Int) : State :=
  let ofActive := decide (s.ord.active = some slot)
  let settled := decide (s.draw.settle = 0)
  let s := if ofActive then { s with draw := { s.draw with settle := s.draw.settle - 1 } } else s
  if measured then s.gatherDraw ofActive settled lFin else s

/-- A reply of the draw drive (R65, R66): newly READY after a report without READY, the total goes out again. -/
def State.drawReported (s : State) (r : DrawReport) : State :=
  let newly := match s.draw.report with
    | some old => !old.ready && r.ready
    | none => false
  let s := { s with draw := { s.draw with report := some r } }
  (if newly then s.sendDraw else s).followDrawLimit

/-- The draw drive shows PRESENT (R66): at first the total goes out, and at a return the settle count restarts too. -/
def State.drawPresent (s : State) : State :=
  if s.draw.shown then s.drawResend else State.sendDraw { s with draw := { s.draw with shown := true } }

/-- The draw loop at an activation (R66). -/
def State.drawActivated (s : State) : State :=
  let moved := decide (s.draw.total ≠ 0)
  let s := { s with draw := { s.draw with sum := 0, count := 0, total := 0, settle := 0 } }
  (if moved then s.drawResend else s).followDrawLimit

end Sys2Proof.Machine
end

