-- ==== Sys2Proof/Machine/Emboss.lean ====
section
/-! DEFINITION. The emboss loop (3.1, 3.2) and pattern match (2.5): drive reports, index stamps and phase measurements,
corrections, lock and loss, the drive timer, what the link reports lost, and the UNEMBOSSED check. -/

namespace Sys2Proof.Machine

/-! ## Conditions followed as they stand -/

/-- EMBOSS_COLD follows its condition (R60). -/
def State.followCold (s : State) : State := s.follow embossCold 0 (s.embossOrder && s.emb.warm && !s.atTemperature)

/-! ## What the link reports lost (R59) -/

/-- A PHASE TRIM of the emboss drive is lost: settling ends (R59). -/
def State.embossTrimLost (s : State) : State :=
  if 0 < s.emb.settle then { s with emb := { s.emb with settle := 0, reload := true } } else s

/-- An ENGAGE is lost (R59): handed once more when it may be, else the loop returns to LIFTED. -/
def State.engageLost (s : State) : State :=
  if s.emb.st ≠ .engaging then s
  else if !s.emb.resent && !s.emb.liftPending && s.atTemperature && !s.lifts then
    match ({ s with emb := { s.emb with resent := true, timer := true } }.hand .emboss .engage) with
    | (s, false) => s
    | (s, true) => s.enterLifted
  else s.enterLifted

/-- A LIFT is lost (R59). -/
def State.liftLost (s : State) : State :=
  if s.emb.st = .lifting ∧ s.emb.resent = false then
    ({ s with emb := { s.emb with resent := true, timer := true } }.hand .emboss .lift).1
  else s

/-- The emboss drive restarted (R59). -/
def State.embossRestarted (s : State) : State :=
  let off := decide (s.emb.st = .off)
  let s := { s with emb := { s.emb with warm := false } }
  let s := if off then s
    else State.enterLifted { s with emb := { s.emb with settle := 0, lock := 0, loss := 0, phi16 := 0 } }
  s.followCold

/-! ## Drive reports (R51, R56, R57) -/

/-- What a reported position does in the loop's present state. -/
def State.embossPosition (s : State) (p : EmbossPosition) : State :=
  match p with
  | .moving => s
  | .engaged =>
    match s.emb.st with
    | .off => s.sendLift
    | .lifted => s.sendLift
    | .syncing => s.sendLift
    | .engaging =>
      if s.emb.liftPending then s.sendLift
      else { s with emb := { s.emb with st := .engaged, timer := false, loss := 0 } }
    | .engaged => s
    | .lifting => s
  | .lifted =>
    match s.emb.st with
    | .lifting => s.enterLifted
    | .engaged => s.enterLifted
    | .off => s
    | .lifted => s
    | .syncing => s
    | .engaging => s

/-- A reply of the emboss drive becomes the last drive report (R51): its temperature first, then its position. -/
def State.embossReported (s : State) (r : EmbossReport) : State :=
  let s := { s with emb := { s.emb with report := some r, warm := s.emb.warm || r.atTemperature } }
  (s.followCold.settle).embossPosition r.position

/-! ## Phase measurements (R47 to R50, R55, R58) -/

/-- The reduction of a raw phase into (-C/2, C/2] (R48). -/
def reducePhase (v c : Int) : Int :=
  let m := v % c
  if c < 2 * m then m - c else m

/-- The phase error of a unit with FE coordinate `g` against the index stamp `i` (R48). -/
def State.phaseError (s : State) (g i : Int) : Int := reducePhase (g - i - s.thetaF) s.cF

/-- The emboss correction in µm (R50). -/
def State.embossCorrection (s : State) (phi16 : Int) : Int :=
  clamp (-roundHalfAway (phi16 * s.feP * s.setting 37) 1024000) (s.setting 38)

/-- The correction decision (R50). -/
def State.correctEmboss (s : State) : State :=
  let phi := s.emb.phi16
  if magnitude phi ≤ 16 * s.embossDeadband then s
  else
    let c := s.embossCorrection phi
    if c ≠ 0 ∧ s.nodePresent .emboss = true then
      match ({ s with emb := { s.emb with settle := 2, lock := 0 } }.hand .emboss (.phaseTrim c)) with
      | (s, false) => s
      | (s, true) => s.embossTrimLost
    else s

/-- ENGAGE is handed to the link and the loop goes to ENGAGING (R55). -/
def State.sendEngage (s : State) : State :=
  let s := { s with emb := { s.emb with st := .engaging, timer := true, resent := false, liftPending := false } }
  match s.hand .emboss .engage with
  | (s, false) => s
  | (s, true) => s.engageLost

/-- The lock test in SYNCING, and the correction decision unless it has just sent ENGAGE (R50, R55). -/
def State.lockTest (s : State) : State :=
  let ok := decide (magnitude s.emb.phi16 ≤ 16 * s.lockWindow)
  let s := { s with emb := { s.emb with lock := if ok then saturate 3 (s.emb.lock + 1) else 0 } }
  if ok && decide (3 ≤ s.emb.lock) && !s.lifts && s.nodePresent .emboss then s.sendEngage else s.correctEmboss

/-- The loss test in ENGAGED (R58). -/
def State.lossTest (s : State) (phi : Int) : State :=
  let loss := if s.liftWindow < magnitude phi then saturate 3 (s.emb.loss + 1) else 0
  let s := { s with emb := { s.emb with loss := loss } }
  if 3 ≤ loss ∧ ¬ s.faultActive embossRegisterLoss 0 then s.raise embossRegisterLoss 0 else s

/-- The filter update of R49. -/
def State.filterPhase (s : State) (phi : Int) : State :=
  let k := (s.setting 35).toNat
  { s with emb := { s.emb with
    phi16 := if s.emb.reload then 16 * phi else s.emb.phi16 + floorDiv (16 * phi - s.emb.phi16) (2 ^ k),
    reload := false } }

/-- A measurement while settling lowers the count; at 0 the next one reloads the filter (R50). -/
def State.settlePhase (s : State) : State :=
  let n := s.emb.settle - 1
  { s with emb := { s.emb with settle := n, reload := s.emb.reload || decide (n = 0) } }

/-- A phase measurement (R49, R50, R55, R58). -/
def State.measurePhase (s : State) (phi : Int) : State :=
  let s := { s with emb := { s.emb with lastPhi := some phi } }
  let settling := decide (0 < s.emb.settle)
  match s.emb.st with
  | .syncing => if settling then s.settlePhase else (s.filterPhase phi).lockTest
  | .engaging => if settling then s.settlePhase else s.filterPhase phi
  | .engaged => (if settling then s.settlePhase else (s.filterPhase phi).correctEmboss).lossTest phi
  | .off => s
  | .lifted => s
  | .lifting => s

/-- A unit of the phase-pending list is resolved against I (R48). -/
def State.resolvePhase (s : State) (c i : Int) : State :=
  match s.unit? c with
  | none => s
  | some u =>
    match u.g with
    | none => s
    | some g =>
      if s.emb.st = .syncing ∨ s.emb.st = .engaging ∨ s.emb.st = .engaged then
        let phi := s.phaseError g i
        (s.setUnit c (fun u => { u with phi := some phi })).measurePhase phi
      else s

/-- Whether a pending unit lies before an index stamp. -/
def State.beforeStamp (s : State) (i c : Int) : Bool :=
  match s.unit? c with
  | some u => match u.g with
    | some g => decide (g < i)
    | none => false
  | none => false

/-- An index stamp (R47). -/
def State.takeIndex (s : State) (i : Int) : State :=
  let due := s.emb.phasePending.filter (s.beforeStamp i)
  let last := s.emb.lastIndex
  let s := { s with emb := { s.emb with phasePending := s.emb.phasePending.filter (fun c => !(s.beforeStamp i c)) } }
  let s := match last with
    | none => s
    | some l => due.foldl (fun s c => s.resolvePhase c l) s
  { s with emb := { s.emb with lastIndex := some i } }

/-- A matched unit whose g was not raised joins the phase-pending list, which keeps its 4 newest (R47). -/
def State.pendPhase (s : State) (c : Int) : State :=
  if s.emb.st = .off then s
  else
    let l := s.emb.phasePending ++ [c]
    { s with emb := { s.emb with phasePending := l.drop (l.length - 4) } }

/-! ## The drive timer (R56, R57) -/

/-- The drive timer runs out. -/
def State.driveTimeout (s : State) : State :=
  if s.emb.timer && decide (s.emb.st = .engaging ∨ s.emb.st = .lifting) then (s.raise embossDriveTimeout 0).sendLift else s

/-! ## The nip (R61) and the splice guards (R53) -/

/-- The UNEMBOSSED check of a unit at the nip (R61). -/
def State.checkNip (s : State) (c : Int) : State :=
  match s.unit? c with
  | none => s
  | some u =>
    let engaged := match s.emb.report with
      | some r => decide (r.position = .engaged)
      | none => false
    let hit := decide ((s.body u.order).emboss = 1) && !engaged
    s.setUnit c (fun u => { u with nipAt := none, flags := { u.flags with unembossed := u.flags.unembossed || hit } })

/-- The guard interval of a splice entry at FE coordinate `f` (R53). -/
def State.openGuard (s : State) (p f : Int) : State :=
  let stop := f + s.yNip
  let start := stop - s.guardF
  if stop < s.posHF then s
  else
    let z : Zone := { p := p, start := start, stop := stop, begun := decide (start ≤ s.posHF) }
    State.embossSettle { s with emb := { s.emb with guards := s.emb.guards ++ [z] } }

/-! ## Pattern match (R44, R45) -/

/-- The pattern-match deviation of a measured length against an order, in ppm (R44). -/
def State.deviation (s : State) (b : OrderBody) (lFin : Int) : Int :=
  roundHalfAway ((lFin - s.lNomF b) * 1000000) (s.lNomF b)

/-- A measured final length is judged (R44) and counted (R45). -/
def State.judgeMatch (s : State) (c lFin : Int) (slot : Nat) : State :=
  let b := s.body slot
  let dev := s.deviation b lFin
  let flagged := decide (b.matchTol < magnitude dev)
  let s := s.setUnit c (fun u => { u with dev := some dev, flags := { u.flags with mismatch := flagged } })
  let m := if flagged then saturate 5 (s.emb.matchCount + 1) else 0
  let n := if flagged then 0 else saturate 5 (s.emb.clearCount + 1)
  let s := { s with emb := { s.emb with matchCount := m, clearCount := n } }
  if 5 ≤ m ∧ ¬ s.faultActive matchRun 0 then s.raise matchRun 0
  else if 5 ≤ n then s.clear matchRun 0
  else s

/-! ## Activation and the end of an order (R14, R16, R18, R46, R54, R60, R62) -/

/-- δ0 of an order (R14). -/
def State.driftAt (s : State) (b : OrderBody) : Int :=
  -roundHalfAway (s.xES * b.shrink) (1000000 + b.shrink)

/-- The emboss unit at an activation. The order named is already the active one. -/
def State.embossActivated (s : State) (b : OrderBody) : State :=
  let keep := decide (s.emb.st = .engaging ∨ s.emb.st = .lifting)
  let s := { s with emb := { s.emb with
    delta := s.driftAt b, sigma := b.shrink, missCount := 0, matchCount := 0, clearCount := 0 } }
  let s := s.clear matchRun 0
  let s :=
    if b.emboss = 1 then
      let s := { s with emb := { s.emb with
        phi16 := 0, reload := true, settle := 0, lock := 0, loss := 0,
        liftPending := s.emb.liftPending && keep, resent := s.emb.resent && keep } }
      let s := s.followCold
      if s.emb.st = .off then s.enterLifted else s.embossSettle
    else s.followCold.embossSettle
  s

/-- No order is active any more (R52, R60). -/
def State.embossOrderEnded (s : State) : State := s.followCold.embossSettle

end Sys2Proof.Machine
end

