-- ==== Sys2Proof/Machine/Track.lean ====
section
/-! DEFINITION. The web track (chapter 1): creation of unit records (R6, R7), settling of splice entries (R12), the splice
list (R11), and the match windows (R14). What the setting of g brings about is in Web.lean. -/

namespace Sys2Proof.Machine

/-- No flag set. -/
def UnitFlags.none : UnitFlags :=
  { synthetic := false, splice := false, boundary := false, defect := false, unembossed := false, register := false,
    mismatch := false, estimated := false, offStandard := false, changeover := false }

/-- The most recently created record, while it is still in the track (R6). -/
def State.prevUnit? (s : State) : Option UnitRec := s.track.prevC.bind s.unit?

/-- R12: every unsettled entry below `c` is owned by the previous record when that record holds it, and is marked unowned
otherwise; an unowned entry leaves when H passes p + X_ES. -/
def settleSplice (prev : Option UnitRec) (c xES : Int) (e : SpliceRec) : SpliceRec :=
  if e.owner = .unsettled ∧ e.p < c then
    match prev with
    | some u => if u.c ≤ e.p then { e with owner := .unit u.c } else { e with owner := .unowned, dropAfter := some (e.p + xES) }
    | none => { e with owner := .unowned, dropAfter := some (e.p + xES) }
  else e

/-- Whether R12 gives the previous record an entry at the creation at `c`. -/
def ownsNewSplice (prev : UnitRec) (c : Int) (splices : List SpliceRec) : Bool :=
  splices.any (fun e => decide (e.owner = .unsettled) && decide (e.p < c) && decide (prev.c ≤ e.p))

/-- The record R6 creates, with the DEFECT of R27 and the CHANGEOVER of R132. -/
def State.newUnit (s : State) (slot : Nat) (c : Int) (synthetic : Bool) : UnitRec :=
  let b := s.body slot
  { c := c, order := slot, number := (s.order slot).nextUnit, lRh := none,
    errors := List.replicate (b.stations - 1).toNat none, g := none, lFin := none, lFinal := false,
    lMeasured := false, phi := none, reading := none, verdict := .waiting, batch := 0,
    flags := { UnitFlags.none with
      synthetic := synthetic, defect := decide (1 ≤ s.reaction.code),
      changeover := decide ((s.order slot).changeover = .stopped) },
    spurious := 0, dev := none, shadeD := none, winX := s.xES, winHalf := floorDiv (s.lNomPE b) 4, leaveAt := none,
    nipAt := none, shadeAt := none, horizonAt := none }

/-- R6: the new c exceeds the previous record's by more than half the nominal repeat. -/
def State.coordinateOrder (s : State) (slot : Nat) (c : Int) : Bool :=
  match s.track.prevC with
  | some p => decide (floorDiv (s.lNomPE (s.body slot)) 2 < c - p)
  | none => true

/-- The track takes the new record: splices are settled, the previous record takes its L_rh, the order's next unit number
advances, and the pulse ends (R6, R12, R157). -/
def State.addUnit (s : State) (slot : Nat) (c : Int) (synthetic : Bool) : State :=
  let u := s.newUnit slot c synthetic
  let prev := s.prevUnit?
  let s := match prev with
    | some p =>
      let gets := ownsNewSplice p c s.track.splices
      s.setUnit p.c (fun r => { r with
        lRh := some (c - r.c), flags := { r.flags with splice := r.flags.splice || gets } })
    | none => s
  let xES := s.xES
  let s := { s with track := { s.track with
    units := s.track.units ++ [u], prevC := some c, lastNumber := u.number,
    splices := s.track.splices.map (settleSplice prev c xES) } }
  let s := s.setOrder slot (fun o => { o with nextUnit := nextCyclic 65535 o.nextUnit, hasUnits := true })
  s.endPulse.settle

/-- A creation request to the web track (R6, R7): the new state, and whether a record was created. -/
def State.create (s : State) (c : Int) (synthetic : Bool) : State × Bool :=
  match s.ord.active with
  | none => (s, false)
  | some slot =>
    if 256 ≤ s.track.units.length then (s.raise trackFull 0, false)
    else if s.coordinateOrder slot c then (s.addUnit slot c synthetic, true)
    else (s, false)

/-! ## Match windows (R14) -/

/-- Centre of a unit's match window under the drift `delta`. -/
def UnitRec.winCentre (u : UnitRec) (delta : Int) : Int := u.c + u.winX + delta

/-- Window end of a unit under the drift `delta`. -/
def UnitRec.winEnd (u : UnitRec) (delta : Int) : Int := u.winCentre delta + u.winHalf

/-- A unit is unmatched while it has no g: it has neither been matched nor expired (log 10). -/
def UnitRec.unmatched (u : UnitRec) : Bool := u.g.isNone

/-! ## Splice list (R11) -/

/-- The nominal repeat of the same-splice test: L_nom_PE of the most recently activated order, 0 before the first. -/
def State.spliceRepeat (s : State) : Int := toCounts s.track.lastNominal s.peP

end Sys2Proof.Machine
end

