-- ==== Sys2Proof/Machine/Register.lean ====
section
/-! DEFINITION. The register unit (chapter 2): mark blocks, the reference and its expectation, the station loops, and what
a change of the taking order does to them. -/

namespace Sys2Proof.Machine

/-! ## Geometry (R23) -/

/-- Offsets o_2 … o_S: station s lies (s - 1) pitches after the reference. -/
def stationOffsets (pitch peP : Int) (stations : Nat) : List Int :=
  (List.range (stations - 1)).map (fun i => toCounts (((i : Int) + 1) * pitch) peP)

/-- The mark-block geometry of an order (R23). -/
def State.geometryOf (s : State) (b : OrderBody) : Geometry :=
  let pc := toCounts b.pitch s.peP
  { stations := b.stations.toNat, pitch := pc, half := floorDiv pc 2, quiet := 2 * pc,
    offsets := stationOffsets b.pitch s.peP b.stations.toNat, lNom := s.lNomPE b }

/-- Block end r + o_S + h (R24, R28). -/
def Geometry.blockEnd (g : Geometry) (r : Int) : Int := r + g.offsets.getLastD 0 + g.half

/-! ## Station loops: results (R35 to R42) -/

/-- d_s: the units between station `st` and the register head (R39). -/
def State.settleUnits (s : State) (st : Nat) : Nat :=
  match s.activeBody with
  | some b => (ceilDiv (s.stationDistance st) b.nominal).toNat
  | none => 0

/-- The correction of R38 for a filtered error, in µm. -/
def State.printCorrection (s : State) (e16 : Int) : Int :=
  clamp (-roundHalfAway (e16 * s.peP * s.setting 33) 1024000) (s.setting 34)

/-- SETTLING ends: to TRACKING with reload pending (R39, R40). -/
def Loop.toTracking (l : Loop) : Loop := { l with st := .tracking, reload := true, settle := 0 }

/-- The reference coordinate of the open block, when H has passed the block's end: its unit's results reach the loops at this
moment, though their command stands later in the queue. -/
def State.dueUnit (s : State) : Option Int := (s.reg.block.filter (fun b => decide (b.closeAfter < s.posH))).map Block.r

/-- A PHASE TRIM of station `st` is reported lost: SETTLING ends at once, with reload pending (R40). Where the last settle unit reaches
the loop together with the report, R40 leaves it in TRACKING with reload pending in either order, and R39 does not use that unit's
mark for the reload: the loop notes the unit (log 62). -/
def State.printTrimLost (s : State) (st : Nat) : State :=
  s.setLoop st (fun l =>
    if l.st = .settling then { l.toTracking with spent := if l.settle ≤ 1 then s.dueUnit.or l.spent else l.spent } else l)

/-- The correction decision after an update of E_s in TRACKING (R38, R39). -/
def State.correctStation (s : State) (st : Nat) : State :=
  let e16 := (s.loop st).e16
  if magnitude e16 ≤ 16 * s.printDeadband then s
  else
    let c := s.printCorrection e16
    if c = 0 then s
    else
      let d := s.settleUnits st
      let s := s.setLoop st (fun l => { l with st := .settling, settle := d + 1 })
      match s.hand (.station st) (.phaseTrim c) with
      | (s, false) => s
      | (s, true) => s.printTrimLost st

/-- The settle count falls by one (R39). -/
def Loop.settleFalls (l : Loop) : Loop :=
  if l.st = .settling then
    (if l.settle ≤ 1 then l.toTracking else { l with settle := l.settle - 1 })
  else l

/-- The miss count rises; at the limit the loop goes to LOST (R41). -/
def State.stationMisses (s : State) (st : Nat) : State :=
  let miss := saturate 15 ((s.loop st).miss + 1)
  let s := s.setLoop st (fun l => { l with miss := miss })
  if s.setting 45 ≤ (miss : Int) then
    (s.setLoop st (fun l => { l with st := .lost, settle := 0 })).raise stationMarkLost st
  else s

/-- The filter of R37. -/
def filterStep (e16 e : Int) (k : Int) : Int := e16 + floorDiv (16 * e - e16) (2 ^ k.toNat)

/-- A valid mark, by the state of the loop (R35, R36, R37). -/
def State.stationValid (s : State) (st : Nat) (e : Int) : State :=
  let k := s.setting 31
  match (s.loop st).st with
  | .off => s
  | .acquire =>
    let v := (s.loop st).valid + 1
    let s := s.setLoop st (fun l => { l with miss := 0, lastE := some e, valid := saturate 3 v })
    let s := s.clear stationMarkLost st
    if 3 ≤ v then
      (s.setLoop st (fun l => { l with st := .tracking, e16 := 16 * e, reload := false })).correctStation st
    else s
  | .tracking =>
    (s.setLoop st (fun l => { l with
      miss := 0, lastE := some e, e16 := if l.reload then 16 * e else filterStep l.e16 e k,
      reload := false })).correctStation st
  | .settling => s.setLoop st (fun l => Loop.settleFalls { l with miss := 0, lastE := some e })
  | .hold => (s.setLoop st (fun l => { l with lastE := some e })).clear stationMarkLost st
  | .lost =>
    (s.setLoop st (fun l => { l with st := .acquire, miss := 0, lastE := some e, valid := 1 })).clear stationMarkLost st

/-- The mark of a unit that has ended SETTLING together with a lost trim: measured, and not used for the filter (R39, R40). -/
def State.stationMeasured (s : State) (st : Nat) (e : Int) : State :=
  s.setLoop st (fun l => { l with miss := 0, lastE := some e, spent := none })

/-- Whether station `st`'s mark of a unit is that of the last settle unit, taken together with a lost trim (R40). -/
def State.markSpent (s : State) (st : Nat) (unit : Int) : Bool :=
  decide ((s.loop st).st = .tracking) && decide ((s.loop st).spent = some unit)

/-- The tolerance test of R42; `counted` says that the loop was in TRACKING or SETTLING when the mark came. -/
def State.stationTolerance (s : State) (st : Nat) (unit e : Int) (counted : Bool) : State :=
  let out := decide (s.registerTol < magnitude e)
  let s := if out then s.setUnit unit (fun u => { u with flags := { u.flags with register := true } }) else s
  if counted then
    if out then
      let s := s.setLoop st (fun l => { l with outCount := saturate 3 (l.outCount + 1), inCount := 0 })
      if 3 ≤ (s.loop st).outCount ∧ ¬ s.faultActive registerOut st then s.raise registerOut st else s
    else
      let s := s.setLoop st (fun l => { l with inCount := saturate 3 (l.inCount + 1), outCount := 0 })
      if 3 ≤ (s.loop st).inCount then s.clear registerOut st else s
  else s

/-- A missing mark, by the state of the loop (R35). -/
def State.stationMissing (s : State) (st : Nat) : State :=
  match (s.loop st).st with
  | .off => s
  | .acquire => (s.setLoop st (fun l => { l with valid := 0 })).stationMisses st
  | .tracking => s.stationMisses st
  | .settling => (s.stationMisses st).setLoop st Loop.settleFalls
  | .hold => s
  | .lost => s

/-- Station `st`'s result for a unit reaches its loop (R35). Whether the mark that takes the loop from ACQUIRE to TRACKING moves the
out and in counts of R42 is not stated; the model asks for the state before the mark, so it does not: DESIGN CHOICE (log 14). -/
def State.stationResult (s : State) (st : Nat) (unit : Int) (result : Option Int) : State :=
  let before := (s.loop st).st
  match result with
  | none => s.stationMissing st
  | some e =>
    if before = .off then s
    else
      let s := if s.markSpent st unit then s.stationMeasured st e else s.stationValid st e
      s.stationTolerance st unit e (decide (before = .tracking ∨ before = .settling))

/-! ## Mark blocks (R24, R28) -/

/-- The station whose window holds an offset from the reference: the lowest-numbered one (R28). -/
def stationOf (offsets : List Int) (half off : Int) : Option Nat :=
  (offsets.findIdx? (fun o => decide (magnitude (off - o) ≤ half))).map (fun i => i + 2)

/-- The result of a station: valid when exactly one stamp lies in its window (R28). -/
def Block.result (b : Block) (st : Nat) : Option Int :=
  match b.marks.filter (fun m => decide (m.1 = st)) with
  | [m] => some (m.2 - b.r - b.offsets.getD (st - 2) 0)
  | _ => none

/-- A block mark is placed in its station's window, or discarded (R28). -/
def State.placeMark (s : State) (b : Block) (m : Int) : State :=
  match stationOf b.offsets b.half (m - b.r) with
  | some st => { s with reg := { s.reg with block := some { b with marks := b.marks ++ [(st, m)] } } }
  | none => s

/-- The stations of a block, 2…S. -/
def Block.stations (b : Block) : List Nat := (List.range b.offsets.length).map (fun i => i + 2)

/-- The open block closes: the errors are written to the unit, and each loop takes its result (R28). R28 says 'in no set order';
the model hands the results to the stations in ascending order 2…S, so that a STOP raised by one station's result holds the
loops of the later stations before they take theirs: DESIGN CHOICE (log 43). -/
def State.closeBlock (s : State) : State :=
  match s.reg.block with
  | none => s
  | some b =>
    let s := { s with reg := { s.reg with block := none } }
    let s := s.setUnit b.r (fun u => { u with errors := b.stations.map b.result })
    b.stations.foldl (fun s st => s.stationResult st b.r (b.result st)) s

/-! ## The reference (R25, R26, R29, R30) -/

/-- Start of the acceptance window (R25). -/
def windowStart (c l : Int) : Int := c + floorDiv (7 * l) 8
/-- End of the acceptance window (R25). -/
def windowEnd (c l : Int) : Int := c + floorDiv (9 * l) 8

/-- The present window's end, when there is a window. -/
def State.refWindowEnd (s : State) : Option Int := s.reg.cPrev.map (fun c => windowEnd c s.reg.lExp)

/-- A window expires (R29, R30): a synthetic unit is asked for, the expectation moves on, REF_MARK_MISS is raised, and at
the limit REFERENCE_LOST. Settling loops count the synthetic unit (R39). The unit is created before these raises, under the reaction
then in force, and a TRACK_FULL stands before them: R27 and R157 allow the old report or the new one, DESIGN CHOICE (log 45). -/
def State.expireReference (s : State) : State :=
  match s.reg.cPrev with
  | none => s
  | some cp =>
    let c := cp + s.reg.lExp
    let (s, created) := s.create c true
    let s := if created then { s with reg := { s.reg with loops := s.reg.loops.map Loop.settleFalls } } else s
    let s := { s with reg := { s.reg with cPrev := some c, synthCount := saturate 15 (s.reg.synthCount + 1) } }
    let s := s.raise refMarkMiss 0
    if s.setting 44 ≤ (s.reg.synthCount : Int) ∧ ¬ s.faultActive referenceLost 0 then s.raise referenceLost 0 else s

/-- Every window that ends below `m` expires first (R25). The fuel covers every window up to `m`. -/
def State.expireBelow (s : State) (m : Int) : Nat → State
  | 0 => s
  | fuel + 1 =>
    match s.refWindowEnd with
    | some e => if e < m then s.expireReference.expireBelow m fuel else s
    | none => s

/-- How many windows can end below `m`. -/
def State.expiryFuel (s : State) (m : Int) : Nat :=
  match s.refWindowEnd with
  | some e => if e < m then ((m - e) / (max 1 s.reg.lExp)).toNat + 1 else 0
  | none => 0

/-- A creation request for a real reference and what the register unit does when it is granted (R26). Where the creation itself
ends REFERENCE_LOST, R27 lets the unit take the old report of the fault unit or the new one. The model takes the old one, so
that unit gets DEFECT: DESIGN CHOICE (log 45). -/
def State.acceptReference (s : State) (m : Int) : State :=
  let prev := s.prevUnit?
  match s.create m false with
  | (s, false) => s
  | (s, true) =>
    let lExp := match prev with
      | some p => if p.flags.synthetic then s.reg.lExp else m - p.c
      | none => s.reg.lExp
    let block := s.reg.geom.map (fun g =>
      ({ r := m, half := g.half, offsets := g.offsets, marks := [], closeAfter := g.blockEnd m } : Block))
    State.clear { s with reg := { s.reg with block := block, cPrev := some m, synthCount := 0, lExp := lExp } } referenceLost 0

/-- A reference candidate is judged against the expectation (R25). -/
def State.judgeCandidate (s : State) (m : Int) : State :=
  let s := s.expireBelow m (s.expiryFuel m)
  match s.reg.cPrev with
  | none => s.acceptReference m
  | some c =>
    if windowStart c s.reg.lExp ≤ m ∧ m ≤ windowEnd c s.reg.lExp then s.acceptReference m else s

/-- A MARK stamp is classified, after a block whose end lies below it is closed (R24). -/
def State.takeMark (s : State) (m : Int) : State :=
  let last := s.reg.lastEdge
  let s := match s.reg.geom with
    | none => s
    | some g =>
      let s := match s.reg.block with
        | some b => if b.closeAfter < m then s.closeBlock else s
        | none => s
      match s.reg.block with
      | some b => s.placeMark b m
      | none =>
        match last with
        | none => s.judgeCandidate m
        | some e => if g.quiet < m - e then s.judgeCandidate m else s
  { s with reg := { s.reg with lastEdge := some m } }

/-! ## Loop start and the taking order (R31, R32) -/

/-- A loop starts, in HOLD or ACQUIRE by its causes; its last drive report stays (R32). -/
def State.startLoop (s : State) (st : Nat) : State :=
  let held := s.holds st
  let s := s.setLoop st (fun l => { Loop.reset with st := if held then .hold else .acquire, report := l.report })
  (s.clear stationMarkLost st).clear registerOut st

/-- A loop goes to OFF (R32). R32 gives the counts and E_s their values at a start only; in OFF the model sets them to the values of
a start (0, no, none), which the live image then shows: DESIGN CHOICE (log 44). -/
def State.loopOff (s : State) (st : Nat) : State :=
  let s := s.setLoop st (fun l => { Loop.reset with st := .off, report := l.report })
  (s.clear stationMarkLost st).clear registerOut st

/-- Each station loop starts or goes to OFF for a station count; 0 stands for no taking order (R32). -/
def State.startLoops (s : State) (stations : Nat) : State :=
  (List.range 8).foldl (fun s i =>
    if 1 ≤ i ∧ i + 1 ≤ stations then s.startLoop (i + 1) else s.loopOff (i + 1)) s

/-- The taking order changes from one body to another, or to none (R23, R31, R32). -/
def State.takingChanged (s : State) (old new : Option OrderBody) : State :=
  let kept := match old, new with
    | some a, some b => decide (a.pitch = b.pitch ∧ a.nominal = b.nominal)
    | _, _ => false
  let geom := new.map s.geometryOf
  let s := { s with reg := { s.reg with geom := geom } }
  let s :=
    if kept then s
    else
      let (lExp, used) := match geom with
        | some g => (g.lNom, 0)
        | none => (Config.freeRepeat s.freeIdx, 1)
      let s := { s with freeIdx := s.freeIdx + used }
      State.clear { s with reg := { s.reg with cPrev := none, lExp := lExp, synthCount := 0, block := none } }
        referenceLost 0
  s.startLoops (match new with
    | some b => b.stations.toNat
    | none => 0)

/-! ## Reports of the link about a print drive (R40) -/

/-- A print drive restarted (R40). -/
def State.printRestarted (s : State) (st : Nat) : State :=
  s.setLoop st (fun l =>
    match l.st with
    | .off => l
    | .hold => l
    | .acquire => { l with st := .acquire, valid := 0, miss := 0, settle := 0, reload := false }
    | .tracking => { l with st := .acquire, valid := 0, miss := 0, settle := 0, reload := false }
    | .settling => { l with st := .acquire, valid := 0, miss := 0, settle := 0, reload := false }
    | .lost => { l with st := .acquire, valid := 0, miss := 0, settle := 0, reload := false })

/-! ## Splice register zones (R34) -/

/-- The zone of a new splice entry: it begins at once when H has already reached its start. -/
def State.openZone (s : State) (p : Int) : State :=
  let start := p - s.reg.lExp
  let z : Zone := { p := p, start := start, stop := p + 2 * s.reg.lExp, begun := decide (start ≤ s.posH) }
  State.loopsSettle { s with reg := { s.reg with zones := s.reg.zones ++ [z] } }

end Sys2Proof.Machine
end

