-- ==== Sys2Proof/Machine/Shade.lean ====
section
/-! DEFINITION. The shade unit's requests (4.1): the shade event, replies of the head, the link cycle count, calibration,
the horizon (R79), and classification in queue order (R72). -/

namespace Sys2Proof.Machine

/-! ## The queue (R72) -/

/-- Requests are classified in queue order while the oldest is DONE (R72). -/
def State.drainRequests (s : State) : Nat → State
  | 0 => s
  | fuel + 1 =>
    match s.shade.queue with
    | [] => s
    | q :: rest =>
      if q.st = .done then
        ((s.setShade (fun p => { p with queue := rest })).classify q.unit q.result).drainRequests fuel
      else s

/-- Requests that hold of a test become DONE with ABSENT. -/
def State.endRequests (s : State) (p : Request → Bool) : State :=
  s.setShade (fun sh => { sh with
    queue := sh.queue.map (fun q => if q.st ≠ .done ∧ p q = true then { q with st := .done, result := none } else q) })

/-- Every finished request at the front is classified; the queue holds at most 8. -/
def State.classifyDone (s : State) : State := s.drainRequests 9

/-! ## The shade event (R67) -/

/-- A request is appended, the oldest being ended first when the queue is full (R67). R69 withdraws a MEASURE from the link only
when the head restarts or leaves PRESENT. The MEASURE of a WAITING request that ends here, or at its horizon (R79), is left at
the link and goes out: DESIGN CHOICE (log 47). -/
def State.appendRequest (s : State) (q : Request) : State :=
  let s := if 8 ≤ s.shade.queue.length then
      (s.setShade (fun p => { p with queue := match p.queue with
        | [] => []
        | o :: rest => (if o.st = .done then o else { o with st := .done, result := none }) :: rest })).classifyDone
    else s
  s.setShade (fun p => { p with queue := p.queue ++ [q] })

/-- The shade event of a unit (R67). -/
def State.shadeRequest (s : State) (u : UnitRec) : State :=
  let s := s.setUnit u.c (fun u => { u with shadeAt := none })
  if u.verdict ≠ .waiting then s
  else
    let tag := u.number % 256
    let absent : Request := { unit := u.c, tag := tag, st := .done, result := none, cycles := 0, calAtFlight := false }
    if (s.order u.order).st = .done ∨ s.nodePresent .shade = false then (s.appendRequest absent).classifyDone
    else
      let s := (s.appendRequest { absent with st := .waiting }).endRequests
        (fun q => decide (q.st = .inFlight) && decide (q.tag = tag))
      ((s.hand .shade (.measure tag u.c)).1).classifyDone

/-- The frame that carries a unit's MEASURE leaves (R67). -/
def State.measureSent (s : State) (unit : Int) : State :=
  let cal := s.shade.headCal = some true
  s.setShade (fun p => { p with
    queue := p.queue.map (fun q =>
      if q.unit = unit ∧ q.st = .waiting then { q with st := .inFlight, cycles := 1, calAtFlight := decide cal } else q) })

/-! ## Replies (R68, R69, R70) -/

/-- A component range check (R68). -/
def Reading.valid (r : Reading) : Bool :=
  decide (0 ≤ r.l) && decide (r.l ≤ 10000) && decide (-12800 ≤ r.a) && decide (r.a ≤ 12700) && decide (-12800 ≤ r.b)
    && decide (r.b ≤ 12700)

/-- The first request IN FLIGHT with the tag becomes DONE with a result (R68). -/
def matchRequest (tag : Nat) (cal : Bool) (r : Reading) : List Request → List Request
  | [] => []
  | q :: rest =>
    if q.st = .inFlight ∧ q.tag = tag then
      { q with st := .done, result := if cal || q.calAtFlight || !r.valid then none else some r } :: rest
    else q :: matchRequest tag cal r rest

/-- A reply of the shade head (R68, R70). -/
def State.headReported (s : State) (cal : Bool) (reading : Option (Nat × Reading)) : State :=
  let s := match reading with
    | some (tag, r) => s.setShade (fun p => { p with queue := matchRequest tag cal r p.queue })
    | none => s
  (s.setShade (fun p => { p with headCal := some cal })).classifyDone

/-- A cycle frame has come back: every request IN FLIGHT counts it, and ends when the count would pass 4 (R69). -/
def State.countCycles (s : State) : State :=
  (s.setShade (fun p => { p with
    queue := p.queue.map (fun q =>
      if q.st = .inFlight then
        (if 4 ≤ q.cycles then { q with st := .done, result := none } else { q with cycles := q.cycles + 1 })
      else q) })).classifyDone

/-- The shade head restarted or left PRESENT: every unfinished request ends ABSENT, and what still waits in the link is
withdrawn (R69). -/
def State.dropRequests (s : State) : State :=
  let s := match s.nodeIndex .shade with
    | some i => s.setNode i (fun n => { n with
        waiting := n.waiting.filter (fun c => match c with
          | .measure _ _ => false
          | _ => true) })
    | none => s
  (s.endRequests (fun _ => true)).classifyDone

/-- NODE_RESTARTED for the shade head (R69, R70). -/
def State.shadeRestarted (s : State) : State := (s.setShade (fun p => { p with headCal := none })).dropRequests

/-! ## Calibration (R71) -/

/-- A CALIBRATE is lost: pending once more, the first time (R71). -/
def State.calibrateLost (s : State) (again : Bool) : State :=
  if again then s else s.setShade (fun p => { p with calPending := true, calAgain := true })

/-- A pending calibration goes to the link as soon as the head is PRESENT (R71). One that the link does not take, ten commands
waiting, is pending once more and is not handed again in the same step: DESIGN CHOICE (log 27). -/
def State.sendCalibrate (s : State) : State :=
  if s.shade.calPending && s.nodePresent .shade then
    let again := s.shade.calAgain
    let s := s.setShade (fun p => { p with calPending := false, calAgain := false })
    match s.hand .shade (.calibrate again) with
    | (s, false) => s
    | (s, true) => s.calibrateLost again
  else s

/-- A CUT DONE is counted toward the next calibration (R71). -/
def State.shadeCutDone (s : State) : State :=
  match s.activeBody with
  | none => s
  | some b =>
    if b.calEvery = 0 then s
    else
      let n := s.shade.cutCount + 1
      if b.calEvery ≤ (n : Int) then
        State.sendCalibrate (s.setShade (fun p => { p with cutCount := 0, calPending := true }))
      else s.setShade (fun p => { p with cutCount := n })

/-! ## The horizon (R79) -/

/-- The horizon of an undecided unit is reached (R79). A unit without a request whose order is not the classifying one goes through
`classify`, which first changes the classifying order by R74; R79's row speaks of the open batch, batch 0 or the run alone:
DEDUCED (log 48). The MEASURE of a WAITING request stays at the link (log 47). SHADE_UNRESOLVED is raised before the
resolution, which may itself raise BATCH_TABLE_FULL; the spec gives no order: DESIGN CHOICE (log 55). -/
def State.horizonReached (s : State) (u : UnitRec) : State :=
  if u.c ∈ s.shade.run then
    if s.shade.run.head? = some u.c then (s.raise shadeUnresolved 0).decideRun else s
  else if u.verdict ≠ .waiting then s.setUnit u.c (fun u => { u with horizonAt := none })
  else
    let s := s.setUnit u.c (fun u => { u with horizonAt := none })
    let s := s.raise shadeUnresolved 0
    if s.shade.queue.any (fun q => decide (q.unit = u.c)) then
      (s.endRequests (fun q => decide (q.unit = u.c))).classifyDone
    else (s.setUnit u.c (fun u => { u with shadeAt := none })).classify u.c none

end Sys2Proof.Machine
end

