-- ==== Sys2Proof/Machine/Order.lean ====
section
/-! DEFINITION. The order unit (chapter 7): part halves, validation, activation, rolls and endings, changeovers and
withdrawal. -/

namespace Sys2Proof.Machine

/-! ## The part half (7.1.1, R128, R169) -/

/-- State codes (7.1.1). -/
def OrderState.code : OrderState → Nat
  | .none => 0
  | .taken => 1
  | .refused => 2
  | .active => 3
  | .ending => 4
  | .done => 5
  | .withdrawn => 6

/-- The state byte is written, then the tag word with its present value: a tag write; ORDER is latched (R128, R169). -/
def State.writeOrderState (s : State) (n : Nat) : State :=
  ((s.partStore (orderSlotAddr n + 0x71) [byte (s.order n).st.code]).tagWritten).latch .order

/-- Rolls produced and current roll number are written, without a latch (R128, R131). -/
def State.writeOrderCounts (s : State) (n : Nat) : State :=
  s.partStore (orderSlotAddr n + 0x74) (natBytes 2 (s.order n).produced ++ natBytes 2 (s.order n).currentRoll)

/-- An order's state changes (R128). -/
def State.setOrderState (s : State) (n : Nat) (st : OrderState) : State :=
  (s.setOrder n (fun o => { o with st := st })).writeOrderState n

/-! ## Retirement (R123) -/

/-- Whether a unit of slot `n` is in the track, the roll in progress or a closing roll, or a record of its order waits in
the holding queue. -/
def State.inUse (s : State) (n : Nat) : Bool :=
  let of (u : UnitRec) : Bool := decide (u.order = n)
  s.track.units.any of
    || (match s.winder.roll with
        | some r => r.units.any of
        | none => false)
    || s.winder.closing.any (fun c => c.roll.units.any of)
    || s.rolls.queue.any (fun r => decide (r.order = s.orderKey n))

/-- Whether the order of slot `n` is retired while its copy is still there: DONE, REFUSED or WITHDRAWN, and not in use
(R123). -/
def State.retires (s : State) (n : Nat) : Bool :=
  (match (s.order n).st with
    | .done => true
    | .refused => true
    | .withdrawn => true
    | .none => false
    | .taken => false
    | .active => false
    | .ending => false)
  && (s.order n).body.isSome && !(s.inUse n)

/-- The copies of the orders that have retired are discarded (R123), and with them their last roll numbers (R109). -/
def State.discardCopies (s : State) : State :=
  (List.range 8).foldl (fun s n =>
    if s.retires n then s.setOrder n (fun o => { o with body := none, lastRoll := 0 }) else s) s

/-- Whether a post into the slot is refused with SLOT_BUSY (R124). -/
def State.slotBusy (s : State) (n : Nat) : Bool :=
  match (s.order n).st with
  | .taken => true
  | .active => true
  | .ending => true
  | .done => s.inUse n
  | .none => false
  | .refused => false
  | .withdrawn => false

/-! ## Validation (R126, R127) -/

/-- Whether a value lies in a range. -/
def within (v lo hi : Int) : Bool := decide (lo ≤ v) && decide (v ≤ hi)

/-- The fields of a body in index order, each with its check (7.1.1, R126). -/
def OrderBody.checks (b : OrderBody) : List (Nat × Bool) :=
  [(1, within b.seq 1 65535), (5, within b.stations 2 8), (6, within b.emboss 0 1), (7, within b.splice 0 1),
   (8, within b.template 0 3), (9, within b.pitch 40 200), (10, within b.nominal 1000 20000),
   (11, within b.matchTol 100 10000), (12, within b.shrink (-30000) 10000), (13, within b.cutPhase 0 (b.nominal - 1)),
   (14, within b.calEvery 0 255), (15, within b.persistence 1 32), (16, within b.target 20000 300000),
   (17, within b.rolls 0 9999), (18, within b.tol 1 2000), (19, within b.wL 1 32), (20, within b.wC 1 32),
   (21, within b.excLimit 0 9999), (22, within b.stdPresent 0 1)]
  ++ (if b.stdPresent = 1 then
        [(23, within b.stdL 0 10000), (24, within b.stdA (-12800) 12700), (25, within b.stdB (-12800) 12700),
         (26, within b.stdTol 1 2000)]
      else [])

/-- The index of the first field out of range (R126). -/
def OrderBody.badField (b : OrderBody) : Option Nat := (b.checks.find? (fun c => !c.2)).map (fun c => c.1)

/-- Whether every node the order needs is PRESENT (R127). -/
def State.stationsPresent (s : State) (b : OrderBody) : Bool :=
  (List.range b.stations.toNat).all (fun i => s.nodePresent (.station (i + 1))) && s.nodePresent .winder
    && s.nodePresent .shade && s.nodePresent .draw && (decide (b.emboss ≠ 1) || s.nodePresent .emboss)

/-- The refusal code of R126 and R127 with its field index, 0 when the post passes. -/
def State.judgePost (s : State) (n : Nat) (b : OrderBody) : Nat × Nat :=
  match b.badField with
  | some i => (1, i)
  | none =>
    if ¬ (4 * (b.stations - 1) * b.pitch ≤ b.nominal) then (2, 0)
    else if ¬ s.stationsPresent b then (3, 0)
    else if b.emboss = 1 ∧ ¬ (50 * magnitude (s.setting 17 - b.nominal) ≤ b.nominal) then (4, 0)
    else if ¬ (ceilDiv (s.setting 3 + s.setting 16) b.nominal ≤ 240) then (5, 0)
    else if ¬ ((b.persistence + 2) * b.nominal ≤ s.setting 16 - s.setting 15) then (6, 0)
    else if (List.range 8).any (fun m => decide (m ≠ n) && decide ((s.body m).seq = b.seq) &&
        decide ((s.order m).st = .taken ∨ (s.order m).st = .active ∨ (s.order m).st = .ending)) then (7, 0)
    else (0, 0)

/-! ## Answering a post (R124, R125, R127) -/

/-- The host tag and the command of a slot (R123). -/
def State.hostTag (s : State) (n : Nat) : Nat := s.readNat (orderSlotAddr n) 1
def State.orderCommand (s : State) (n : Nat) : Nat := s.readNat (orderSlotAddr n + 1) 1
def State.orderPartTag (s : State) (n : Nat) : Nat := s.readNat (orderSlotAddr n + 0x70) 1

/-- Whether the slot holds a new post (R123). -/
def State.newPost (s : State) (n : Nat) : Bool :=
  decide (s.orderCommand n = 1) && decide (s.hostTag n ≠ 0) && decide (s.hostTag n ≠ s.orderPartTag n)

/-- SLOT_BUSY: written and latched the first time for the post (R125). -/
def State.refuseBusy (s : State) (n : Nat) : State :=
  if (s.order n).busyTag = s.hostTag n then s
  else
    let t := s.hostTag n
    let s := s.partStore (orderSlotAddr n + 0x72) [8, 0]
    (s.setOrder n (fun o => { o with busyTag := t })).latch .order

/-- A post is taken (R127). -/
def State.takePost (s : State) (n : Nat) (b : OrderBody) : State :=
  let serial := s.ord.nextSerial
  let s := s.setOrder n (fun _ => { OrderRec.reset with st := .taken, serial := serial, body := some b })
  let s := { s with ord := { s.ord with nextSerial := serial + 1 } }
  let a := orderSlotAddr n
  let s := s.partStore (a + 0x72) (List.replicate 14 0)
  ((s.partStore (a + 0x70) [byte (s.hostTag n), 1]).tagWritten).latch .order

/-- A post is refused; nothing of it is kept (R127). -/
def State.refusePost (s : State) (n code field : Nat) : State :=
  let serial := s.ord.nextSerial
  let s := s.setOrder n (fun o => { OrderRec.reset with
    st := .refused, serial := serial, produced := o.produced, currentRoll := o.currentRoll })
  let s := { s with ord := { s.ord with nextSerial := serial + 1 } }
  let a := orderSlotAddr n
  let s := s.partStore (a + 0x72) [byte code, byte field]
  ((s.partStore (a + 0x70) [byte (s.hostTag n), 2]).tagWritten).latch .order

/-- One new post is dealt with (R124). -/
def State.dealPost (s : State) (n : Nat) : State :=
  if s.slotBusy n then s.refuseBusy n
  else if s.port.phase ≠ .operating then s
  else
    let b := s.readBody n
    let (code, field) := s.judgePost n b
    if code = 0 then s.takePost n b else s.refusePost n code field

/-! ## Activation (R129, R130) -/

/-- An order becomes ACTIVE, and every block is told (R130), in no order that the spec sets. The model lets the emboss unit, which
may raise EMBOSS_COLD, act before the draw loop, which judges DRAW_LIMIT: DESIGN CHOICE (log 54). -/
def State.activate (s : State) (n : Nat) : State :=
  let old := s.activeBody
  let s := s.setOrder n (fun o => { o with
    produced := 0, currentRoll := 1, nextUnit := 1, lastRoll := 0, hasUnits := false, s0 := none, s1 := none, e := none,
    endAt := none, changeover := .undecided })
  let s := (s.writeOrderCounts n).setOrderState n .active
  let b := s.body n
  let s := { s with
    ord := { s.ord with active := some n }, track := { s.track with lastNominal := b.nominal } }
  let s := s.takingChanged old (some b)
  ((s.embossActivated b).drawActivated).shadeActivated

/-- Whether an order is ACTIVE or ENDING (R129, R181). -/
def State.orderRunning (s : State) : Bool :=
  s.ord.orders.any (fun o => decide (o.st = .active ∨ o.st = .ending))

/-- The test of R129. -/
def State.testActivation (s : State) : State :=
  if s.port.phase = .operating ∧ s.orderRunning = false ∧ s.ord.hold = false then
    match s.orderQueue with
    | n :: _ => s.activate n
    | [] => s
  else s

/-! ## The end of an order (R132 to R134) -/

/-- Whether the head of the queue prints the ending order's geometry (R132). -/
def OrderBody.sameGeometry (a b : OrderBody) : Bool :=
  decide (a.stations = b.stations ∧ a.pitch = b.pitch ∧ a.nominal = b.nominal ∧ a.cutPhase = b.cutPhase
    ∧ a.emboss = b.emboss)

/-- The order a flying changeover would take (R132, R133). -/
def State.flyingHead (s : State) (n : Nat) : Option Nat :=
  match s.orderQueue with
  | m :: _ => if (s.body m).sameGeometry (s.body n) then some m else none
  | [] => none

/-- A stopped changeover: CHANGEOVER on the units at or beyond E and on those without g, and the waste indication (R132). -/
def State.becomeStopped (s : State) (n : Nat) : State :=
  let e := (s.order n).e
  let phase := s.phaseF (s.body n)
  let beyond (u : UnitRec) : Bool :=
    match u.g, e with
    | some g, some e => decide (e ≤ g + phase)
    | none, _ => true
    | _, none => false
  let s := { s with track := { s.track with units := s.track.units.map (fun (u : UnitRec) =>
    if u.order = n ∧ beyond u = true then { u with flags := { u.flags with changeover := true } } else u) } }
  let s := s.setOrder n (fun o => { o with changeover := .stopped })
  { s with ord := { s.ord with waste := true } }

/-- Units numbered 1, 2, … for an order, from a PE coordinate on (R133). -/
def reassign (old new : Nat) (c : Int) : Nat → List UnitRec → List UnitRec
  | _, [] => []
  | k, u :: rest =>
    if u.order = old ∧ c ≤ u.c then { u with order := new, number := k } :: reassign old new c (nextCyclic 65535 k) rest
    else u :: reassign old new c k rest

/-- The roll's order is that of the first unit counted from K, and goes with that unit to the order `m` (R90, R133). -/
def State.countReassigned (s : State) (m : Nat) (moved : List UnitRec) : State :=
  s.setCut (fun p => { p with
    rollOrder := if moved.any (fun v => decide (p.first = some v.c)) then m else p.rollOrder })

/-- The flying changeover at E′, the span start of unit `u` (R133). -/
def State.flyAt (s : State) (n m : Nat) (u : UnitRec) (e' : Int) : State :=
  let moved := (s.track.units.filter (fun v => decide (v.order = n) && decide (u.c ≤ v.c)))
  let second := match moved with
    | _ :: v :: _ => s.spanStart v
    | _ => none
  let e := (s.order n).e.getD e'
  let s := s.setOrder n (fun o => { o with changeover := .flown })
  let s := s.activate m
  let s := { s with track := { s.track with units := reassign n m u.c 1 s.track.units } }
  let s := s.setOrder m (fun o => { o with
    nextUnit := nextCyclic 65535 moved.length, hasUnits := true, s0 := some e', s1 := second })
  let s := State.countReassigned { s with ord := { s.ord with waste := false } } m moved
  if e < e' then s.request .changeover (some e') else s

/-- E′ is fixed when a PENDING unit with g lies at or beyond E (R133). An order that its end cut has made DONE before that (R134) has
its E′ dropped, with no waste indication and no hold: DESIGN CHOICE (log 61). -/
def State.tryFly (s : State) (n : Nat) : State :=
  if (s.order n).changeover ≠ .flying ∨ (s.order n).st ≠ .ending then s
  else
    match (s.order n).e with
    | none => s
    | some e =>
      let found := s.track.units.findSome? (fun u =>
        if u.order = n ∧ u.verdict = .waiting then
          match s.spanStart u with
          | some b => if e ≤ b then some (u, b) else none
          | none => none
        else none)
      match found with
      | none => s
      | some (u, b) =>
        match s.flyingHead n with
        | some m => s.flyAt n m u b
        | none => s.becomeStopped n

/-- E is fixed from the planner's first report, and the changeover is decided (R132). -/
def State.fixEnd (s : State) (n : Nat) (x : Int) : State :=
  let s := s.setOrder n (fun o => { o with e := some x })
  let s := s.partStore (orderSlotAddr n + 0x7A) (intBytes 6 x)
  match s.flyingHead n with
  | some _ => (s.setOrder n (fun o => { o with changeover := .flying })).tryFly n
  | none => s.becomeStopped n

/-- The DONE reasons (7.1.1). -/
def doneReason (byWithdrawal : Bool) : Nat := if byWithdrawal then 2 else 1

/-- An order becomes DONE, and the other blocks are told (R134, R137). A stopped changeover of the active order sends the
stop request and begins the hold (R135). -/
def State.finishOrder (s : State) (n : Nat) (reason : Nat) : State :=
  let wasActive := decide (s.ord.active = some n)
  let stopped := decide ((s.order n).changeover = .stopped)
  let k := s.orderKey n
  let old := s.activeBody
  let s := s.setOrder n (fun o => { o with currentRoll := 0, endWanted := false })
  let s := (s.writeOrderCounts n).partStore (orderSlotAddr n + 0x78) [byte reason]
  let s := s.setOrderState n .done
  let s := s.shadeOrderDone k
  if wasActive then
    let s := { s with ord := { s.ord with active := none } }
    let s := ((s.takingChanged old none).embossOrderEnded).followDrawLimit
    if stopped then (State.enterStopped { s with ord := { s.ord with hold := true } }).settle else s
  else s

/-- Every ENDING order whose end entry lies at or before `x` becomes DONE (R134). -/
def State.endOrders (s : State) (x : Int) : State :=
  ((List.range 8).foldl (fun s n =>
    match (s.order n).st, (s.order n).endAt with
    | .ending, some y => if y ≤ x then s.finishOrder n (doneReason (s.order n).byWithdrawal) else s
    | _, _ => s) s).testActivation

/-! ## Counting rolls (R131) -/

/-- The number of the order's rolls whose ends are known (R131). -/
def State.knownRolls (s : State) (n : Nat) (s0 : Int) : Nat :=
  let rollFrom := match s.winder.roll with
    | some r => decide (s0 ≤ r.start)
    | none => false
  (s.order n).produced + (s.winder.closing.filter (fun c => decide (s0 ≤ c.roll.start))).length
    + (if s.winder.out.isSome && rollFrom then 1 else 0)
    + (s.cut.plan.filter (fun e => decide (s0 < e.x))).length

/-- A TARGET placement is tested against the roll count (R131). -/
def State.testRollCount (s : State) (x : Int) : State :=
  match s.ord.active with
  | none => s
  | some n =>
    let b := s.body n
    match (s.order n).s0, s.cut.k with
    | some s0, some k =>
      if (s.order n).st = .active ∧ b.rolls ≠ 0 ∧ s0 ≤ k ∧ b.rolls ≤ (s.knownRolls n s0 : Int) then
        (s.setOrderState n .ending).request (.orderEnd n) (some x)
      else s
    | _, _ => s

/-- A roll record has been composed for an order (R131). -/
def State.rollProduced (s : State) (n : Nat) : State :=
  let s := s.setOrder n (fun o =>
    let p := saturate 65535 (o.produced + 1)
    { o with produced := p,
             currentRoll := if o.st = .active ∨ o.st = .ending then saturate 65535 (p + 1) else 0 })
  s.writeOrderCounts n

/-! ## What the planner reports (R131, R132, R134) -/

/-- The order unit takes one report. -/
def State.takeReport (s : State) (r : PlanReport) : State :=
  match r with
  | .target x => s.testRollCount x
  | .orderEnd n x opening =>
    let s := s.setOrder n (fun o => { o with endAt := some x })
    let s := if (s.order n).e.isNone then s.fixEnd n x else s
    if opening then s.endOrders x else s
  | .moved x y =>
    { s with ord := { s.ord with orders := s.ord.orders.map (fun o =>
      if o.st = .ending ∧ o.endAt = some x then { o with endAt := some y } else o) } }

/-! ## Span starts of an order's units (R130, R137) -/

/-- ORDER_END of a withdrawn order: at the first boundary at least one lead ahead, or at its second unit (R137). -/
def State.requestEnd (s : State) (n : Nat) : State :=
  match s.firstAhead, (s.order n).s0, (s.order n).s1 with
  | some y, some s0, some s1 => s.request (.orderEnd n) (some (if y ≤ s0 then s1 else y))
  | some y, _, _ => s.request (.orderEnd n) (some y)
  | none, _, _ => s.request (.orderEnd n) none

/-- The g of a unit of order `n` was set: S0, the span start of the second unit, and what waited for them. -/
def State.orderSpanKnown (s : State) (n : Nat) (x : Int) : State :=
  let o := s.order n
  if o.s0.isNone then
    let s := s.setOrder n (fun o => { o with s0 := some x })
    if s.ord.waste && decide (s.ord.active = some n) then
      ({ s with ord := { s.ord with waste := false } }).request .changeover (some x)
    else s
  else if o.s1.isNone then
    let s := s.setOrder n (fun o => { o with s1 := some x })
    if o.endWanted then (s.setOrder n (fun o => { o with endWanted := false })).requestEnd n else s
  else s

/-! ## Withdrawal (R136, R137) -/

/-- A slot whose command is WITHDRAW (R136). An order that is DONE at once (R137) has R129 tested when every withdrawal of
the sweep has been acted on. -/
def State.withdraw (s : State) (n : Nat) : State :=
  match (s.order n).st with
  | .taken => (s.setOrder n (fun o => { o with body := none })).setOrderState n .withdrawn
  | .active =>
    if !(s.order n).hasUnits then s.finishOrder n 2
    else
      let known := (s.order n).s1.isSome
      let s := (s.setOrder n (fun o => { o with byWithdrawal := true, endWanted := !known })).setOrderState n .ending
      if known then s.requestEnd n else s
  | .none => s
  | .refused => s
  | .ending => s
  | .done => s
  | .withdrawn => s

/-- The withdrawals of a sweep (R136), and the activation test when one of them has made the active order DONE (R137): a
TAKEN order withdrawn in the same sweep is withdrawn first (R136). -/
def State.withdrawAll (s : State) : State :=
  let t := ((List.range 8).filter (fun n => decide (s.orderCommand n = 2))).foldl (fun s n => s.withdraw n) s
  if s.ord.active.isSome && t.ord.active.isNone then t.testActivation else t

/-- A post refused with SLOT_BUSY is no longer outstanding when the host writes its tag back to the part tag or writes WITHDRAW (R125).
A slot with any other command is passed over (R123), so a post found again under the same tag is still the same: DEDUCED (log 65). -/
def State.dropBusy (s : State) (n : Nat) : State :=
  if s.hostTag n = s.orderPartTag n ∨ s.orderCommand n = 2 then s.setOrder n (fun o => { o with busyTag := 0 }) else s

/-- The order unit's part of a sweep: withdrawals, posts by sequence number, then the activation test (R124). Where a withdrawal asks
for ORDER_END, the planner's report of it, which fixes E and decides the changeover (R132), is taken when the posts have been
dealt with, so that one of them may head the queue: DESIGN CHOICE (log 57). -/
def State.sweepOrders (s : State) : State :=
  let slots := List.range 8
  let s := s.withdrawAll
  let posts := slots.filter s.newPost
  let s := slots.foldl State.dropBusy s
  let seqs := s
  let sorted := sortBy (fun n => (seqs.readBody n).seq) posts
  (sorted.foldl (fun s n => s.dealPost n) s).testActivation

end Sys2Proof.Machine
end

