-- ==== Sys2Proof/Machine/Plan.lean ====
section
/-! DEFINITION. What the planner, the winder and the order unit do 'at once': one loop that takes the next thing that is due
until nothing is. The order unit's reports come first, then segments whose end has become known, requests that have room
or a boundary again, the counting, and the lead event (log 25). -/

namespace Sys2Proof.Machine

/-- The oldest report is taken by the order unit. -/
def State.reportStep (s : State) : Option State :=
  match s.cut.reports with
  | [] => none
  | r :: rest => some ((s.setCut (fun p => { p with reports := rest })).takeReport r)

/-- An open segment whose end has become known closes (R94), unless its SPLICE_AFTER waits for room. -/
def State.segmentStep (s : State) : Option State :=
  if s.cut.full.any (fun q => decide (q.kind = .spliceAfter)) then none
  else
    (s.cut.segments.filter (fun g => g.stop.isNone)).findSome? (fun g =>
      (s.boundaries.find? (fun b => decide (g.tail < b))).map (fun a => s.closeSegment g a))

/-- Requests held for a segment that is no longer open are placed (R94). -/
def State.heldStep (s : State) : Option State :=
  if s.cut.held = [] ∨ s.cut.segments.any (fun g => g.stop.isNone) = true then none
  else
    match s.cut.held with
    | [] => none
    | q :: rest => some ((s.setCut (fun p => { p with held := rest })).request q.kind q.coordinate)

/-- The oldest request that waits for room takes the place that has become free (R95). Where it joins an entry and needs no place,
the next one gets the place at once: DESIGN CHOICE (log 25). -/
def State.fullStep (s : State) : Option State :=
  match s.cut.full with
  | [] => none
  | q :: rest =>
    if 16 ≤ s.cut.plan.length then none else some ((s.setCut (fun p => { p with full := rest })).placeWaiting q)

/-- The oldest request that waits for a boundary at least one lead ahead is placed there (R95, R101). -/
def State.awaitStep (s : State) : Option State :=
  match s.cut.awaiting, s.firstAhead with
  | q :: rest, some x =>
    let s := s.setCut (fun p => { p with awaiting := rest })
    match q.kind with
    | .missed r origin => some (s.placeMissed r origin x)
    | _ => some (s.placeWaiting q)
  | _, _ => none

/-- A blocked entry that waits for the next boundary goes to it (R102). An entry placed before it waits for nothing. -/
def State.deferStep (s : State) : Option State :=
  match s.cut.plan with
  | [] => none
  | e :: _ =>
    if s.winder.awaitBoundary && s.winder.lead.all (fun l => decide (l.entry = e.x)) && (s.boundaryAfter e.x).isSome then
      some s.deferEarliest
    else none

/-- The lead event is armed for a new earliest entry, and acts at once when its threshold is already met (R98). An entry whose
event fired while a cut was outstanding is decided when that cut is gone (R100, R101). An entry that is then blocked and
already past its lead point goes to the next boundary (R102). Where the blocked entry has left the plan the winder leaves STALLED,
which R97 keeps for an earliest entry that has reached its lead point, and a new earliest entry is decided anew: DEDUCED (log 26). -/
def State.leadStep (s : State) : Option State :=
  let entry := s.cut.plan.head?.map PlanEntry.x
  if entry = s.winder.lead.map LeadEvent.entry ∧ s.leadUndecided = false then none
  else
    let s := if s.leadEntryLeft then s.unstall else s
    match s.armLead with
    | (s, false) => some (if s.cut.plan = [] then s.reassess else s)
    | (s, true) =>
      let s := s.decideEntry
      some (if s.leadPassed then s.deferEarliest else s)

/-- The next thing that is due. -/
def State.planStep (s : State) : Option State :=
  s.reportStep <|> s.segmentStep <|> s.heldStep <|> s.fullStep <|> s.awaitStep <|> s.countStep <|> s.deferStep
    <|> s.leadStep

/-- Everything that is due, one thing at a time. -/
def State.planLoop (s : State) : Nat → State
  | 0 => s
  | fuel + 1 =>
    match s.planStep with
    | some s => s.planLoop fuel
    | none => s

/-- The planner, the winder and the order unit come to rest, and the copies of orders that have retired by then are discarded
(R123). A track of 256 units, a plan of 16 entries and eight orders give far fewer steps than the fuel. -/
def State.settlePlan (s : State) : State := (s.planLoop 4096).discardCopies

end Sys2Proof.Machine
end

