-- ==== Sys2Proof/Machine/Web.lean ====
section
/-! DEFINITION. From the register head to the finished web (1.4): estimates, the setting of g with everything that follows
from it, final lengths, matching and expiry at the emboss sensor, and records and splice entries that leave. -/

namespace Sys2Proof.Machine

/-! ## Lengths (R8, R18, R20) -/

/-- The estimated finished length of a unit, with the σ now held (R20). -/
def State.estimate (s : State) (u : UnitRec) : Int :=
  let l := u.lRh.getD (s.lNomPE (s.body u.order))
  roundHalfAway (l * s.peP * (1000000 + s.emb.sigma)) (s.feP * 1000000)

/-- The strain sample of a measured length (R18). -/
def State.strainSample (s : State) (lFin lRh : Int) : Int :=
  roundHalfAway ((lFin * s.feP - lRh * s.peP) * 1000000) (lRh * s.peP)

/-- σ after a sample (R18). -/
def State.sampleStrain (s : State) (lFin lRh : Int) : State :=
  let sample := s.strainSample lFin lRh
  { s with emb := { s.emb with sigma := clamp (s.emb.sigma + truncate (sample - s.emb.sigma) 8) 50000 } }

/-- The FE coordinate of a splice at `p` in a unit with a final length (R13). -/
def spliceCoordinate (g c lFin lRh p : Int) : Int := g + roundHalfAway ((p - c) * lFin) lRh

/-- The splice entries of a unit take their FE coordinates, and the emboss unit and the planner are told (R13). -/
def State.spliceCoordinates (s : State) (u : UnitRec) (g lFin lRh : Int) : State :=
  (s.track.splices.filter (fun e => decide (e.owner = .unit u.c) && e.f.isNone)).foldl (fun s e =>
    let f := spliceCoordinate g u.c lFin lRh e.p
    let leave := f + s.yCut
    let s := { s with track := { s.track with
      splices := s.track.splices.map (fun (q : SpliceRec) => if q.p = e.p then { q with f := some f, leaveAt := some leave } else q) } }
    (s.openGuard e.p f).spliceKnown u f) s

/-- A unit's length becomes final when the next record's g is set (R8, R10, R13, R18, R19). R19 gives no order for what one
measured length then feeds. The model judges the pattern match first (a MATCH_RUN set to STOP may enter STOPPED, and R63 then
resets the block of the draw loop), then the draw loop takes the length, then the strain sample is taken: DESIGN CHOICE
(log 42). -/
def State.finalize (s : State) (u v : UnitRec) : State :=
  match u.g, s.spanStart u, s.spanStart v with
  | some g, some b, some e =>
    let lFin := e - b
    let lRh := u.lRh.getD (v.c - u.c)
    let same := decide (s.phaseF (s.body u.order) = s.phaseF (s.body v.order))
    let measured := !u.flags.estimated && !v.flags.estimated && same
    let leave := e + s.yCut
    let s := s.setUnit u.c (fun r => { r with
      lFin := some lFin, lFinal := true, lMeasured := measured, leaveAt := some leave })
    let s := if measured then s.judgeMatch u.c lFin u.order else s
    let s := s.drawFinal u.order measured lFin
    let s := if measured && !u.flags.synthetic && !v.flags.synthetic then s.sampleStrain lFin lRh else s
    s.spliceCoordinates u g lFin lRh
  | _, _, _ => s

/-! ## Setting g (R8, R15, R16, R21, R79, R97) -/

/-- The record before and the record after a unit in the track. -/
def neighbours (c : Int) : List UnitRec → Option UnitRec → Option UnitRec × Option UnitRec
  | [], _ => (none, none)
  | u :: rest, prev => if u.c = c then (prev, rest.head?) else neighbours c rest (some u)

/-- The H_F events of a unit are armed from its g and its provisional length (R8, R10, R21, R67, R79). -/
def State.armUnit (s : State) (u : UnitRec) (g : Int) (estimated : Bool) : State :=
  let lFin := s.estimate u
  let start := g + s.phaseF (s.body u.order)
  let mid := start + floorDiv lFin 2
  let nip := mid + s.yNip
  let shade := mid + s.yShade
  let horizon := start + s.yCut - s.leadF
  s.setUnit u.c (fun r => { r with
    g := some g, lFin := some lFin, nipAt := some nip, shadeAt := some shade, horizonAt := some horizon,
    flags := { r.flags with estimated := r.flags.estimated || estimated } })

/-- The lengths that become final by a g: that of the record before, and that of the unit when the next has g. -/
def State.finalizeAround (s : State) (c : Int) : State :=
  let (prev, _) := neighbours c s.track.units none
  let s := match prev, s.unit? c with
    | some p, some u => s.finalize p u
    | _, _ => s
  let (_, next) := neighbours c s.track.units none
  match s.unit? c, next with
  | some u, some v => if v.g.isSome then s.finalize u v else s
  | _, _ => s

/-- What the order unit does when a g is set: span starts, and E′ of a flying changeover (R130, R133, R137). -/
def State.orderHears (s : State) (slot : Nat) (start : Int) : State :=
  let s := s.orderSpanKnown slot start
  match s.ord.active with
  | some n => s.tryFly n
  | none => s

/-- The checks whose point the unit has already passed are made at once (R61, R79). -/
def State.overdueChecks (s : State) (c : Int) : State :=
  let due (t : Option Int) : Bool := t.any (fun x => decide (x ≤ s.posHF))
  match s.unit? c with
  | none => s
  | some u =>
    let s := if due u.nipAt then s.checkNip c else s
    if due u.horizonAt then s.horizonReached u else s

/-- The g of a unit is set, and everything that follows from it. Where one g both makes a measured length final and fixes E′ of a
flying changeover (R133), the spec gives no order. The model takes the match, the draw gathering and the strain sample before
the activation, which then sets σ to σ_exp. It takes the final length, with its match and draw faults and with the SPLICE_BEFORE of
a splice that takes its coordinate by it (R13, R93), before the horizon of the unit whose g it is, and the counting toward TARGET
last: DESIGN CHOICE (log 42). A nip or a horizon that is due at once comes before the
planner counts and the order unit hears, so that E′ is never fixed at a unit past its horizon, as R133 says of E′: DEDUCED
(log 53). -/
def State.setG (s : State) (c g : Int) (estimated : Bool) : State :=
  match s.unit? c with
  | none => s
  | some u =>
    let start := g + s.phaseF (s.body u.order)
    let s := s.armUnit u g estimated
    let s := s.openRoll start
    let s := if s.cut.k.isNone then s.moveCount start else s
    let s := s.finalizeAround c
    let s := (s.overdueChecks c).settlePlan
    (s.orderHears u.order start).settlePlan

/-! ## Expiry (R16) -/

/-- The g that the chain gives a unit whose window has expired (R16). -/
def State.chainG (s : State) (u : UnitRec) : Int :=
  match (neighbours u.c s.track.units none).1 with
  | some p =>
    match p.g with
    | some g => g + s.estimate p
    | none => s.posHF - roundHalfAway (u.winHalf * s.peP) s.feP
  | none => s.posHF - roundHalfAway (u.winHalf * s.peP) s.feP

/-- One unmatched unit's window expires (R16). Where the g of the expiry also fixes E′ and activates the next order (R133), which
sets the miss count to 0, the spec does not say whether the expiry adds its 1 before or after. The model activates first and
then counts 1. EMBOSS_MARK_LOST is raised after every fault that the g itself brings: DESIGN CHOICE (log 42). -/
def State.expireUnit (s : State) (c : Int) : State :=
  match s.unit? c with
  | none => s
  | some u =>
    if u.unmatched then
      let s := s.setG c (s.chainG u) true
      let n := s.emb.missCount + 1
      let s := { s with emb := { s.emb with missCount := n } }
      if 4 ≤ n ∧ ¬ s.faultActive embossMarkLost 0 then s.raise embossMarkLost 0 else s
    else s

/-- The windows of some units expire, each after every earlier unmatched unit (R16). -/
def State.expireThrough (s : State) (c : Int) : State :=
  (s.track.units.filter (fun u => u.unmatched && decide (u.c ≤ c))).foldl (fun s u => s.expireUnit u.c) s

/-! ## Matching (R15, R17) -/

/-- A stamp is matched to a unit (R15). -/
def State.matchUnit (s : State) (u : UnitRec) (sW sF : Int) : State :=
  let d := sW - (u.c + u.winX)
  let delta := s.emb.delta + truncate (d - s.emb.delta) 4
  let before := ((neighbours u.c s.track.units none).1).bind UnitRec.g
  let raised := before.any (fun p => decide (sF ≤ p))
  let g := match before with
    | some p => if sF ≤ p then p + 1 else sF
    | none => sF
  let s := { s with emb := { s.emb with delta := delta, missCount := 0 } }
  let s := s.clear embossMarkLost 0
  let s := if raised then s else s.pendPhase u.c
  s.setG u.c g raised

/-- A spurious stamp is charged to a record (R17). -/
def State.chargeSpurious (s : State) (sW : Int) : State :=
  match s.track.units.find? (fun u => decide (sW ≤ u.winEnd s.emb.delta)) with
  | none => s
  | some u =>
    let n := saturate 255 (u.spurious + 1)
    let s := s.setUnit u.c (fun r => { r with spurious := n })
    if u.spurious = 3 then s.raise spuriousMarks 0 else s

/-- An EMARK stamp (R15, R17). An overdue expiry may fix E′ and activate the next order, which sets δ anew; the spec does not say
which δ then judges the remaining windows. The overdue windows are those of the δ held at the stamp, and the match search uses
the δ held after the expiries: DESIGN CHOICE (log 42). -/
def State.takeEmark (s : State) (sW sF : Int) : State :=
  let overdue := s.track.units.filter (fun u => u.unmatched && decide (u.winEnd s.emb.delta < sW))
  let s := overdue.foldl (fun s u => s.expireThrough u.c) s
  match s.track.units.find? (fun u => u.unmatched && decide (magnitude (sW - u.winCentre s.emb.delta) ≤ u.winHalf)) with
  | some u => s.matchUnit u sW sF
  | none => s.chargeSpurious sW

/-! ## Splices and records that leave (R10, R11, R12, R13) -/

/-- A SPLICE stamp taken at the high-water mark (R11, R34). -/
def State.takeSplice (s : State) : State :=
  let p := s.posH + s.dSplice
  let known := match s.track.splices.getLast? with
    | some e => decide (p - e.p ≤ s.spliceRepeat)
    | none => false
  if known then s
  else if 8 ≤ s.track.splices.length then s.raise spliceListFull 0
  else
    let e : SpliceRec := { p := p, f := none, owner := .unsettled, leaveAt := none, dropAfter := none }
    State.openZone { s with track := { s.track with splices := s.track.splices ++ [e] } } p

/-- Whether a splice entry's leaving event is due: the cutter passed (R13), or an unowned entry past the emboss sensor
distance (R12). -/
def State.spliceDue (s : State) (e : SpliceRec) : Bool :=
  e.leaveAt.any (fun t => decide (t ≤ s.posHF)) || e.dropAfter.any (fun t => decide (t < s.posH))

/-- A splice entry leaves the list (R11, R12, R13). -/
def State.dropSplice (s : State) (p : Int) : State :=
  State.clear { s with track := { s.track with splices := s.track.splices.filter (fun (e : SpliceRec) => decide (e.p ≠ p)) } }
    spliceListFull 0

/-- The oldest record, when its leaving event is due (R10). -/
def State.leavingUnit (s : State) : Option UnitRec :=
  match s.track.units with
  | [] => none
  | u :: _ => if u.leaveAt.any (fun t => decide (t ≤ s.posHF)) then some u else none

/-- A record leaves the track and joins a roll (R7, R10, R47, R97). -/
def State.unitLeaves (s : State) (u : UnitRec) : State :=
  let s := { s with
    track := { s.track with units := s.track.units.filter (fun (v : UnitRec) => decide (v.c ≠ u.c)) },
    emb := { s.emb with phasePending := s.emb.phasePending.filter (fun c => decide (c ≠ u.c)) } }
  let s := s.joinUnit u
  if s.track.units.length < 256 then s.clear trackFull 0 else s

end Sys2Proof.Machine
end

