-- ==== Sys2Proof/Machine/Link.lean ====
section
/-! DEFINITION. The station link (chapter 8): frames and slots, enumeration, judging replies, lost commands and restarts,
and the delivery of reports to the blocks. -/

namespace Sys2Proof.Machine

/-- Change the link. -/
def State.setLink (s : State) (f : Link → Link) : State := { s with link := f s.link }

/-! ## Slots and frames (R139, 8.1.1) -/

/-- The next count of a node's counter: 1…15, continuing at 1 (R140, R143, R144). -/
def nextCount (x : Nat) : Nat := nextCyclic 15 x

/-- A slot from its first bytes, the rest 0. -/
def slotOf (bs : List Byte) : Slot := Vector.ofFn (fun i => bs.getD i.val 0)

/-- Code and argument of a block's command (8.1.1). -/
def LinkCmd.encode : LinkCmd → Nat × List Byte
  | .phaseTrim um => (3, intBytes 4 um)
  | .engage => (4, [])
  | .lift => (5, [])
  | .drawTrim ppm => (6, intBytes 4 ppm)
  | .measure tag _ => (7, [byte tag])
  | .calibrate _ => (8, [])
  | .cutIn um _ => (9, intBytes 4 um)

/-- An argument of 8 bytes, byte 7 being the last event number for the winder drive (8.1.1, R144). -/
def argument (bs : List Byte) (last : Nat) : List Byte := (bs ++ List.replicate (7 - bs.length) 0).take 7 ++ [byte last]

/-- The last event number that goes out in a node's slot. -/
def Node.eventOut (n : Node) : Nat := if n.kind = kindWinder then n.lastEvent else 0

/-- The slot of the node at position `p` in a cycle frame (R141, R143, R144). -/
def Node.slot (n : Node) (p : Nat) : SentSlot :=
  let idle : SentSlot := { bytes := slotOf ([byte 0, byte n.expected] ++ argument [] n.eventOut), carries := .idle }
  match n.st with
  | .configuring =>
    { bytes := slotOf ([byte 2, byte (nextCount n.expected), byte p, byte n.station]), carries := .configure }
  | .present =>
    match n.waiting with
    | c :: _ =>
      if n.settled then
        { bytes := slotOf ([byte c.encode.1, byte (nextCount n.expected)] ++ argument c.encode.2 n.eventOut),
          carries := .command c }
      else idle
    | [] => idle
  | .silent => idle
  | .mismatched => idle

/-- The slots of the nodes from position `p` on. -/
def nodeSlots : Nat → List Node → List SentSlot
  | _, [] => []
  | p, n :: rest => n.slot p :: nodeSlots (p + 1) rest

/-- The slot of a position beyond the node table: IDLE, as no block has a node there (R139, log 50). -/
def beyondSlot (cycle p : Nat) : SentSlot :=
  { bytes := slotOf [byte 0, Config.freeSequence cycle p], carries := .idle }

/-- The slots of a CYCLE frame: one for each position 1…n, n the chain length of the last enumeration (R139). -/
def Link.cycleSlots (l : Link) : List SentSlot :=
  nodeSlots 1 l.nodes
    ++ (List.range (l.n - l.nodes.length)).map (fun i => beyondSlot l.cycle (l.nodes.length + i + 1))

/-- An ENUMERATE slot (R142). -/
def enumerateSlot : SentSlot := { bytes := slotOf [byte 1], carries := .enumerate }

/-- The bytes of a frame as sent: header, slots, check high byte first (R139). -/
def frameBytes (kind cycle : Nat) (slots : List SentSlot) : List Byte :=
  let covered := byte kind :: natBytes 2 cycle ++ [0] ++ (slots.map (fun x => x.bytes.toList)).flatten
  let check := frameCheck covered
  covered ++ [byte (check / 256), byte check]

/-- Commands that go out leave their queues (R144). -/
def Node.sent (n : Node) : Node :=
  if n.st = .present ∧ n.settled = true then { n with waiting := n.waiting.drop 1 } else n

/-- The blocks are told which commands have gone: the shade unit of its MEASURE (R67, R144). -/
def State.tellSent (s : State) (c : SlotCmd) : State :=
  match c with
  | .command (.measure _ unit) => s.measureSent unit
  | _ => s

/-- The next frame is composed and leaves (R139, R142, R144). -/
def State.sendFrame (s : State) : State :=
  let enumerate := s.link.enumerating
  let slots := if enumerate then List.replicate 12 enumerateSlot else s.link.cycleSlots
  let bytes := frameBytes (if enumerate then 2 else 1) s.link.cycle slots
  let s := s.setLink (fun l => { l with
    tx := bytes, cycle := (l.cycle + 1) % 65536, out := some { enumerate := enumerate, slots := slots },
    nodes := if enumerate then l.nodes else l.nodes.map Node.sent })
  slots.foldl (fun s x => s.tellSent x.carries) s

/-! ## Lost commands (R141, R145, R146) -/

/-- A command of the node at index `i` is reported lost to its block (R40, R59, R66, R69, R71, R99). -/
def State.cmdLost (s : State) (i : Nat) (c : LinkCmd) : State :=
  match s.ownerOf i, c with
  | some (.station st), .phaseTrim _ => s.printTrimLost st
  | some .emboss, .phaseTrim _ => s.embossTrimLost
  | some .emboss, .engage => s.engageLost
  | some .emboss, .lift => s.liftLost
  | some .draw, .drawTrim _ => s.drawResend
  | some .shade, .calibrate again => (s.calibrateLost again).sendCalibrate
  | some .winder, .cutIn _ serial => s.cutInLost serial 3
  | _, _ => s

/-- A block's command that a slot carried is reported lost. -/
def State.slotLost (s : State) (i : Nat) (c : SlotCmd) : State :=
  match c with
  | .command c => s.cmdLost i c
  | .idle => s
  | .enumerate => s
  | .configure => s

/-- The blocks see a node's change of state: the loops their causes, the winder its spindle test, and LINK is latched
(R33, R98, R141). -/
def State.nodeStateSeen (s : State) : State := ((s.latch .link).settle).reassess

/-- The node at index `i` leaves PRESENT: its waiting commands are reported lost, and a shade head's requests end
(R69, R141). -/
def State.leavePresent (s : State) (i : Nat) (st : NodeState) : State :=
  match s.link.nodes[i]? with
  | none => s
  | some n =>
    let s := s.setNode i (fun n => { n with st := st, waiting := [] })
    let s := s.nodeStateSeen
    let s := n.waiting.foldl (fun s c => s.cmdLost i c) s
    if s.ownerOf i = some .shade then s.dropRequests else s

/-- The node at index `i` takes a state other than PRESENT; MISMATCHED is not left before the next enumeration (R141, R152). -/
def State.nodeTo (s : State) (i : Nat) (st : NodeState) : State :=
  match s.link.nodes[i]? with
  | none => s
  | some n =>
    if n.st = st ∨ n.st = .mismatched then s
    else if n.st = .present then s.leavePresent i st
    else (s.setNode i (fun n => { n with st := st })).nodeStateSeen

/-- The node at index `i` goes to PRESENT, and its block acts (R66, R71, R143). -/
def State.nodePresents (s : State) (i : Nat) : State :=
  let s := (s.setNode i (fun n => { n with st := .present })).nodeStateSeen
  match s.ownerOf i with
  | some .draw => s.drawPresent
  | some .shade => s.sendCalibrate
  | _ => s

/-- No reply came from the node at index `i`: the silent count rises, and at 3 the node goes SILENT (R145, R148). -/
def State.nodeUnheard (s : State) (i : Nat) : State :=
  match s.link.nodes[i]? with
  | none => s
  | some n =>
    let count := saturate 3 (n.silent + 1)
    let s := s.setNode i (fun n => { n with silent := count })
    if 3 ≤ count ∧ (n.st = .present ∨ n.st = .configuring) then
      let s := s.setNode i (fun m => { m with wasConfiguring := decide (n.st = .configuring) })
      (s.nodeTo i .silent).raise nodeSilent (i + 1)
    else s

/-- A slot gave no reply: its command is lost, its count unsettled, the silent count rises (R145, R146). -/
def State.slotUnanswered (s : State) (i : Nat) (c : SlotCmd) : State :=
  let s := s.slotLost i c
  let s := if c = .idle then s else s.setNode i (fun n => { n with settled := false })
  s.nodeUnheard i

/-! ## Frames that give no reply (R145) -/

/-- The bad-frame run of the CYCLE frames (R145). -/
def State.badFrame (s : State) : State :=
  if 99 ≤ s.link.badRun then (s.setLink (fun l => { l with badRun := 0 })).raise linkCheck 0
  else s.setLink (fun l => { l with badRun := l.badRun + 1 })

/-- Every slot of a frame went unanswered, from index `i` on. -/
def State.allUnanswered (s : State) : Nat → List SentSlot → State
  | _, [] => s
  | i, x :: rest => (s.slotUnanswered i x.carries).allUnanswered (i + 1) rest

/-- The outstanding frame came back with a bad check (`returned`) or did not come back (R69, R142, R145). -/
def State.frameFailed (s : State) (returned : Bool) : State :=
  match s.link.out with
  | none => s
  | some f =>
    let s := s.setLink (fun l => { l with out := none })
    if f.enumerate then s.setLink (fun l => { l with lastChain := none })
    else
      let s := (s.allUnanswered 0 f.slots).badFrame
      (if returned then s.countCycles else s).settlePlan

/-! ## Enumeration (R142) -/

/-- What an ENUMERATE slot shows: kind, serial number and counter of a replaced slot, nothing of an unchanged one
(log 19). -/
def foundIn (sent : Slot) (back : Option Slot) : Found :=
  match back with
  | none => { kind := 0, serial := 0, counter := 0 }
  | some b =>
    if b = sent then { kind := 0, serial := 0, counter := 0 }
    else
      let l := b.toList
      { kind := (l.getD 1 0).toNat / 16, serial := BitVec.ofNat 32 (natOfBytes ((l.drop 2).take 4)),
        counter := (l.getD 1 0).toNat % 16 }

/-- The chain a good ENUMERATE frame gives. -/
def chainOf (hop : Nat) (f : Frame) (slots : List Slot) : Chain :=
  { hop := hop,
    nodes := (List.range (Nat.min hop 12)).map (fun i =>
      foundIn ((f.slots.map SentSlot.bytes).getD i (slotOf [])) slots[i]?) }

/-- Two chains are the same: hop count, kinds and serial numbers (R142). -/
def Chain.same (a b : Chain) : Bool :=
  decide (a.hop = b.hop ∧ a.nodes.map (fun n => (n.kind, n.serial)) = b.nodes.map (fun n => (n.kind, n.serial)))

/-- The node table of a chain; `rank` print drives have gone before (R142, 8.2). -/
def tableOf : Nat → List Found → List Node
  | _, [] => []
  | rank, f :: rest =>
    let print := decide (f.kind = kindPrint)
    { kind := f.kind, serial := f.serial, st := .configuring,
      station := if print && decide (rank < 8) then rank + 1 else 0, expected := f.counter, settled := true, silent := 0,
      waiting := [], lastEvent := 0, wasConfiguring := false }
      :: tableOf (if print then rank + 1 else rank) rest

/-- The node table is built, and the part goes to CONFIG with its sweep timer started (R142, R170, R182). -/
def State.buildTable (s : State) (c : Chain) : State :=
  let s := s.setLink (fun l => { l with
    enumerating := false, nodes := tableOf 0 c.nodes, n := c.hop, stale := false, lastChain := none })
  let s := { s with port := { s.port with sweepTimer := true } }
  ((s.latch .link).setPhase .config).settle

/-- An ENUMERATE frame came back good (R142). -/
def State.enumerateReturned (s : State) (c : Chain) : State :=
  match s.link.lastChain with
  | some d => if d.same c then s.buildTable c else s.setLink (fun l => { l with lastChain := some c })
  | none => s.setLink (fun l => { l with lastChain := some c })

/-! ## Reports (R149, R150) -/

/-- A spindle state from its code (R150). -/
def spindleOf (v : Nat) : SpindleState := if v = 0 then .empty else if v = 1 then .winding else .full

/-- An emboss position from its code (R150). -/
def positionOf (v : Nat) : EmbossPosition := if v = 1 then .engaged else if v = 2 then .lifted else .moving

/-- A CUT DONE reaches the winder, the shade unit and the order unit (R71, R100, R134); what is then due follows. R100 states no order
of the last two: the shade unit counts the cut, and may hand on CALIBRATE, for the order that the cut ends, before the order unit
makes it DONE: DESIGN CHOICE (log 63). -/
def State.cutDone (s : State) (residual : Int) : State :=
  match s.winder.out with
  | none => s
  | some c =>
    let s := (s.closeRoll c residual).shadeCutDone
    (if c.reasons.orderEnd then s.endOrders c.x else s).settlePlan

/-- The winder drive's event, taken when its number is new (R149). An event code above 3, which 8.1.1 does not define, is taken and
so acknowledged, and nothing is handed on: DESIGN CHOICE (log 56). -/
def State.winderEvent (s : State) (i event number : Nat) (residual : Int) : State :=
  match s.link.nodes[i]? with
  | none => s
  | some n =>
    if event = 0 ∨ number = n.lastEvent then s
    else
      let s := s.setNode i (fun n => { n with lastEvent := number })
      if event = 1 then s.cutDone residual
      else if event = 2 then s.rollRemoved .a
      else if event = 3 then s.rollRemoved .b
      else s

/-- The value of a delivered reply goes to the owning block (R150). -/
def State.deliver (s : State) (i : Nat) (l : List Byte) : State :=
  let b (k : Nat) : Nat := (l.getD k 0).toNat
  let bit (k j : Nat) : Bool := (l.getD k 0).getLsbD j
  let int (k n : Nat) : Int := intOfBytes ((l.drop k).take n)
  match s.ownerOf i with
  | some (.station st) => s.setLoop st (fun p => { p with report := some { ready := bit 2 0, applied := int 4 4 } })
  | some .emboss => s.embossReported { atTemperature := bit 2 0, position := positionOf (b 3) }
  | some .draw => s.drawReported { ready := bit 2 0, atLimit := bit 2 1, applied := int 4 4 }
  | some .shade =>
    (s.headReported (bit 2 0)
      (if bit 2 1 then some (b 3, { l := natOfBytes ((l.drop 4).take 2), a := int 6 2, b := int 8 2 }) else none)).settlePlan
  | some .winder => ((s.winderReported (spindleOf (b 2), spindleOf (b 3))).winderEvent i (b 4) (b 5) (int 6 4)).settlePlan
  | none => s

/-! ## Judging a reply (R143, R146, R147, R148, R152) -/

/-- ARRANGEMENT from a running chain, in OPERATING only (R152, R153). -/
def State.raiseArrangement (s : State) (p : Nat) (already : Bool) : State :=
  if s.port.phase = .operating ∧ already = false then s.raise arrangementFault p else s

/-- The node at index `i` shows another kind than the table's (R152). What it had in flight is lost, and the loss is reported while the
node is still PRESENT, so that a CUT IN is handed again, lost again when the node leaves PRESENT, and the cut given up: DESIGN
CHOICE (log 59). -/
def State.mismatch (s : State) (i : Nat) (c : SlotCmd) : State :=
  let s := (s.setLink (fun l => { l with stale := true })).slotLost i c
  let s := (s.nodeTo i .mismatched).clear nodeSilent (i + 1)
  s.raiseArrangement (i + 1) (s.faultActive arrangementFault (i + 1))

/-- A restart is reported to the owning block (R147). -/
def State.tellRestart (s : State) (i : Nat) : State :=
  match s.ownerOf i with
  | some (.station st) => s.printRestarted st
  | some .emboss => s.embossRestarted
  | some .draw => s.drawResend
  | some .shade => s.shadeRestarted
  | some .winder => s.winderRestarted
  | none => s

/-- The node at index `i` has restarted (R147, R148): its waiting commands are reported lost, and with them the one in
flight. -/
def State.restarted (s : State) (i : Nat) (c : SlotCmd) : State :=
  let s := s.raise nodeRestarted (i + 1)
  let s := s.setNode i (fun n => { n with expected := 0, settled := true })
  let s := s.tellRestart i
  let s := (s.nodeTo i .configuring).slotLost i c
  let s := s.clear nodeSilent (i + 1)
  s.setNode i (fun n => { n with lastEvent := 0 })

/-- The counter of a node that has not restarted is judged (R146). An unsettled count settles at the counter; a command that was
in the slot is judged by the rows for a command, settled or not (log 18). -/
def State.judgeCounter (s : State) (i : Nat) (n : Node) (c : SlotCmd) (q counter : Nat) : State :=
  let settle (s : State) : State := s.setNode i (fun n => { n with expected := counter, settled := true })
  if c = .idle then
    if n.settled = false then settle s
    else if counter = n.expected then s
    else (settle s).raise commandLost (i + 1)
  else if counter = q then settle s
  else settle ((s.slotLost i c).raise commandLost (i + 1))

/-- The state a node takes after its counter was judged: PRESENT when its CONFIGURE was executed, and out of SILENT at its
first reply (R143, R148). -/
def State.afterJudging (s : State) (i : Nat) (n : Node) (c : SlotCmd) (executed : Bool) : State :=
  match n.st with
  | .configuring => if c = .configure ∧ executed = true then s.nodePresents i else s
  | .silent => (if n.wasConfiguring then s.nodeTo i .configuring else s.nodePresents i).clear nodeSilent (i + 1)
  | .present => s
  | .mismatched => s

/-- One replied slot (R146). A MISMATCHED node whose reply shows its table kind again has its counter judged like any other, with the
restart of R147 but for the step to CONFIGURING, since it stays MISMATCHED, and its value is not delivered (R146, R152): DEDUCED
(log 58). One that shows another kind still has nothing judged. -/
def State.judgeReply (s : State) (i : Nat) (sent : SentSlot) (l : List Byte) : State :=
  let s := s.setNode i (fun n => { n with silent := 0 })
  match s.link.nodes[i]? with
  | none => s
  | some n =>
    let status := (l.getD 0 0).toNat
    let kind := (l.getD 1 0).toNat / 16
    let counter := (l.getD 1 0).toNat % 16
    let q := (sent.bytes.toList.getD 1 0).toNat
    if kind ≠ n.kind then if n.st = .mismatched then s else s.mismatch i sent.carries
    else
      let s :=
        if counter = 0 ∧ n.expected ≠ 0 then s.restarted i sent.carries
        else
          (s.judgeCounter i n sent.carries q counter).afterJudging i n sent.carries
            (decide (status = 0) && decide (counter = q))
      if n.st = .mismatched then s else s.deliver i l

/-- The slots of a good frame, from index `i` on; one that is missing came back unchanged (R146, log 30). -/
def State.judgeSlots (s : State) : Nat → List SentSlot → List Slot → State
  | _, [], _ => s
  | i, x :: rest, back =>
    let s := match back with
      | [] => s.slotUnanswered i x.carries
      | b :: _ => if b = x.bytes then s.slotUnanswered i x.carries else s.judgeReply i x b.toList
    s.judgeSlots (i + 1) rest (back.drop 1)

/-- A frame came back with a good check (R142, R146, R153). A changed hop count is judged before the slots; no order is stated of it
and of a mismatched kind in the same frame: DESIGN CHOICE (log 8). -/
def State.frameReturned (s : State) (hop : Nat) (slots : List Slot) : State :=
  match s.link.out with
  | none => s
  | some f =>
    let s := s.setLink (fun l => { l with out := none })
    if f.enumerate then s.enumerateReturned (chainOf hop f slots)
    else
      let s := s.setLink (fun l => { l with badRun := 0 })
      let s :=
        if hop = s.link.n then s
        else
          (s.setLink (fun l => { l with stale := true })).raiseArrangement (Nat.min hop s.link.n + 1)
            (s.faultActiveAny arrangementFault)
      ((s.judgeSlots 0 f.slots slots).countCycles).settlePlan

/-! ## The arrangement (R151) -/

/-- Whether the node table and the expected arrangement differ at a position (1…12): one side has a node and the other none, or
the kinds differ. The expected kind 0 stands for no node (11.1, R151). -/
def State.positionDiffers (s : State) (p : Nat) : Bool :=
  match s.link.nodes[p - 1]? with
  | some n => decide (s.arrangement p = 0) || decide (s.arrangement p ≠ n.kind)
  | none => decide (s.arrangement p ≠ 0)

/-- The first position at which the table differs from the expected arrangement (R151). -/
def State.arrangementDifference (s : State) : Option Nat :=
  let byKind := ((List.range 12).map (fun i => i + 1)).find? s.positionDiffers
  let last := Nat.min s.link.n s.link.nodes.length
  let beyond := if s.link.stale || decide (12 < s.link.n) then some (if last = 0 then 1 else last + 1) else none
  match byKind, beyond with
  | some p, some q => some (Nat.min p q)
  | some p, none => some p
  | none, some q => some q
  | none, none => none

/-- Every active ARRANGEMENT with a subject other than `p` clears. -/
def State.clearArrangement (s : State) (p : Option Nat) : State :=
  (s.fault.active.filter (fun f => decide (f.code = arrangementFault ∧ some f.subject ≠ p))).foldl
    (fun s f => s.clear arrangementFault f.subject) s

/-- The comparison at an accepted LEAVE CONFIG (R151). -/
def State.compareArrangement (s : State) : State :=
  let d := s.arrangementDifference
  let s := s.clearArrangement d
  match d with
  | some p => s.raise arrangementFault p
  | none => s

end Sys2Proof.Machine
end

