-- ==== Sys2Proof/Machine/LiveImage.lean ====
section
/-! DEFINITION. The live image (10.6, R176): what each block publishes, packed into its group. A value that may be none is
preceded by one byte; where it is none its own bytes are 0 (log 9). -/

namespace Sys2Proof.Machine

/-! ## Packing (10.6) -/

/-- A coordinate, 6 bytes. -/
def packCoordinate (v : Int) : List Byte := intBytes 6 v
/-- A signed quantity, 4 bytes. -/
def packSigned (v : Int) : List Byte := intBytes 4 v
/-- A count, 2 bytes. -/
def packCount (v : Nat) : List Byte := natBytes 2 v
/-- A state or small indication, 1 byte. -/
def packSmall (v : Nat) : List Byte := [byte v]
/-- An indication. -/
def packFlag (b : Bool) : List Byte := [flagByte b]

/-- A value of `len` bytes that may be none. -/
def packOption {α : Type} (v : Option α) (len : Nat) (f : α → List Byte) : List Byte :=
  match v with
  | some a => byte 1 :: f a
  | none => List.replicate (len + 1) 0

/-- A group: its items from its first byte, the rest 0. 10.6 says 'each in whole words' and gives states and indications 1 byte: the
items follow one another byte by byte, none padded to a word: DESIGN CHOICE (log 9). -/
def packGroup (len : Nat) (l : List Byte) : List Byte := (l ++ List.replicate (len - l.length) 0).take len

/-! ## State codes: places in their tables (10.6) -/

def LoopState.place : LoopState → Nat
  | .off => 1
  | .acquire => 2
  | .tracking => 3
  | .settling => 4
  | .hold => 5
  | .lost => 6

def EmbossState.place : EmbossState → Nat
  | .off => 1
  | .lifted => 2
  | .syncing => 3
  | .engaging => 4
  | .engaged => 5
  | .lifting => 6

def EmbossPosition.code : EmbossPosition → Nat
  | .engaged => 1
  | .lifted => 2
  | .moving => 3

def WinderState.place : WinderState → Nat
  | .thread => 1
  | .winding => 2
  | .cutIssued => 3
  | .stalled => 4

def Spindle.code : Spindle → Nat
  | .a => 0
  | .b => 1

def SpindleState.code : SpindleState → Nat
  | .empty => 0
  | .winding => 1
  | .full => 2

def NodeState.place : NodeState → Nat
  | .configuring => 1
  | .present => 2
  | .silent => 3
  | .mismatched => 4

def Freeze.code : Freeze → Nat
  | .thawed => 0
  | .freezing => 1
  | .frozen => 2

/-! ## The groups -/

/-- Reverse travel in 0.1 mm (R4). -/
def State.reverseTravel (s : State) : Int := toLength (s.posH - s.posW) s.peP

/-- Coordinate unit, web track and drift, then the synthetic count (R1, R4, R5, R7, R11, R18, R43). -/
def State.imageCoord (s : State) : List Byte :=
  packCoordinate s.posW ++ packCoordinate s.posWF ++ packSigned s.reverseTravel ++ packSigned s.coord.speed
    ++ packCount s.track.units.length ++ packCount s.track.splices.length ++ packSigned s.emb.sigma
    ++ packSigned s.emb.delta ++ packCount s.reg.synthCount

/-- One station of the register unit (R43). -/
def Loop.image (l : Loop) : List Byte :=
  packGroup 16 (packSmall l.st.place ++ packSigned l.e16 ++ packOption l.lastE 4 packSigned
    ++ packOption l.report 5 (fun r => packFlag r.ready ++ packSigned r.applied))

/-- The register unit (R43). -/
def State.imageRegister (s : State) : List Byte := (s.reg.loops.map Loop.image).flatten

/-- Emboss loop and draw loop (R62, R64). -/
def State.imageEmboss (s : State) : List Byte :=
  packSmall s.emb.st.place ++ packSigned s.emb.phi16 ++ packOption s.emb.lastPhi 4 packSigned
    ++ packOption s.emb.report 2 (fun r => packSmall r.position.code ++ packFlag r.atTemperature)
    ++ packSigned s.draw.total
    ++ packOption s.draw.report 6 (fun r => packFlag r.ready ++ packFlag r.atLimit ++ packSigned r.applied)

/-- Shade unit (R86). The classifying order's slot takes 1 byte and the open batch number 2: DESIGN CHOICE (log 9). -/
def State.imageShade (s : State) : List Byte :=
  packOption s.shade.classifying 1 (fun k => packSmall k.slot) ++ packCount (s.shade.openBatch.getD 0)
    ++ packCount s.shade.run.length ++ packCount s.shade.runReadings ++ packCount s.shade.queue.length
    ++ packOption s.shade.headCal 1 packFlag

/-- Cut planner and winder (R107). The roll's order slot takes 1 byte, and the reasons byte of the earliest entry shows its DEFERRED mark in bit 6: DESIGN CHOICE (log 9). -/
def State.imageWinder (s : State) : List Byte :=
  packSmall s.winder.st.place ++ packSmall s.winder.active.code
    ++ packOption s.winder.spindles 2 (fun p => packSmall p.1.code ++ packSmall p.2.code)
    ++ packOption s.winder.roll 8 (fun r =>
        packCount r.units.length ++ packSigned (toLength r.length s.feP) ++ packOption r.order 1 packSmall)
    ++ packOption s.winder.out 6 (fun c => packCoordinate c.x) ++ packSigned s.winder.residual
    ++ packCount s.cut.plan.length
    ++ packOption s.cut.plan.head? 7 (fun e => packCoordinate e.x ++ [e.reasons.byte e.deferred])

/-- Roll records and label line (R122). 10.6 gives widths to coordinates, signed quantities, counts and states. The record sequence
takes 4 bytes and the outstanding job number 2, and each of the four places of the queue has a presence byte: DESIGN CHOICE (log 9). -/
def State.imageRolls (s : State) : List Byte :=
  packCount s.rolls.queue.length
    ++ ((List.range 4).map (fun i =>
        packOption s.rolls.queue[i]? 5 (fun r => natBytes 4 r.seq ++ packSmall r.label.code))).flatten
    ++ packCount (match s.rolls.job with
        | some j => j.number
        | none => 0)
    ++ packOption s.rolls.printer 1 packFlag ++ packCount s.rolls.rxErrors ++ packCount s.rolls.freeSlots

/-- Order unit (R138). Order slots take 1 byte, and each of the eight places of the queue has a presence byte: DESIGN CHOICE (log 9). -/
def State.imageOrder (s : State) : List Byte :=
  let q := s.orderQueue
  let o := s.ord.active.map s.order
  packOption s.ord.active 1 packSmall ++ ((List.range 8).map (fun i => packOption q[i]? 1 packSmall)).flatten
    ++ packFlag s.ord.hold ++ packFlag s.ord.waste ++ packCoordinate ((o.bind OrderRec.s0).getD 0)
    ++ packCoordinate ((o.bind OrderRec.e).getD 0)

/-- One position of the station link (R154). The serial number takes 4 bytes, kind, station number and expected count 1 each, and the
silent count 2: DESIGN CHOICE (log 9). -/
def Node.image (n : Node) : List Byte :=
  packSmall n.kind ++ natBytes 4 n.serial.toNat ++ packSmall n.st.place ++ packSmall n.station ++ packSmall n.expected
    ++ packCount n.silent ++ packCount n.waiting.length

/-- Station link (R154). The cycle number is that of the next frame, and a position without an entry shows 12 zero bytes:
DESIGN CHOICE (log 9). -/
def State.imageLink (s : State) : List Byte :=
  packCount s.link.cycle ++ packCount s.link.n ++ packFlag s.link.stale ++ packCount s.link.badRun
    ++ ((List.range 12).map (fun i => match s.link.nodes[i]? with
        | some n => n.image
        | none => List.replicate 12 0)).flatten

/-- Fault unit (R166). Code and subject of an active fault take 1 byte each, and the sixteen places have no presence byte, since code 0
is no fault: DESIGN CHOICE (log 9). -/
def State.imageFault (s : State) : List Byte :=
  packSmall s.fault.st.code ++ packSmall s.reaction.code ++ packSmall s.fault.pulse.code
    ++ packFlag (decide (s.fault.st = .normal ∨ s.fault.st = .alert)) ++ packCount s.fault.active.length
    ++ ((List.range 16).map (fun i => match s.fault.active[i]? with
        | some f => [byte f.code, byte f.subject]
        | none => [0, 0])).flatten
    ++ packCount s.stopClassCount ++ packCount s.fault.entrySeq ++ packCount (s.fault.free.filter (fun b => b)).length

/-- Every group in its place, 0x1902 to 0x1BFB (10.6). -/
def State.imageGroups (s : State) : List Byte :=
  packGroup 62 s.imageCoord ++ packGroup 128 s.imageRegister ++ packGroup 64 s.imageEmboss ++ packGroup 64 s.imageShade
    ++ packGroup 96 s.imageWinder ++ packGroup 64 s.imageRolls ++ packGroup 64 s.imageOrder
    ++ packGroup 160 s.imageLink ++ packGroup 60 s.imageFault

/-! ## Refresh and freeze (R176, R177) -/

/-- The freeze state changes, and its byte in the image with it (log 7). -/
def State.setFreeze (s : State) (f : Freeze) : State :=
  { s with port := { s.port with freeze := f } }.partStore 0x1BFC [byte f.code, 0]

/-- The live image becomes frozen (R177). -/
def State.freezeImage (s : State) : State := (s.setFreeze .frozen).latch .frozen

/-- A 20 ms tick: a refresh begins, unless one is running or the image is not THAWED (R176, R177). -/
def State.refreshStart (s : State) : State :=
  if s.port.freeze = .thawed ∧ s.port.refreshRunning = false then
    let n := nextCyclic 65535 s.port.refreshNo
    let s := { s with port := { s.port with refreshNo := n, refreshRunning := true } }
    s.partStore imageBase (natBytes 2 n ++ s.imageGroups)
  else s

/-- The running refresh completes (R176, R177). -/
def State.refreshFinish (s : State) : State :=
  if s.port.refreshRunning then
    let s := { s with port := { s.port with refreshRunning := false } }
    let s := s.partStore 0x1BFC ([byte s.port.freeze.code, 0] ++ natBytes 2 s.port.refreshNo)
    if s.port.freeze = .freezing then s.freezeImage else s
  else s

end Sys2Proof.Machine
end

