-- ==== Sys2Proof/Machine/Port.lean ====
section
/-! DEFINITION. The exchange port's sweeps and CONTROL commands (chapter 10), settings validation (11.1, 11.2), and
LINE RESET (11.4). -/

namespace Sys2Proof.Machine

/-- Change the exchange port. -/
def State.setPort (s : State) (f : Port → Port) : State := { s with port := f s.port }

/-! ## Sweeps (R170, R171) -/

/-- A sweep is asked for: it starts when none is running, and one more is pending otherwise (R170). -/
def State.askSweep (s : State) : State :=
  s.setPort (fun p => if p.sweepRunning then { p with sweepPending := true } else { p with sweepRunning := true })

/-- What the sweep found of fault slot `n`: whether its tags are equal, and whether it joins the free-slot set (R163,
R164). -/
def State.sweepFault (s : State) (n : Nat) : State :=
  let equal := decide (s.faultTag n = s.faultAck n)
  let frees := equal && decide (s.faultTag n ≠ 0) && decide (s.faultEntryState n = 2)
  { s with fault := { s.fault with
    acked := s.fault.acked.set n equal, free := s.fault.free.set n (s.fault.free.getD n false || frees) } }

/-- The blocks act on a completed sweep: the order unit, the roll-record block, the fault unit (R120, R124, R163, R171). -/
def State.sweepPass (s : State) : State :=
  let s := s.sweepOrders.settlePlan
  let free := (List.range 32).filter s.rollSlotFree
  let s := s.setRolls (fun r => { r with freeSlots := free.length })
  let s := (s.moveRecords free).settlePlan
  (List.range 32).foldl (fun s n => s.sweepFault n) s

/-- The sweep ends, and a pending one starts at once (R170). -/
def State.endSweep (s : State) : State :=
  if s.port.sweepRunning then
    s.sweepPass.setPort (fun p => { p with sweepRunning := p.sweepPending, sweepPending := false })
  else s

/-! ## Settings (R179, R180) -/

/-- Field `i` (1…79) of the settings area (11.1). -/
def State.settingsField (s : State) (i : Nat) : Int := s.readInt (settingsBase + 4 * i) 4

/-- The fixed ranges of the settings fields 1…53 (11.1); a bound that names another field is in `fieldOk`. -/
def settingRanges : List (Int × Int) :=
  [(1000, 40000), (1000, 40000), (1000, 2000000), (0, 500000), (0, 2000000), (-2147483648, 2147483647)]
  ++ List.replicate 7 (0, 200000)
  ++ [(1, 1000000), (1, 1000000), (1, 1000000), (1000, 20000), (0, 20000)]
  ++ List.replicate 12 (0, 5)
  ++ [(0, 4), (5, 500), (1, 64), (10, 2000), (0, 4), (5, 500), (1, 64), (10, 2000), (10, 2000), (50, 10000)]
  ++ [(0, 5000), (1, 64), (1000, 30000), (1, 15), (1, 15), (10, 2000), (20, 2000), (2000, 50000), (1, 20), (0, 100000),
      (0, 20000), (3000, 50000), (0, 50000)]

/-- Whether field `i` passes (R180). -/
def fieldOk (f : Nat → Int) (i : Nat) : Bool :=
  if i ≤ 53 then
    let (lo, hi) := settingRanges.getD (i - 1) (0, 0)
    within (f i) lo hi && (if i = 15 then decide (f 14 < f 15) else if i = 16 then decide (f 15 < f 16)
      else if i = 18 then decide (f 18 ≤ f 17 - 1) else true)
  else
    let code := i - 53
    if isFixedKind code then true else within (f i) (reactionRange code).1 (reactionRange code).2

/-- The first field that fails (R180). -/
def State.badSetting (s : State) : Option Nat :=
  ((List.range 79).map (fun i => i + 1)).find? (fun i => !fieldOk s.settingsField i)

/-- Settings status and field index in the header (11.2). -/
def State.settingsStatus (s : State) (status field : Nat) : State := s.partStore 0x06 [byte status, byte field]

/-- The working copy of the settings taken by an accepted record (R179, R180). -/
def State.workingSettings (s : State) : List Int := (List.range 79).map (fun i => s.settingsField (i + 1))

/-- The header of an accepted record: ACCEPTED, field 0, and the record's tag (11.2, R180). -/
def State.acceptHeader (s : State) : State :=
  ((s.settingsStatus 1 0).partStore 0x08 [byte (s.readNat settingsBase 1), 0]).tagWritten

/-- The fault unit leaves CONFIG with the outputs as in NORMAL (R157, R158). -/
def State.leaveFaultConfig (s : State) : State :=
  { s with fault := { s.fault with st := .normal, stopA := true, stopB := false, pulse := .note } }

/-- The fault state entered on leaving CONFIG (R158). -/
def State.judgeFaultState (s : State) : State := if 0 < s.stopClassCount then s.enterStopped else s.faultSettle

/-- An accepted LEAVE CONFIG, in the order of R180. -/
def State.acceptSettings (s : State) : State :=
  let s := { s with settings := s.workingSettings }
  let s := s.acceptHeader.setPhase .operating
  let s := s.compareArrangement.leaveFaultConfig.judgeFaultState
  s.settle.testActivation.settlePlan

/-- LEAVE CONFIG (R180): taken in CONFIG only. -/
def State.leaveConfig (s : State) : State :=
  if s.port.phase ≠ .config then s
  else
    match s.badSetting with
    | some i => s.settingsStatus 2 i
    | none => s.acceptSettings

/-- ENTER CONFIG (R181): taken in OPERATING; BUSY while an order runs. -/
def State.enterConfig (s : State) : State :=
  if s.port.phase ≠ .operating then s
  else if s.orderRunning then s.settingsStatus 3 0
  else
    let s := (s.setPhase .config).faultToConfig
    let s := { s with ord := { s.ord with hold := false } }
    (s.settingsStatus 0 0).settle

/-- RESUME (R160): taken in STOPPED while no STOP-class fault is active; a changeover hold ends (R135). -/
def State.resume (s : State) : State :=
  if s.port.phase ≠ .starting ∧ s.fault.st = .stopped ∧ s.stopClassCount = 0 then
    let s := s.faultToRunning.settle
    let held := s.ord.hold
    let s := { s with ord := { s.ord with hold := false } }
    (if held then s.testActivation else s).settlePlan
  else s

/-! ## FREEZE and THAW (R177) -/

/-- FREEZE (R177); discarded in STARTING (R175). -/
def State.freezeCommand (s : State) : State :=
  if s.port.phase = .starting ∨ s.port.freeze ≠ .thawed then s
  else if s.port.refreshRunning then s.setFreeze .freezing
  else s.freezeImage

/-- THAW (R177); discarded in STARTING (R175). -/
def State.thawCommand (s : State) : State :=
  if s.port.phase = .starting ∨ s.port.freeze = .thawed then s else s.setFreeze .thawed

/-- ATTENTION (R170); discarded in STARTING (R175). -/
def State.attention (s : State) : State := if s.port.phase = .starting then s else s.askSweep

/-! ## LINE RESET (R183, R184) -/

/-- A closing roll is composed, and the record's order and roll number are reported to the order unit, which counts the roll
until the order is retired (R108, R131). -/
def State.composeReported (s : State) (c : ClosingRoll) : State :=
  let slot := (s.rollOrder c).slot
  let held := s.copyHeld c
  let s := s.compose c
  if held then s.rollProduced slot else s

/-- Each closing roll still held is composed and reported, without a label job (R100, R108, R122, R183). -/
def State.composeAll (s : State) : State :=
  let s := s.winder.closing.foldl (fun s c => s.composeReported c) s
  s.setWinder (fun w => { w with closing := [] })

/-- Each ACTIVE entry is written CLEARED, without counter or latch (R166, R183). -/
def State.clearEntries (s : State) : State :=
  (List.range 32).foldl (fun s n =>
    if s.faultTag n ≠ 0 ∧ s.faultEntryState n = 1 then s.clearEntry n (s.faultCode n) false else s) s

/-- Each TAKEN, ACTIVE or ENDING order becomes DONE with reason RESET, its part tag taking the host tag (R183). -/
def State.resetOrders (s : State) : State :=
  (List.range 8).foldl (fun s n =>
    let o := s.order n
    if o.st = .taken ∨ o.st = .active ∨ o.st = .ending then
      let a := orderSlotAddr n
      let s := s.partStore (a + 0x76) [0, 0, 3, 0]
      let s := s.partStore (a + 0x70) [byte (s.hostTag n), 5]
      s.setOrder n (fun o => { o with st := .done, currentRoll := 0 })
    else s) s

/-- What an order slot keeps over LINE RESET: its state, rolls produced and serial (R138). -/
def OrderRec.afterReset (o : OrderRec) : OrderRec :=
  { OrderRec.reset with st := o.st, serial := o.serial, produced := o.produced, currentRoll := o.currentRoll }

/-- The header counts of LINE RESET (R168, R183). -/
def State.resetCounts (s : State) : State :=
  let s := s.header 0x0E 2 (saturate 65535 (s.readNat 0x0E 2 + s.rolls.queue.length))
  s.header 0x10 2 (saturate 65535 (s.readNat 0x10 2 + 1))

/-- Every block takes its LINE RESET values (R184 and the tables of R22, R43, R62, R86, R107, R122, R138, R154, R166, R178).
No rule says what becomes of the number of roll slots found free at the last sweep, of the last report of each print drive, or of the
roll last composed: the model keeps the first and sets the others to none, DESIGN CHOICE (log 9). -/
def State.blocksReset (s : State) : State :=
  { s with
    port := { Port.reset with route := s.port.route },
    coord := Coord.reset, track := Track.reset, reg := RegisterUnit.reset, emb := EmbossUnit.reset,
    draw := DrawLoop.reset, shade := ShadeUnit.reset, cut := Planner.reset,
    winder := { Winder.reset with cutSerial := s.winder.cutSerial },
    rolls := { RollUnit.reset with
      seq := s.rolls.seq, nextJob := s.rolls.nextJob, printer := s.rolls.printer, rxErrors := s.rolls.rxErrors,
      freeSlots := s.rolls.freeSlots, tx := s.rolls.tx },
    ord := { OrderUnit.reset with
      orders := s.ord.orders.map OrderRec.afterReset, nextSerial := s.ord.nextSerial },
    link := { Link.reset with tx := s.link.tx },
    fault := { s.fault with st := .config, active := [], pulse := .note, stopA := false, stopB := false } }

/-- LINE RESET (R183, R184); discarded in STARTING (R175). -/
def State.lineReset (s : State) : State :=
  if s.port.phase = .starting then s
  else
    let s := s.composeAll.clearEntries.resetOrders
    let s := s.resetCounts.zeroMirror
    let s := s.partStore imageBase (List.replicate imageSize 0)
    let s := s.blocksReset
    (s.header 0x0A 1 0).header 0x04 1 0

/-! ## CONTROL (R175) -/

/-- A CONTROL write with a code (R175); an unknown one is ignored, and in STARTING every one is discarded. -/
def State.control (s : State) (v : Word) : State :=
  if s.port.phase = .starting then s
  else if v = 1 then s.attention
  else if v = 2 then s.freezeCommand
  else if v = 3 then s.thawCommand
  else if v = 4 then s.resume
  else if v = 5 then s.enterConfig
  else if v = 6 then s.leaveConfig
  else if v = 7 then s.lineReset
  else s

end Sys2Proof.Machine
end

