-- ==== Sys2Proof/Machine/Coordinates.lean ====
section
/-! DEFINITION. The coordinate unit (1.1): encoder transitions with the high-water marks and REVERSE_LIMIT, and the speed
measurement. -/

namespace Sys2Proof.Machine

/-- A position after a forward count (R1); beyond 2^48 - 1 it is a free value (log 5). -/
def forwardPosition (w : Position) (idx : Nat) : Position := if w.toNat = maxPosition then Config.freePosition idx else w + 1

/-- How many free values a forward count takes. -/
def forwardUse (w : Position) : Nat := if w.toNat = maxPosition then 1 else 0

/-- A position after a reverse count: one at 0 is not counted (R1). -/
def reversePosition (w : Position) : Position := if w = 0 then 0 else w - 1

/-- A high-water mark after a forward count (R2). -/
def highWater (h w : Position) : Position := if h.toNat < w.toNat then w else h

/-- A forward count on PE (R1, R2, R4): an active REVERSE_LIMIT clears when W regains H. -/
def State.peForward (s : State) : State :=
  let w := forwardPosition s.coord.w s.freeIdx
  let s : State := { s with
    coord := { s.coord with w := w, h := highWater s.coord.h w }, freeIdx := s.freeIdx + forwardUse s.coord.w }
  if s.coord.w = s.coord.h then s.clear reverseLimitFault 0 else s

/-- A reverse count on PE (R1, R4): reverse travel beyond the limit raises REVERSE_LIMIT when it is not active. -/
def State.peReverse (s : State) : State :=
  if s.coord.w = 0 then s
  else
    let s : State := { s with coord := { s.coord with w := reversePosition s.coord.w } }
    if s.reverseLimit < s.posH - s.posW ∧ ¬ s.faultActive reverseLimitFault 0 then s.raise reverseLimitFault 0 else s

/-- A forward count on FE (R1, R2). -/
def State.feForward (s : State) : State :=
  let w := forwardPosition s.coord.wF s.freeIdx
  { s with
    coord := { s.coord with wF := w, hF := highWater s.coord.hF w }, freeIdx := s.freeIdx + forwardUse s.coord.wF }

/-- A reverse count on FE (R1). -/
def State.feReverse (s : State) : State := { s with coord := { s.coord with wF := reversePosition s.coord.wF } }

/-- A transition on an encoder (R1); one without direction is not counted. -/
def State.transition (s : State) (enc : Encoder) (sense : Sense) : State :=
  match enc, sense with
  | .pe, .forward => s.peForward
  | .pe, .reverse => s.peReverse
  | .fe, .forward => s.feForward
  | .fe, .reverse => s.feReverse
  | .pe, .both => s
  | .fe, .both => s

/-- ENCODER_TRANSITION (R1, R2, R4). -/
def execEncoderTransition (enc : Encoder) (sense : Sense) (s : State) : Host.Outcome State Fault Refusal :=
  .next (s.transition enc sense)

/-- The speed of a change of W over 10 ms, in mm/s (R5). -/
def State.measuredSpeed (s : State) : Int := roundHalfAway ((s.posW - (s.coord.speedBase.toNat : Int)) * s.peP) 10000

/-- SPEED_MEASUREMENT (R5), and the low-speed hold cause that reads it (R33). -/
def State.measureSpeed (s : State) : State :=
  let v := s.measuredSpeed
  State.loopsSettle { s with
    coord := { s.coord with speed := v, speedBase := s.coord.w }, reg := { s.reg with lowSpeed := decide (v < s.setting 47) } }

/-- SPEED_MEASUREMENT (R5). -/
def execSpeedMeasurement (s : State) : Host.Outcome State Fault Refusal := .next s.measureSpeed

end Sys2Proof.Machine
end

