-- ==== Sys2Proof/Machine/CutEvents.lean ====
section
/-! DEFINITION. The events of the cut planner and the winder (R98, R100, R101, R102, R108). -/

namespace Sys2Proof.Machine

/-- The armed lead event, when H_F has reached its threshold and it has not fired (R98). -/
def State.leadDue (s : State) : Option LeadEvent :=
  s.winder.lead.filter (fun l => !l.fired && decide (l.threshold ≤ s.posHF))

/-- The earliest entry reaches its lead point (R98). -/
def State.leadEvent (s : State) : State :=
  match s.leadDue with
  | some l => ((s.setWinder (fun w => { w with lead := some { l with fired := true } })).decideEntry).settlePlan
  | none => s

/-- LEAD_POINT (R98). -/
def execLeadPoint (s : State) : Host.Outcome State Fault Refusal := .next s.leadEvent

/-- A blocked entry's lead point is passed (R102). -/
def State.leadPassedEvent (s : State) : State := if s.leadPassed then s.deferEarliest.settlePlan else s

/-- LEAD_POINT_PASSED (R102). -/
def execLeadPointPassed (s : State) : Host.Outcome State Fault Refusal := .next s.leadPassedEvent

/-- The outstanding cut's CUT_MISSED threshold is passed (R101). -/
def State.missEvent (s : State) : State :=
  match s.winder.out with
  | some c => if c.missAfter < s.posHF then s.giveUpCut.settlePlan else s
  | none => s

/-- CUT_MISSED_THRESHOLD (R101). -/
def execCutMissedThreshold (s : State) : Host.Outcome State Fault Refusal := .next s.missEvent

/-- The oldest closing roll is handed over and composed; the order unit counts it, the label block tests, and the winder
looks at the holding queue again (R100, R108, R113, R131). -/
def State.handOver (s : State) (c : ClosingRoll) : State :=
  let s := s.setWinder (fun w => { w with closing := w.closing.drop 1 })
  ((s.composeReported c).labelNext.reassess).settlePlan

/-- A closing roll whose units have all left the track (R108). -/
def State.handoverEvent (s : State) : State :=
  match s.handoverDue with
  | some c => s.handOver c
  | none => s

/-- ROLL_HANDOVER (R108). -/
def execRollHandover (s : State) : Host.Outcome State Fault Refusal := .next s.handoverEvent

end Sys2Proof.Machine
end

