-- ==== Sys2Proof/Machine/Edges.lean ====
section
/-! DEFINITION. The four sensor edges (R3). An edge below its high-water mark is discarded. -/

namespace Sys2Proof.Machine

/-- The PE inputs are accepted when W = H (R3). -/
def State.peAtMark (s : State) : Bool := decide (s.coord.w = s.coord.h)

/-- The FE inputs are accepted when W_F = H_F (R3). -/
def State.feAtMark (s : State) : Bool := decide (s.coord.wF = s.coord.hF)

/-- MARK_EDGE (R3, R24). -/
def execMarkEdge (s : State) : Host.Outcome State Fault Refusal :=
  .next (if s.peAtMark then s.takeMark s.posW else s)

/-- SPLICE_EDGE (R3, R11). -/
def execSpliceEdge (s : State) : Host.Outcome State Fault Refusal := .next (if s.peAtMark then s.takeSplice else s)

/-- EMARK_EDGE (R3, R15). -/
def execEmarkEdge (s : State) : Host.Outcome State Fault Refusal :=
  .next (if s.feAtMark then s.takeEmark s.posW s.posWF else s)

/-- EINDEX_EDGE (R3, R47). -/
def execEindexEdge (s : State) : Host.Outcome State Fault Refusal :=
  .next (if s.feAtMark then s.takeIndex s.posWF else s)

end Sys2Proof.Machine
end

