-- ==== Sys2Proof/Machine/HostEvents.lean ====
section
/-! DEFINITION. The host's writes (R167, R172 to R175), its CONTROL commands (10.5), and the part's own ticks (R161, R170,
R176). -/

namespace Sys2Proof.Machine

/-- EXCHANGE_WRITE (R167). -/
def execExchangeWrite (addr : BitVec 13) (value : Word) (s : State) : Host.Outcome State Fault Refusal :=
  .next (s.hostWriteWord addr value)

/-- A write to NOTICE clears the factors whose bits are 1 (R173). -/
def State.clearNotices (s : State) (value : Word) : State :=
  { s with port := { s.port with notice := s.port.notice &&& ~~~value } }

/-- NOTICE_WRITE (R173). -/
def execNoticeWrite (value : Word) (s : State) : Host.Outcome State Fault Refusal := .next (s.clearNotices value)

/-- A write to ROUTE replaces all seven routings; bits 14 and 15 stay 0 (R174, 10.5). -/
def State.setRoute (s : State) (value : Word) : State := { s with port := { s.port with route := value &&& 0x3FFF#16 } }

/-- ROUTE_WRITE (R174). -/
def execRouteWrite (value : Word) (s : State) : Host.Outcome State Fault Refusal := .next (s.setRoute value)

/-- REGISTER_WRITE (R172, R175): a write to STATUS is discarded; a write to CONTROL is its command. -/
def execRegisterWrite (register : HostRegister) (value : Word) (s : State) : Host.Outcome State Fault Refusal :=
  match register with
  | .status => .next s
  | .control => .next (s.control value)

/-- ATTENTION (R170). -/
def execAttention (s : State) : Host.Outcome State Fault Refusal := .next s.attention

/-- FREEZE (R177). -/
def execFreeze (s : State) : Host.Outcome State Fault Refusal := .next s.freezeCommand

/-- THAW (R177). -/
def execThaw (s : State) : Host.Outcome State Fault Refusal := .next s.thawCommand

/-- RESUME (R160). -/
def execResume (s : State) : Host.Outcome State Fault Refusal := .next s.resume

/-- ENTER_CONFIG (R181). -/
def execEnterConfig (s : State) : Host.Outcome State Fault Refusal := .next s.enterConfig

/-- LEAVE_CONFIG (R180). -/
def execLeaveConfig (s : State) : Host.Outcome State Fault Refusal := .next s.leaveConfig

/-- LINE_RESET (R183, R184). -/
def execLineReset (s : State) : Host.Outcome State Fault Refusal := .next s.lineReset

/-- SWEEP_TIMER (R170): the timer runs from the first enumeration on. -/
def execSweepTimer (s : State) : Host.Outcome State Fault Refusal := .next (if s.port.sweepTimer then s.askSweep else s)

/-- SWEEP_END (R171). -/
def execSweepEnd (s : State) : Host.Outcome State Fault Refusal := .next s.endSweep

/-- REFRESH_TICK (R176). -/
def execRefreshTick (s : State) : Host.Outcome State Fault Refusal := .next s.refreshStart

/-- REFRESH_END (R176, R177). -/
def execRefreshEnd (s : State) : Host.Outcome State Fault Refusal := .next s.refreshFinish

/-- Half a millisecond has passed: in NORMAL and ALERT both lines of the STOP pair invert (R161). -/
def State.toggleStop (s : State) : State :=
  if s.fault.st = .normal ∨ s.fault.st = .alert then
    { s with fault := { s.fault with stopA := !s.fault.stopA, stopB := !s.fault.stopB } }
  else s

/-- LINE_STOP_TOGGLE (R161). -/
def execLineStopToggle (s : State) : Host.Outcome State Fault Refusal := .next s.toggleStop

end Sys2Proof.Machine
end

