-- ==== Sys2Proof/Machine/LabelEvents.lean ====
section
/-! DEFINITION. What the label line brings (6.2.1, R113 to R117). -/

namespace Sys2Proof.Machine

/-- The printer report of a STATUS body; none when the frame is discarded (R115, R116). -/
def statusReport (body : List Byte) : Option Bool :=
  match body with
  | [b] => if b = 0 then some false else if b = 1 then some true else none
  | _ => none

/-- A STATUS frame (R115, R116). -/
def State.labelStatus (s : State) (body : List Byte) : State :=
  match statusReport body with
  | some ready => (s.setRolls (fun r => { r with printer := some ready })).labelNext
  | none => s.labelRejected

/-- LABEL_STATUS (R116). -/
def execLabelStatus (body : List Byte) (s : State) : Host.Outcome State Fault Refusal := .next (s.labelStatus body)

/-- An ACK frame (R115, R117). -/
def State.labelAck (s : State) (body : List Byte) : State :=
  match body with
  | [n] => s.labelAcked n.toNat
  | _ => s.labelRejected

/-- LABEL_ACK (R117). -/
def execLabelAck (body : List Byte) (s : State) : Host.Outcome State Fault Refusal := .next (s.labelAck body)

/-- A NAK frame, with any reason (R115, R117). -/
def State.labelNak (s : State) (body : List Byte) : State :=
  match body with
  | [n, _] => s.labelNaked n.toNat
  | _ => s.labelRejected

/-- LABEL_NAK (R117). -/
def execLabelNak (body : List Byte) (s : State) : Host.Outcome State Fault Refusal := .next (s.labelNak body)

/-- LABEL_FRAME_ERROR (R115): each cause abandons or discards the frame alike. -/
def execLabelFrameError (cause : LabelError) (s : State) : Host.Outcome State Fault Refusal :=
  match cause with
  | .lineError => .next s.labelRejected
  | .bodyTooLong => .next s.labelRejected
  | .badCheck => .next s.labelRejected
  | .unknownKind => .next s.labelRejected

/-- LABEL_GAP_TIMEOUT (R115). -/
def execLabelGapTimeout (s : State) : Host.Outcome State Fault Refusal := .next s.labelRejected

/-- The last byte of the JOB has been sent: its reply timer starts (R113). -/
def State.jobSent (s : State) : State :=
  s.setRolls (fun r => { r with job := r.job.map (fun j => { j with replyTimer := true }) })

/-- LABEL_JOB_SENT (R113). -/
def execLabelJobSent (s : State) : Host.Outcome State Fault Refusal := .next s.jobSent

/-- LABEL_REPLY_TIMEOUT (R117). -/
def execLabelReplyTimeout (s : State) : Host.Outcome State Fault Refusal := .next s.labelReplyExpired

/-- LABEL_WAIT_TIMEOUT (R114). -/
def execLabelWaitTimeout (s : State) : Host.Outcome State Fault Refusal := .next s.labelWaitExpired

end Sys2Proof.Machine
end

