-- ==== Sys2Proof/Machine/LinkEvents.lean ====
section
/-! DEFINITION. The steps of the station link and of the emboss drive timer (R57, R139, R142, R145, R146). -/

namespace Sys2Proof.Machine

/-- The 1 ms tick: a frame still out has not come back, and the next one leaves (R139, R145). -/
def State.linkTick (s : State) : State := (s.frameFailed false).sendFrame

/-- LINK_CYCLE (R139). -/
def execLinkCycle (s : State) : Host.Outcome State Fault Refusal := .next s.linkTick

/-- FRAME_RETURN (R142, R146). -/
def execFrameReturn (hop : Byte) (slots : List Slot) (s : State) : Host.Outcome State Fault Refusal :=
  .next (s.frameReturned hop.toNat slots)

/-- FRAME_RETURN_BAD (R145). -/
def execFrameReturnBad (s : State) : Host.Outcome State Fault Refusal := .next (s.frameFailed true)

/-- DRIVE_TIMER_EXPIRY (R56, R57). -/
def execDriveTimerExpiry (s : State) : Host.Outcome State Fault Refusal := .next s.driveTimeout

end Sys2Proof.Machine
end

