-- ==== Sys2Proof/Machine/Power.lean ====
section
/-! DEFINITION. POWER_ON and RESET_PIN (R182). The outside's queue of waiting commands is not part of the device and
stays; so does the place in the sequence of free values (log 5). -/

namespace Sys2Proof.Machine

/-- The device as power-on leaves it, in STARTING with enumeration begun (R182). -/
def State.restart (s : State) : State := { State.reset with pending := s.pending, freeIdx := s.freeIdx }

/-- POWER_ON (R182). -/
def execPowerOn (s : State) : Host.Outcome State Fault Refusal := .next s.restart

/-- RESET_PIN (R182): every work is abandoned and the power-on sequence runs again. -/
def execResetPin (s : State) : Host.Outcome State Fault Refusal := .next s.restart

end Sys2Proof.Machine
end

