-- ==== Sys2Proof/Machine/WebEvents.lean ====
section
/-! DEFINITION. The position events of the web track, the register unit, the emboss unit and the shade unit (R2, R10, R12,
R13, R16, R28, R29, R34, R53, R61, R67, R79). An event command acts when its event is armed and its condition holds; it
changes nothing otherwise (log 1). -/

namespace Sys2Proof.Machine

/-- The mark block's end is passed (R28). -/
def State.blockEvent (s : State) : State :=
  match s.reg.block with
  | some b => if b.closeAfter < s.posH then s.closeBlock else s
  | none => s

/-- BLOCK_CLOSE (R28). -/
def execBlockClose (s : State) : Host.Outcome State Fault Refusal := .next s.blockEvent

/-- The acceptance window's end is passed (R29). -/
def State.windowEvent (s : State) : State :=
  match s.refWindowEnd with
  | some e => if e < s.posH then s.expireReference else s
  | none => s

/-- REFERENCE_WINDOW_EXPIRY (R29). -/
def execReferenceWindowExpiry (s : State) : Host.Outcome State Fault Refusal := .next s.windowEvent

/-- A unit's match window ends unmatched (R16). -/
def State.embossWindowEvent (s : State) (c : Int) : State :=
  match s.unit? c with
  | some u => if u.unmatched && decide (u.winEnd s.emb.delta < s.posH) then s.expireThrough c else s
  | none => s

/-- EMBOSS_WINDOW_EXPIRY (R16). -/
def execEmbossWindowExpiry (unit : Int) (s : State) : Host.Outcome State Fault Refusal := .next (s.embossWindowEvent unit)

/-- The oldest unit has passed the cutter (R10). -/
def State.leaveEvent (s : State) : State :=
  match s.leavingUnit with
  | some u => (s.unitLeaves u).settlePlan
  | none => s

/-- UNIT_LEAVES_TRACK (R10). -/
def execUnitLeavesTrack (s : State) : Host.Outcome State Fault Refusal := .next s.leaveEvent

/-- A splice entry's leaving event (R12, R13). -/
def State.spliceLeaveEvent (s : State) (p : Int) : State :=
  match s.track.splices.find? (fun e => decide (e.p = p)) with
  | some e => if s.spliceDue e then s.dropSplice p else s
  | none => s

/-- SPLICE_ENTRY_LEAVES (R12, R13). -/
def execSpliceEntryLeaves (entry : Int) (s : State) : Host.Outcome State Fault Refusal := .next (s.spliceLeaveEvent entry)

/-- The intervals of an entry whose start the mark has reached have begun. -/
def beginZones (p mark : Int) (zs : List Zone) : List Zone :=
  zs.map (fun z => if z.p = p ∧ z.start ≤ mark then { z with begun := true } else z)

/-- The intervals of an entry whose end the mark has passed are gone. -/
def endZones (p mark : Int) (zs : List Zone) : List Zone :=
  zs.filter (fun z => !(decide (z.p = p) && decide (z.stop < mark)))

/-- H reaches the start of an entry's register zone (R34). -/
def State.zoneStart (s : State) (p : Int) : State :=
  State.loopsSettle { s with reg := { s.reg with zones := beginZones p s.posH s.reg.zones } }

/-- SPLICE_ZONE_START (R34). -/
def execSpliceZoneStart (entry : Int) (s : State) : Host.Outcome State Fault Refusal := .next (s.zoneStart entry)

/-- H passes the end of an entry's register zone (R34). -/
def State.zoneEnd (s : State) (p : Int) : State :=
  State.loopsSettle { s with reg := { s.reg with zones := endZones p s.posH s.reg.zones } }

/-- SPLICE_ZONE_END (R34). -/
def execSpliceZoneEnd (entry : Int) (s : State) : Host.Outcome State Fault Refusal := .next (s.zoneEnd entry)

/-- H_F reaches the start of an entry's guard interval (R53). -/
def State.guardStart (s : State) (p : Int) : State :=
  State.embossSettle { s with emb := { s.emb with guards := beginZones p s.posHF s.emb.guards } }

/-- SPLICE_GUARD_START (R53). -/
def execSpliceGuardStart (entry : Int) (s : State) : Host.Outcome State Fault Refusal := .next (s.guardStart entry)

/-- H_F passes the end of an entry's guard interval (R53). -/
def State.guardEnd (s : State) (p : Int) : State :=
  State.embossSettle { s with emb := { s.emb with guards := endZones p s.posHF s.emb.guards } }

/-- SPLICE_GUARD_END (R53). -/
def execSpliceGuardEnd (entry : Int) (s : State) : Host.Outcome State Fault Refusal := .next (s.guardEnd entry)

/-- Whether an armed H_F threshold has been reached. -/
def State.reached (s : State) (t : Option Int) : Bool := t.any (fun x => decide (x ≤ s.posHF))

/-- A unit's mid-point reaches the nip (R61). -/
def State.nipEvent (s : State) (c : Int) : State :=
  match s.unit? c with
  | some u => if s.reached u.nipAt then s.checkNip c else s
  | none => s

/-- NIP_CHECK (R61). -/
def execNipCheck (unit : Int) (s : State) : Host.Outcome State Fault Refusal := .next (s.nipEvent unit)

/-- A unit's mid-point reaches the shade head (R67). -/
def State.shadeEvent (s : State) (c : Int) : State :=
  match s.unit? c with
  | some u => if s.reached u.shadeAt then (s.shadeRequest u).settlePlan else s
  | none => s

/-- SHADE_EVENT (R67). -/
def execShadeEvent (unit : Int) (s : State) : Host.Outcome State Fault Refusal := .next (s.shadeEvent unit)

/-- A unit reaches its horizon (R79). -/
def State.horizonEvent (s : State) (c : Int) : State :=
  match s.unit? c with
  | some u => if s.reached u.horizonAt then (s.horizonReached u).settlePlan else s
  | none => s

/-- SHADE_HORIZON (R79). -/
def execShadeHorizon (unit : Int) (s : State) : Host.Outcome State Fault Refusal := .next (s.horizonEvent unit)

end Sys2Proof.Machine
end

