-- ==== Sys2Proof/Machine/Dispatch.lean ====
section
/-! DEFINITION. One arm per command, each a direct call of its meaning. -/

namespace Sys2Proof.Machine

def exec (i : Instr) (s : State) : Host.Outcome State Fault Refusal :=
  match i with
  | .powerOn => Sys2Proof.Machine.execPowerOn s
  | .resetPin => Sys2Proof.Machine.execResetPin s
  | .encoderTransition enc sense => Sys2Proof.Machine.execEncoderTransition enc sense s
  | .speedMeasurement => Sys2Proof.Machine.execSpeedMeasurement s
  | .markEdge => Sys2Proof.Machine.execMarkEdge s
  | .spliceEdge => Sys2Proof.Machine.execSpliceEdge s
  | .emarkEdge => Sys2Proof.Machine.execEmarkEdge s
  | .eindexEdge => Sys2Proof.Machine.execEindexEdge s
  | .blockClose => Sys2Proof.Machine.execBlockClose s
  | .referenceWindowExpiry => Sys2Proof.Machine.execReferenceWindowExpiry s
  | .embossWindowExpiry unit => Sys2Proof.Machine.execEmbossWindowExpiry unit s
  | .unitLeavesTrack => Sys2Proof.Machine.execUnitLeavesTrack s
  | .spliceEntryLeaves entry => Sys2Proof.Machine.execSpliceEntryLeaves entry s
  | .spliceZoneStart entry => Sys2Proof.Machine.execSpliceZoneStart entry s
  | .spliceZoneEnd entry => Sys2Proof.Machine.execSpliceZoneEnd entry s
  | .spliceGuardStart entry => Sys2Proof.Machine.execSpliceGuardStart entry s
  | .spliceGuardEnd entry => Sys2Proof.Machine.execSpliceGuardEnd entry s
  | .nipCheck unit => Sys2Proof.Machine.execNipCheck unit s
  | .shadeEvent unit => Sys2Proof.Machine.execShadeEvent unit s
  | .shadeHorizon unit => Sys2Proof.Machine.execShadeHorizon unit s
  | .leadPoint => Sys2Proof.Machine.execLeadPoint s
  | .leadPointPassed => Sys2Proof.Machine.execLeadPointPassed s
  | .cutMissedThreshold => Sys2Proof.Machine.execCutMissedThreshold s
  | .rollHandover => Sys2Proof.Machine.execRollHandover s
  | .linkCycle => Sys2Proof.Machine.execLinkCycle s
  | .frameReturn hop slots => Sys2Proof.Machine.execFrameReturn hop slots s
  | .frameReturnBad => Sys2Proof.Machine.execFrameReturnBad s
  | .driveTimerExpiry => Sys2Proof.Machine.execDriveTimerExpiry s
  | .labelStatus body => Sys2Proof.Machine.execLabelStatus body s
  | .labelAck body => Sys2Proof.Machine.execLabelAck body s
  | .labelNak body => Sys2Proof.Machine.execLabelNak body s
  | .labelFrameError cause => Sys2Proof.Machine.execLabelFrameError cause s
  | .labelGapTimeout => Sys2Proof.Machine.execLabelGapTimeout s
  | .labelJobSent => Sys2Proof.Machine.execLabelJobSent s
  | .labelReplyTimeout => Sys2Proof.Machine.execLabelReplyTimeout s
  | .labelWaitTimeout => Sys2Proof.Machine.execLabelWaitTimeout s
  | .exchangeWrite addr value => Sys2Proof.Machine.execExchangeWrite addr value s
  | .noticeWrite value => Sys2Proof.Machine.execNoticeWrite value s
  | .routeWrite value => Sys2Proof.Machine.execRouteWrite value s
  | .registerWrite register value => Sys2Proof.Machine.execRegisterWrite register value s
  | .attention => Sys2Proof.Machine.execAttention s
  | .freeze => Sys2Proof.Machine.execFreeze s
  | .thaw => Sys2Proof.Machine.execThaw s
  | .resume => Sys2Proof.Machine.execResume s
  | .enterConfig => Sys2Proof.Machine.execEnterConfig s
  | .leaveConfig => Sys2Proof.Machine.execLeaveConfig s
  | .lineReset => Sys2Proof.Machine.execLineReset s
  | .sweepTimer => Sys2Proof.Machine.execSweepTimer s
  | .sweepEnd => Sys2Proof.Machine.execSweepEnd s
  | .refreshTick => Sys2Proof.Machine.execRefreshTick s
  | .refreshEnd => Sys2Proof.Machine.execRefreshEnd s
  | .lineStopToggle => Sys2Proof.Machine.execLineStopToggle s

end Sys2Proof.Machine
end

