-- ==== Sys2Proof/Safety.lean ====
section
/-! DEFINITION. What every step keeps: the laws of the device that the spec states over the whole machine (R7, R161, R167,
R168, R169), as properties of one state. -/

namespace Sys2Proof.Machine

/-- Exchange memory is in its canonical form: rising addresses below 8192, and no listed byte 0. -/
def State.memoryOk (s : State) : Prop := Memory.wf s.mem = true

/-- The STOP pair (R161): one line high and the other low in NORMAL and ALERT, both low in CONFIG and STOPPED. -/
def State.stopPairOk (s : State) : Prop :=
  match s.fault.st with
  | .config => s.fault.stopA = false ∧ s.fault.stopB = false
  | .stopped => s.fault.stopA = false ∧ s.fault.stopB = false
  | .normal => s.fault.stopB = !s.fault.stopA
  | .alert => s.fault.stopB = !s.fault.stopA

/-- The header shows the part phase and the exchange counter as they stand (R168, R169). -/
def State.headerOk (s : State) : Prop :=
  s.readByte 0x04 = byte s.port.phase.code ∧ s.readByte 0x0A = byte s.port.counter ∧ s.port.counter ≤ 255

/-- The law of R7, with what it rests on: at most 256 records in strictly increasing PE coordinate, none beyond the
previous-record coordinate; a positive PE pitch; and order copies with repeats that are not negative. -/
structure State.TrackOk (s : State) : Prop where
  room : s.track.units.length ≤ 256
  rising : (s.track.units.map UnitRec.c).Pairwise (fun a b => a < b)
  previous : ∀ u ∈ s.track.units, ∃ p, s.track.prevC = some p ∧ u.c ≤ p
  pitch : 0 < s.peP
  repeats : ∀ o ∈ s.ord.orders, ∀ b, o.body = some b → 0 ≤ b.nominal

/-- A run is safe as long as every state of it has all four. -/
def State.safe (s : State) : Prop := s.memoryOk ∧ s.stopPairOk ∧ s.headerOk ∧ s.TrackOk

/-- What only some few commands may change is as it was: the positions and the speed, the settings, the printer report, part
phase, ROUTE, freeze state and sweeps of the exchange port, and every byte the host owns (10.1). Notices may be latched, none
cleared. -/
structure State.leavesInputs (s t : State) : Prop where
  coord : t.coord = s.coord
  settings : t.settings = s.settings
  printer : t.rolls.printer = s.rolls.printer
  port : t.port = { s.port with notice := t.port.notice, counter := t.port.counter }
  notice : ∀ i, s.port.notice.getLsbD i = true → t.port.notice.getLsbD i = true
  host : ∀ a, hostOwned a = true → t.readByte a = s.readByte a

/-- From `s` to `t` nothing has changed but what a raise or a clear of a fault reaches (chapter 9): the fault unit, its list
and the header counts in exchange memory, notices and exchange counter, the station loops, the emboss loop, and commands
handed to the link. -/
structure State.faultReach (s t : State) : Prop where
  pending : t.pending = s.pending
  inputs : s.leavesInputs t
  track : t.track = s.track
  register : t.reg = { s.reg with loops := t.reg.loops }
  draw : t.draw = s.draw
  shade : t.shade = s.shade
  cut : t.cut = s.cut
  winder : t.winder = s.winder
  rolls : t.rolls = s.rolls
  orders : t.ord = s.ord
  freeIdx : t.freeIdx = s.freeIdx
  link : t.link = { s.link with nodes := t.link.nodes }
  nodes : t.link.nodes.map (fun n => { n with waiting := [] }) = s.link.nodes.map (fun n => { n with waiting := [] })
  bytes : ∀ a, a < 0x0A ∨ (0x40 ≤ a ∧ a < 0x1500) → t.readByte a = s.readByte a

end Sys2Proof.Machine
end

