-- ==== Sys2Proof/Certificates/Slice0/Obligations.lean ====
section
/-! DEFINITION. The statements about the model, for the provers. Each is written over the command interface: `exec c s` is
the effect of command `c` on state `s`. What a command leaves alone is said with an explicit record update, with
`State.leavesInputs` (what no ordinary command may change) or with `State.faultReach` (what a raise or clear of a fault
reaches). -/

open Sys2Proof Sys2Proof.Machine

/-! ## The queue and all commands -/

/-- A step carries out the command at the front of the queue, on the state with the rest of the queue; on an empty queue the
device idles. That an empty queue idles is the model's choice (log 2). -/
def Obligations.StepRunsFrontCommand : Prop :=
  ∀ (c : Instr) (rest : List Instr) (s : State),
    step (s.withPending (c :: rest)) = exec c (s.withPending rest) ∧ step (s.withPending []) = .next (s.withPending [])

/-- Every command completes from every state with every operand, and leaves the queue of waiting commands alone. -/
def Obligations.EveryCommandCompletes : Prop :=
  ∀ (c : Instr) (s : State), ∃ t, exec c s = .next t ∧ t.pending = s.pending

/-! ## Coordinates (chapter 1) -/

/-- A forward PE count below 2^48 - 1 (R1, R2, R4): W + 1, H the greatest W, REVERSE_LIMIT gone when W is at H; nothing else
when W stays below H. -/
def Obligations.PeForwardCounts : Prop :=
  ∀ s : State, s.posW < 2 ^ 48 - 1 →
    ∃ t, exec (.encoderTransition .pe .forward) s = .next t
      ∧ t.posW = s.posW + 1 ∧ t.posH = max s.posH (s.posW + 1)
      ∧ t.posWF = s.posWF ∧ t.posHF = s.posHF ∧ t.coord.speed = s.coord.speed ∧ t.coord.speedBase = s.coord.speedBase
      ∧ (t.posW < t.posH → t = { s with coord := t.coord })
      ∧ (t.posW = t.posH → t.faultActive reverseLimitFault 0 = false)
      ∧ State.faultReach { s with coord := t.coord } t

/-- A reverse PE count (R1, R2, R4): not counted at 0; W - 1 with H held; REVERSE_LIMIT raised when the reverse travel comes
to exceed the limit, and nothing else below it or when it is already active. -/
def Obligations.PeReverseCounts : Prop :=
  ∀ s : State,
    (s.posW = 0 → exec (.encoderTransition .pe .reverse) s = .next s)
    ∧ (0 < s.posW → ∃ t, exec (.encoderTransition .pe .reverse) s = .next t
      ∧ t.posW = s.posW - 1 ∧ t.coord = { s.coord with w := t.coord.w }
      ∧ (t.posH - t.posW ≤ roundHalfAway (s.setting 53 * 100000) s.peP ∨ s.faultActive reverseLimitFault 0 = true →
          t = { s with coord := t.coord })
      ∧ (roundHalfAway (s.setting 53 * 100000) s.peP < t.posH - t.posW → t.faultActive reverseLimitFault 0 = true)
      ∧ State.faultReach { s with coord := t.coord } t)

/-- The finish encoder (R1, R2) counts alone: W_F and H_F move, nothing else does, at 0 a reverse count is not counted; and a
transition of both channels is counted on neither encoder. -/
def Obligations.FeCountsAndLostDirection : Prop :=
  ∀ s : State,
    (s.posWF < 2 ^ 48 - 1 → ∃ t, exec (.encoderTransition .fe .forward) s = .next t
      ∧ t = { s with coord := { s.coord with wF := t.coord.wF, hF := t.coord.hF } }
      ∧ t.posWF = s.posWF + 1 ∧ t.posHF = max s.posHF (s.posWF + 1))
    ∧ (∃ t, exec (.encoderTransition .fe .reverse) s = .next t
      ∧ t = { s with coord := { s.coord with wF := t.coord.wF } } ∧ t.posWF = max 0 (s.posWF - 1))
    ∧ exec (.encoderTransition .pe .both) s = .next s ∧ exec (.encoderTransition .fe .both) s = .next s

/-- The speed measurement (R5), with the low-speed hold cause that reads it (R33): below the minimum every running station
loop goes to HOLD, at or above it a loop in HOLD with no other cause goes to ACQUIRE, and nothing else changes. -/
def Obligations.SpeedMeasured : Prop :=
  ∀ s : State, ∃ t, exec .speedMeasurement s = .next t
    ∧ t = { s with
        coord := { s.coord with speed := t.coord.speed, speedBase := s.coord.w },
        reg := { s.reg with lowSpeed := t.reg.lowSpeed, loops := t.reg.loops } }
    ∧ t.coord.speed = roundHalfAway ((s.posW - (s.coord.speedBase.toNat : Int)) * s.peP) 10000
    ∧ (t.reg.lowSpeed = true ↔ t.coord.speed < s.setting 47)
    ∧ ∀ st, 1 ≤ st → st ≤ 8 →
        (t.coord.speed < s.setting 47 → (s.loop st).st ≠ .off → (t.loop st).st = .hold)
        ∧ (s.setting 47 ≤ t.coord.speed → s.spliceHold = false → s.faultActive referenceLost 0 = false →
            s.fault.st ≠ .stopped → s.nodePresent (.station st) = true →
            (s.loop st).st = .hold → (t.loop st).st = .acquire ∧ (t.loop st).valid = 0 ∧ (t.loop st).miss = 0)
        ∧ ((s.loop st).st = .off → t.loop st = s.loop st)

/-- What is not due changes nothing. An edge below its high-water mark is discarded on each of the four sensors (R3). That an event
command whose event is not armed, or whose threshold is not met, changes nothing is the model's choice (log 1), and so is that a match
window has not ended while H is at its end itself (log 11). -/
def Obligations.NotDueChangesNothing : Prop :=
  ∀ s : State,
    (s.coord.w ≠ s.coord.h → exec .markEdge s = .next s ∧ exec .spliceEdge s = .next s)
    ∧ (s.coord.wF ≠ s.coord.hF → exec .emarkEdge s = .next s ∧ exec .eindexEdge s = .next s)
    ∧ ((∀ b, s.reg.block = some b → s.posH ≤ b.closeAfter) → exec .blockClose s = .next s)
    ∧ ((∀ c, s.reg.cPrev = some c → s.posH ≤ c + floorDiv (9 * s.reg.lExp) 8) → exec .referenceWindowExpiry s = .next s)
    ∧ (∀ c, (∀ u, s.unit? c = some u → u.g.isSome = true ∨ s.posH ≤ u.c + u.winX + s.emb.delta + u.winHalf) →
        exec (.embossWindowExpiry c) s = .next s)
    ∧ ((∀ u rest, s.track.units = u :: rest → ∀ x, u.leaveAt = some x → s.posHF < x) → exec .unitLeavesTrack s = .next s)
    ∧ (∀ c, (∀ u x, s.unit? c = some u → u.nipAt = some x → s.posHF < x) → exec (.nipCheck c) s = .next s)
    ∧ (∀ c, (∀ u x, s.unit? c = some u → u.shadeAt = some x → s.posHF < x) → exec (.shadeEvent c) s = .next s)
    ∧ (∀ c, (∀ u x, s.unit? c = some u → u.horizonAt = some x → s.posHF < x) → exec (.shadeHorizon c) s = .next s)
    ∧ ((∀ l, s.winder.lead = some l → l.fired = true ∨ s.posHF < l.threshold) → exec .leadPoint s = .next s)
    ∧ ((s.winder.st ≠ .stalled ∨ ∀ l, s.winder.lead = some l → l.fired = false ∨ s.posHF ≤ l.threshold) →
        exec .leadPointPassed s = .next s)
    ∧ (s.winder.out = none → exec .cutMissedThreshold s = .next s)

/-! ## Register (chapter 2) -/

/-- An accepted reference (R6, R12, R25, R26, R27): with no block open, after a quiet gap, inside the acceptance window or with
no expectation, an order taking units, room in the track and the coordinate order met, the track takes one new real unit; the
record before it takes its L_rh and the splices it holds; the block opens, the expectation moves on and REFERENCE_LOST ends. A unit
whose own creation ends REFERENCE_LOST has DEFECT under the reaction in force before that: either report may be taken (R27), and
this is the model's choice (log 45). -/
def Obligations.ReferenceAccepted : Prop :=
  ∀ (s : State) (g : Geometry) (n : Nat),
    s.coord.w = s.coord.h → s.reg.geom = some g → s.reg.block = none →
    (∀ e, s.reg.lastEdge = some e → g.quiet < s.posW - e) →
    (∀ c, s.reg.cPrev = some c →
      c + floorDiv (7 * s.reg.lExp) 8 ≤ s.posW ∧ s.posW ≤ c + floorDiv (9 * s.reg.lExp) 8) →
    s.ord.active = some n → n < s.ord.orders.length → s.track.units.length < 256 →
    (∀ p, s.track.prevC = some p →
      floorDiv (roundHalfAway ((s.body n).nominal * 100000) s.peP) 2 < s.posW - p) →
    ∃ t u, exec .markEdge s = .next t
      ∧ t.track.units = s.track.units.map (fun v =>
          if s.track.prevC = some v.c then
            { v with
              lRh := some (s.posW - v.c),
              flags := { v.flags with splice := v.flags.splice || s.track.splices.any (fun e =>
                decide (e.owner = .unsettled) && decide (e.p < s.posW) && decide (v.c ≤ e.p)) } }
          else v) ++ [u]
      ∧ u.c = s.posW ∧ u.order = n ∧ u.number = (s.order n).nextUnit
      ∧ u.lRh = none ∧ u.g = none ∧ u.lFin = none ∧ u.phi = none ∧ u.reading = none ∧ u.verdict = .waiting ∧ u.batch = 0
      ∧ u.spurious = 0 ∧ u.errors = List.replicate ((s.body n).stations - 1).toNat none
      ∧ u.flags = { UnitFlags.none with
          defect := decide (1 ≤ s.reaction.code), changeover := decide ((s.order n).changeover = .stopped) }
      ∧ t.track = { s.track with
          units := t.track.units, prevC := some s.posW, lastNumber := u.number,
          splices := s.track.splices.map (settleSplice s.prevUnit? s.posW s.xES) }
      ∧ t.reg = { s.reg with
          lastEdge := some s.posW, cPrev := some s.posW, synthCount := 0, lExp := t.reg.lExp, loops := t.reg.loops,
          block := some { r := s.posW, half := g.half, offsets := g.offsets, marks := [],
                          closeAfter := s.posW + g.offsets.getLastD 0 + g.half } }
      ∧ t.reg.lExp = (match s.prevUnit? with
          | some v => if v.flags.synthetic then s.reg.lExp else s.posW - v.c
          | none => s.reg.lExp)
      ∧ (t.order n).nextUnit = (if (s.order n).nextUnit < 65535 then (s.order n).nextUnit + 1 else 1)
      ∧ t.ord.active = s.ord.active ∧ (∀ m, m ≠ n → t.order m = s.order m)
      ∧ t.faultActive referenceLost 0 = false
      ∧ State.faultReach { s with track := t.track, reg := t.reg, ord := t.ord } t

/-- Marks that start no unit (R6, R7, R23, R24, R25, R28): without geometry, in no station window of the open block, without a
quiet gap, early, with no order taking units, or too close to the record before, a mark moves the last edge stamp alone; a
block mark in a station's window goes to the lowest-numbered one besides; and a reference at a track of 256 records raises
TRACK_FULL, makes no unit, and otherwise moves the last edge stamp alone. -/
def Obligations.MarksThatStartNoUnit : Prop :=
  ∀ s : State, s.coord.w = s.coord.h →
    (s.reg.geom = none → exec .markEdge s = .next { s with reg := { s.reg with lastEdge := some s.posW } })
    ∧ (∀ g b, s.reg.geom = some g → s.reg.block = some b → s.posW ≤ b.closeAfter →
        (∀ o ∈ b.offsets, b.half < (s.posW - b.r - o).natAbs) →
        exec .markEdge s = .next { s with reg := { s.reg with lastEdge := some s.posW } })
    ∧ (∀ g b i, s.reg.geom = some g → s.reg.block = some b → s.posW ≤ b.closeAfter →
        i < b.offsets.length → ((s.posW - b.r - b.offsets.getD i 0).natAbs : Int) ≤ b.half →
        (∀ j, j < i → b.half < ((s.posW - b.r - b.offsets.getD j 0).natAbs : Int)) →
        exec .markEdge s = .next { s with reg := { s.reg with
          lastEdge := some s.posW, block := some { b with marks := b.marks ++ [(i + 2, s.posW)] } } })
    ∧ (∀ g e, s.reg.geom = some g → s.reg.block = none → s.reg.lastEdge = some e → s.posW - e ≤ g.quiet →
        exec .markEdge s = .next { s with reg := { s.reg with lastEdge := some s.posW } })
    ∧ (∀ g c, s.reg.geom = some g → s.reg.block = none → s.reg.cPrev = some c →
        s.posW < c + floorDiv (7 * s.reg.lExp) 8 → s.posW ≤ c + floorDiv (9 * s.reg.lExp) 8 →
        exec .markEdge s = .next { s with reg := { s.reg with lastEdge := some s.posW } })
    ∧ (∀ g, s.reg.geom = some g → s.reg.block = none → s.reg.cPrev = none → s.ord.active = none →
        exec .markEdge s = .next { s with reg := { s.reg with lastEdge := some s.posW } })
    ∧ (∀ g n p, s.reg.geom = some g → s.reg.block = none → s.reg.cPrev = none → s.ord.active = some n →
        s.track.units.length < 256 → s.track.prevC = some p →
        s.posW - p ≤ floorDiv (roundHalfAway ((s.body n).nominal * 100000) s.peP) 2 →
        exec .markEdge s = .next { s with reg := { s.reg with lastEdge := some s.posW } })
    ∧ (∀ g n, s.reg.geom = some g → s.reg.block = none → (∀ e, s.reg.lastEdge = some e → g.quiet < s.posW - e) →
        (∀ c, s.reg.cPrev = some c →
          c + floorDiv (7 * s.reg.lExp) 8 ≤ s.posW ∧ s.posW ≤ c + floorDiv (9 * s.reg.lExp) 8) →
        s.ord.active = some n → 256 ≤ s.track.units.length →
        let full := s.raise trackFull 0
        exec .markEdge s = .next { full with reg := { full.reg with lastEdge := some s.posW } }
        ∧ full.faultActive trackFull 0 = true ∧ full.track = s.track)

/-- A block closes once H has passed its end (R28, R42): every station with exactly one stamp in its window has that stamp's
offset less its nominal offset as its error, every other station none; REGISTER is set by an error beyond the tolerance of a
station whose loop is not OFF; no other record changes. -/
def Obligations.BlockCloses : Prop :=
  ∀ (s : State) (b : Block), s.reg.block = some b → b.closeAfter < s.posH →
    ∃ t, exec .blockClose s = .next t
      ∧ t.reg = { s.reg with block := none, loops := t.reg.loops }
      ∧ t.track = { s.track with units := t.track.units }
      ∧ t.track.units.length = s.track.units.length
      ∧ (∀ (i : Nat) (u : UnitRec), s.track.units[i]? = some u → ∃ v : UnitRec, t.track.units[i]? = some v
          ∧ (u.c ≠ b.r → v = u)
          ∧ (u.c = b.r →
              v = { u with errors := v.errors, flags := { u.flags with register := v.flags.register } }
              ∧ v.errors.length = b.offsets.length
              ∧ (∀ j, j < b.offsets.length → v.errors[j]? = some
                  (match b.marks.filter (fun m => decide (m.1 = j + 2)) with
                   | [m] => some (m.2 - b.r - b.offsets.getD j 0)
                   | _ => none))
              ∧ (v.flags.register = true ↔ u.flags.register = true ∨
                  ∃ j e, v.errors[j]? = some (some e) ∧ (s.loop (j + 2)).st ≠ .off
                    ∧ max 1 (roundHalfAway (s.setting 46 * 1000) s.peP) < (e.natAbs : Int))))
      ∧ State.faultReach { s with track := t.track, reg := t.reg } t

/-- A valid mark of a station in TRACKING (R37, R38, R39): E_s is loaded or moved by the filter; within the deadband, or when
the correction rounds to 0, nothing more happens; otherwise the loop settles for d_s + 1 units and the clamped correction is
handed to the station's print drive. The mark of a unit that ended SETTLING together with a lost trim is measured and moves no filter
(R39, R40), as log 62 reads it. -/
def Obligations.TrackingFiltersAndCorrects : Prop :=
  ∀ (s : State) (st : Nat) (e : Int), 1 ≤ st → (s.loop st).st = .tracking →
    let e16 := if (s.loop st).reload then 16 * e
      else (s.loop st).e16 + floorDiv (16 * e - (s.loop st).e16) (2 ^ (s.setting 31).toNat)
    let db := max 1 (roundHalfAway (s.setting 32 * 1000) s.peP)
    let c := clamp (-roundHalfAway (e16 * s.peP * s.setting 33) 1024000) (s.setting 34)
    let d := match s.activeBody with
      | some b => (ceilDiv (s.setting (5 + st)) b.nominal).toNat
      | none => 0
    let filtered := s.setLoop st (fun l => { l with miss := 0, lastE := some e, e16 := e16, reload := false })
    let settling := filtered.setLoop st (fun l => { l with st := .settling, settle := d + 1 })
    let t := s.stationValid st e
    (((e16.natAbs : Int) ≤ 16 * db ∨ c = 0) → t = filtered)
    ∧ (16 * db < (e16.natAbs : Int) → c ≠ 0 → (settling.hand (.station st) (.phaseTrim c)).2 = false →
        t = (settling.hand (.station st) (.phaseTrim c)).1 ∧ (t.loop st).st = .settling ∧ (t.loop st).e16 = e16
        ∧ (t.loop st).settle = d + 1)
    ∧ (16 * db < (e16.natAbs : Int) → c ≠ 0 → (settling.hand (.station st) (.phaseTrim c)).2 = true →
        (t.loop st).st = .tracking ∧ (t.loop st).reload = true)
    ∧ (0 ≤ s.setting 34 → (c.natAbs : Int) ≤ s.setting 34)
    ∧ (∀ unit, (s.loop st).spent ≠ some unit →
        s.stationResult st unit (some e) = t.stationTolerance st unit e true)
    ∧ (∀ unit, (s.loop st).spent = some unit → s.stationResult st unit (some e) =
        (s.setLoop st (fun l => { l with miss := 0, lastE := some e, spent := none })).stationTolerance st unit e true)

/-- A window that H has passed expires (R29, R30): the expectation moves on by L_exp, the synthetic count rises, the track is
asked for a synthetic unit at the new coordinate and takes it when an order takes units, there is room and the coordinate order
is met; a track of 256 records takes none and TRACK_FULL is active (R7); and at the miss limit REFERENCE_LOST is active. -/
def Obligations.ReferenceWindowExpires : Prop :=
  ∀ (s : State) (c : Int), s.reg.cPrev = some c → c + floorDiv (9 * s.reg.lExp) 8 < s.posH →
    ∃ t, exec .referenceWindowExpiry s = .next t
      ∧ t.reg = { s.reg with
          cPrev := some (c + s.reg.lExp), synthCount := min 15 (s.reg.synthCount + 1), loops := t.reg.loops }
      ∧ (s.setting 44 ≤ (min 15 (s.reg.synthCount + 1) : Nat) → t.faultActive referenceLost 0 = true)
      ∧ (∀ n, s.ord.active = some n → s.track.units.length < 256 →
          (∀ p, s.track.prevC = some p →
            floorDiv (roundHalfAway ((s.body n).nominal * 100000) s.peP) 2 < c + s.reg.lExp - p) →
          ∃ u, t.track.units = s.track.units.map (fun v =>
                if s.track.prevC = some v.c then
                  { v with
                    lRh := some (c + s.reg.lExp - v.c),
                    flags := { v.flags with splice := v.flags.splice || s.track.splices.any (fun e =>
                      decide (e.owner = .unsettled) && decide (e.p < c + s.reg.lExp) && decide (v.c ≤ e.p)) } }
                else v) ++ [u]
            ∧ u.c = c + s.reg.lExp ∧ u.order = n ∧ u.number = (s.order n).nextUnit ∧ u.flags.synthetic = true
            ∧ u.g = none ∧ u.verdict = .waiting ∧ (∀ x ∈ u.errors, x = none))
      ∧ ((s.ord.active = none ∨ 256 ≤ s.track.units.length ∨
            ∃ n p, s.ord.active = some n ∧ s.track.prevC = some p ∧
              c + s.reg.lExp - p ≤ floorDiv (roundHalfAway ((s.body n).nominal * 100000) s.peP) 2) →
          t.track = s.track ∧ t.ord = s.ord)
      ∧ (s.ord.active.isSome = true → 256 ≤ s.track.units.length → t.faultActive trackFull 0 = true)
      ∧ State.faultReach { s with track := t.track, reg := t.reg, ord := t.ord } t

/-! ## The web downstream and embossing (chapters 1 and 3) -/

/-- A match window that has ended unmatched, with no earlier unit unmatched (R8, R16, R20): g comes from the chain, or from the
FE high-water mark for a first unit; the unit is ESTIMATED; the unit before gets its final, estimated length; the misses count up
and at 4 EMBOSS_MARK_LOST is active. No other unit's g changes. That a unit is unmatched while it has no g is the model's reading
(log 10), and that an activation by the same g zeroes the misses before this one counts is its choice (log 42). -/
def Obligations.EmbossWindowExpires : Prop :=
  ∀ (s : State) (before after : List UnitRec) (u : UnitRec),
    s.track.units = before ++ u :: after → (s.track.units.map UnitRec.c).Pairwise (fun a b => a < b) →
    (∀ v ∈ before, v.g.isSome = true) → u.g = none → u.c + u.winX + s.emb.delta + u.winHalf < s.posH →
    let estimate (p : UnitRec) : Int :=
      roundHalfAway (p.lRh.getD (roundHalfAway ((s.body p.order).nominal * 100000) s.peP) * s.peP * (1000000 + s.emb.sigma))
        (s.feP * 1000000)
    let g := match before.getLast? with
      | some p => p.g.getD 0 + estimate p
      | none => s.posHF - roundHalfAway (u.winHalf * s.peP) s.feP
    ∃ t, exec (.embossWindowExpiry u.c) s = .next t
      ∧ t.track.units.map (fun v => (v.c, v.g)) = (before ++ { u with g := some g } :: after).map (fun v => (v.c, v.g))
      ∧ (∃ v, t.unit? u.c = some v ∧ v.flags.estimated = true)
      ∧ (∀ p, before.getLast? = some p → ∃ v, t.unit? p.c = some v ∧ v.lFinal = true ∧ v.lMeasured = false
          ∧ v.lFin = some ((g + s.phaseF (s.body u.order)) - (p.g.getD 0 + s.phaseF (s.body p.order))))
      ∧ t.emb.missCount = (s.setG u.c g true).emb.missCount + 1
      ∧ (4 ≤ t.emb.missCount → t.faultActive embossMarkLost 0 = true)
      ∧ s.leavesInputs t

/-- An EMARK stamp inside the window of the earliest unmatched unit, with no expiry overdue (R8, R10, R15, R21): the drift moves a
quarter of the way to the sample, the misses count from 0, g is the stamp's FE count raised above the preceding g, a raise
marks ESTIMATED, and the preceding unit's length becomes final, measured when neither g was estimated and the cut phases agree.
What else follows is what setting that g brings about. That a unit is unmatched while it has no g, so that the window of an expired
unit takes no stamp, is the model's reading (log 10). -/
def Obligations.EmarkMatched : Prop :=
  ∀ (s : State) (before after : List UnitRec) (u : UnitRec),
    s.coord.wF = s.coord.hF →
    s.track.units = before ++ u :: after → (s.track.units.map UnitRec.c).Pairwise (fun a b => a < b) →
    (∀ v ∈ before, v.g.isSome = true) → u.g = none →
    ((s.posW - (u.c + u.winX + s.emb.delta)).natAbs : Int) ≤ u.winHalf →
    (∀ v ∈ after, v.g = none → s.posW ≤ v.c + v.winX + s.emb.delta + v.winHalf) →
    let preceding := before.getLast?.bind UnitRec.g
    let raised := preceding.any (fun p => decide (s.posWF ≤ p))
    let g := match preceding with
      | some p => max s.posWF (p + 1)
      | none => s.posWF
    let matched := State.clear { s with emb := { s.emb with
      delta := s.emb.delta + truncate (s.posW - (u.c + u.winX) - s.emb.delta) 4, missCount := 0 } } embossMarkLost 0
    ∃ t, exec .emarkEdge s = .next t
      ∧ t = (if raised then matched else matched.pendPhase u.c).setG u.c g raised
      ∧ t.track.units.map (fun v => (v.c, v.g)) = (before ++ { u with g := some g } :: after).map (fun v => (v.c, v.g))
      ∧ (∃ v, t.unit? u.c = some v ∧ v.flags.estimated = (u.flags.estimated || raised))
      ∧ (∀ p, before.getLast? = some p → ∃ v, t.unit? p.c = some v ∧ v.lFinal = true
          ∧ v.lFin = some ((g + s.phaseF (s.body u.order)) - (p.g.getD 0 + s.phaseF (s.body p.order)))
          ∧ v.leaveAt = some (g + s.phaseF (s.body u.order) + roundHalfAway (s.setting 16 * 100000) s.feP)
          ∧ (v.lMeasured = true ↔ p.flags.estimated = false ∧ u.flags.estimated = false ∧ raised = false
              ∧ s.phaseF (s.body p.order) = s.phaseF (s.body u.order)))
      ∧ s.leavesInputs t

/-- A spurious EMARK stamp (R17): no window has ended below it unmatched and none unmatched holds it, a unit being unmatched while it
has no g (the model's reading, log 10). It is charged to the earliest record whose window end is not below it, saturating at
255; on reaching 4 SPURIOUS_MARKS is raised, and otherwise nothing else happens; beyond every window end it is discarded. -/
def Obligations.EmarkSpurious : Prop :=
  ∀ s : State, s.coord.wF = s.coord.hF →
    (∀ v ∈ s.track.units, v.g = none →
      s.posW ≤ v.c + v.winX + s.emb.delta + v.winHalf ∧ v.winHalf < ((s.posW - (v.c + v.winX + s.emb.delta)).natAbs : Int)) →
    ((∀ v ∈ s.track.units, v.c + v.winX + s.emb.delta + v.winHalf < s.posW) → exec .emarkEdge s = .next s)
    ∧ (∀ before after u, s.track.units = before ++ u :: after →
        (s.track.units.map UnitRec.c).Pairwise (fun a b => a < b) →
        (∀ v ∈ before, v.c + v.winX + s.emb.delta + v.winHalf < s.posW) →
        s.posW ≤ u.c + u.winX + s.emb.delta + u.winHalf →
        ∃ t, exec .emarkEdge s = .next t
          ∧ t.track = { s.track with units := before ++ { u with spurious := min 255 (u.spurious + 1) } :: after }
          ∧ (u.spurious ≠ 3 → t = { s with track := t.track })
          ∧ (u.spurious = 3 → t = State.raise { s with track := t.track } spuriousMarks 0)
          ∧ State.faultReach { s with track := t.track } t)

/-- The reduction of a phase takes off a multiple of the circumference C so that -C < 2 × φ ≤ C (R48). An index stamp (R47): it
becomes I, and the units with g below it leave the phase-pending list, the others staying on it in their order. Without an
earlier stamp, or in OFF, LIFTED and LIFTING, nothing else happens. Otherwise a single such unit gets its reduced phase against
the earlier stamp written; of several the first one does, and each of the others too as long as the phases before it leave the
loop in SYNCING, ENGAGING or ENGAGED; no other unit changes. -/
def Obligations.IndexStampTaken : Prop :=
  (∀ v c : Int, 0 < c → -c < 2 * reducePhase v c ∧ 2 * reducePhase v c ≤ c ∧ ∃ k : Int, v = reducePhase v c + k * c)
  ∧ ∀ s : State, s.coord.wF = s.coord.hF →
    let kept := s.emb.phasePending.filter (fun c => !((s.unit? c).any (fun u => u.g.any (fun g => decide (g < s.posWF)))))
    let taken := s.emb.phasePending.filter (fun c => (s.unit? c).any (fun u => u.g.any (fun g => decide (g < s.posWF))))
    let measuring (x : State) : Prop := x.emb.st = .syncing ∨ x.emb.st = .engaging ∨ x.emb.st = .engaged
    let phase (g i : Int) : Int :=
      reducePhase (g - i - roundHalfAway (s.setting 18 * 100000) s.feP) (roundHalfAway (s.setting 17 * 100000) s.feP)
    ((s.emb.lastIndex = none ∨ ¬ measuring s ∨ taken = []) →
        exec .eindexEdge s = .next { s with emb := { s.emb with phasePending := kept, lastIndex := some s.posWF } })
    ∧ (∀ i c u g, s.emb.lastIndex = some i → measuring s → taken = [c] → s.unit? c = some u → u.g = some g →
        ∃ t, exec .eindexEdge s = .next t ∧ t.emb.lastIndex = some s.posWF ∧ t.emb.phasePending = kept
          ∧ t.emb.lastPhi = some (phase g i)
          ∧ t.track = { s.track with units := s.track.units.map (fun v =>
              if v.c = c then { v with phi := t.emb.lastPhi } else v) }
          ∧ State.faultReach { s with track := t.track } t)
    ∧ (∀ i, s.emb.lastIndex = some i → measuring s → (s.track.units.map UnitRec.c).Pairwise (fun a b => a < b) →
        ∃ t, exec .eindexEdge s = .next t ∧ t.emb.lastIndex = some s.posWF ∧ t.emb.phasePending = kept
          ∧ t.track = { s.track with units := t.track.units } ∧ t.track.units.length = s.track.units.length
          ∧ (∀ (k : Nat) (u : UnitRec), s.track.units[k]? = some u → ∃ v, t.track.units[k]? = some v
              ∧ v = { u with phi := v.phi }
              ∧ (u.c ∉ taken → v = u)
              ∧ (∀ g, u.c ∈ taken → u.g = some g → v.phi = u.phi ∨ v.phi = some (phase g i))
              ∧ (∀ g, taken.head? = some u.c → u.g = some g → v.phi = some (phase g i))
              ∧ (∀ g, measuring t → u.c ∈ taken → u.g = some g → v.phi = some (phase g i)))
          ∧ State.faultReach { s with track := t.track } t)

/-- The lock test in SYNCING (R55): a failing test counts from 0 and leaves the loop in SYNCING; the third test that holds, with the drive
PRESENT and no lift cause, hands ENGAGE over, starts the drive timer and goes to ENGAGING; and the loop goes to ENGAGING only
while the active order uses embossing, the last report shows AT_TEMPERATURE, no splice guard holds and the reaction in force is
below LIFT. -/
def Obligations.EngageOnlyWhenSafe : Prop :=
  ∀ s : State, s.emb.st = .syncing →
    let inside := (s.emb.phi16.natAbs : Int) ≤ 16 * max 1 (roundHalfAway (s.setting 39 * 1000) s.feP)
    let t := s.lockTest
    let engaging : State := { s with emb := { s.emb with
      lock := 3, st := .engaging, timer := true, resent := false, liftPending := false } }
    (¬ inside → t.emb.st = .syncing ∧ t.emb.lock = 0)
    ∧ (inside → s.emb.lock < 2 ∨ s.lifts = true ∨ s.nodePresent .emboss = false → t.emb.st = .syncing)
    ∧ (inside → 2 ≤ s.emb.lock → s.lifts = false → s.nodePresent .emboss = true →
        (engaging.hand .emboss .engage).2 = false → t = (engaging.hand .emboss .engage).1 ∧ t.emb.st = .engaging)
    ∧ (t.emb.st = .engaging → s.embossOrder = true ∧ s.atTemperature = true ∧ s.spliceGuard = false
        ∧ s.reaction.code < 2 ∧ s.faultActive embossMarkLost 0 = false ∧ s.faultActive embossRegisterLoss 0 = false)

/-- The drive timer (R56, R57): running out in ENGAGING or LIFTING it raises EMBOSS_DRIVE_TIMEOUT and hands LIFT to the emboss drive,
with the timer started again, re-sent no, in LIFTING: the LIFT joins what waits at a PRESENT drive with room, and no other
node's commands change (R144); in any other state, or when the timer does not run, nothing happens. -/
def Obligations.DriveTimerRunsOut : Prop :=
  ∀ s : State,
    (s.emb.timer = true → (s.emb.st = .engaging ∨ s.emb.st = .lifting) →
      ∃ t, exec .driveTimerExpiry s = .next t ∧ t = (s.raise embossDriveTimeout 0).sendLift
        ∧ t.emb.st = .lifting ∧ t.emb.timer = true ∧ t.faultActive embossDriveTimeout 0 = true ∧ s.faultReach t
        ∧ (∀ i n, s.nodeIndex .emboss = some i → s.link.nodes[i]? = some n → n.st = .present → n.waiting.length < 10 →
            t.emb.resent = false ∧ t.link.nodes = s.link.nodes.set i { n with waiting := n.waiting ++ [.lift] })
        ∧ (s.nodePresent .emboss = false → t.link = s.link))
    ∧ ((s.emb.timer = false ∨ (s.emb.st ≠ .engaging ∧ s.emb.st ≠ .lifting)) → exec .driveTimerExpiry s = .next s)

/-- The oldest record passes the cutter (R7, R10, R97): it leaves the track and joins the roll whose range holds its span start,
a closing roll before the roll in progress, with its fields as they stand; no other unit's coordinates change. -/
def Obligations.UnitLeavesForItsRoll : Prop :=
  ∀ (s : State) (u : UnitRec) (rest : List UnitRec) (x : Int),
    s.track.units = u :: rest → (s.track.units.map UnitRec.c).Pairwise (fun a b => a < b) →
    u.leaveAt = some x → x ≤ s.posHF →
    let start := (u.g.map (fun g => g + roundHalfAway ((s.body u.order).cutPhase * 100000) s.feP)).getD 0
    ∃ t, exec .unitLeavesTrack s = .next t
      ∧ t.track.units.map (fun v => (v.c, v.g)) = rest.map (fun v => (v.c, v.g))
      ∧ ((∀ c ∈ s.winder.closing, ¬ (c.roll.start ≤ start ∧ start < c.stop)) →
          t.winder.closing = s.winder.closing
          ∧ t.winder.roll.map (fun r => (r.start, r.spindle, r.units))
            = s.winder.roll.map (fun r => (r.start, r.spindle, r.units ++ [u])))
      ∧ (∀ before after c, s.winder.closing = before ++ c :: after →
          (∀ d ∈ before, ¬ (d.roll.start ≤ start ∧ start < d.stop)) → c.roll.start ≤ start → start < c.stop →
          t.winder.closing = before ++ { c with roll := { c.roll with units := c.roll.units ++ [u] } } :: after
          ∧ t.winder.roll.map (fun r => (r.start, r.spindle, r.units))
            = s.winder.roll.map (fun r => (r.start, r.spindle, r.units)))
      ∧ s.leavesInputs t

/-- The splice list (R11, R12, R13, R34). A SPLICE edge at the high-water mark: the same splice adds nothing; with 8 entries held
SPLICE_LIST_FULL is active and the list stays; otherwise one entry is appended at H + D_spl, neither owned nor with an FE
coordinate, with its register zone. Once H_F has reached an entry's cutter event, or H has passed an unowned entry's point, the
entries at its coordinate go and SPLICE_LIST_FULL ends; before that nothing happens. -/
def Obligations.SpliceListFollowed : Prop :=
  ∀ s : State,
    (s.coord.w = s.coord.h →
    let p := s.posH + roundHalfAway (s.setting 4 * 100000) s.peP
    let same := ∃ e, s.track.splices.getLast? = some e ∧ p - e.p ≤ roundHalfAway (s.track.lastNominal * 100000) s.peP
    (same → exec .spliceEdge s = .next s)
    ∧ (¬ same → 8 ≤ s.track.splices.length →
        ∃ t, exec .spliceEdge s = .next t ∧ t.faultActive spliceListFull 0 = true ∧ s.faultReach t)
    ∧ (¬ same → s.track.splices.length < 8 →
        ∃ t, exec .spliceEdge s = .next t
          ∧ t = { s with
              track := { s.track with splices := s.track.splices ++
                [{ p := p, f := none, owner := .unsettled, leaveAt := none, dropAfter := none }] },
              reg := { s.reg with
                loops := t.reg.loops,
                zones := s.reg.zones ++ [{ p := p, start := p - s.reg.lExp, stop := p + 2 * s.reg.lExp,
                                           begun := decide (p - s.reg.lExp ≤ s.posH) }] } }
          ∧ (p - s.reg.lExp ≤ s.posH → ∀ st, 1 ≤ st → (s.loop st).st ≠ .off → (t.loop st).st = .hold)))
    ∧ (∀ e : SpliceRec, s.track.splices.find? (fun q => decide (q.p = e.p)) = some e →
        ((∃ x, e.leaveAt = some x ∧ x ≤ s.posHF) ∨ (∃ x, e.dropAfter = some x ∧ x < s.posH) →
          ∃ t, exec (.spliceEntryLeaves e.p) s = .next t
            ∧ t.track = { s.track with splices := s.track.splices.filter (fun q => decide (q.p ≠ e.p)) }
            ∧ t.faultActive spliceListFull 0 = false
            ∧ State.faultReach { s with track := t.track } t)
        ∧ ((∀ x, e.leaveAt = some x → s.posHF < x) → (∀ x, e.dropAfter = some x → s.posH ≤ x) →
            exec (.spliceEntryLeaves e.p) s = .next s))

/-- The bounds of a splice's register zone (R33, R34): when H reaches the start the splice cause holds and every running loop is in
HOLD; when H passes the end the zone is gone, and a loop in HOLD with no other cause goes to ACQUIRE once no zone holds. -/
def Obligations.RegisterZoneHolds : Prop :=
  ∀ (s : State) (p : Int),
    (∃ t, exec (.spliceZoneStart p) s = .next t
      ∧ t = { s with reg := { s.reg with loops := t.reg.loops, zones := s.reg.zones.map (fun z =>
          if z.p = p ∧ z.start ≤ s.posH then { z with begun := true } else z) } }
      ∧ ((∃ z ∈ s.reg.zones, z.p = p ∧ z.start ≤ s.posH) →
          ∀ st, 1 ≤ st → (s.loop st).st ≠ .off → (t.loop st).st = .hold))
    ∧ (∃ t, exec (.spliceZoneEnd p) s = .next t
      ∧ t = { s with reg := { s.reg with loops := t.reg.loops, zones := s.reg.zones.filter (fun z =>
          !(decide (z.p = p) && decide (z.stop < s.posH))) } }
      ∧ ((∀ z ∈ t.reg.zones, z.begun = false) → s.reg.lowSpeed = false → s.faultActive referenceLost 0 = false →
          s.fault.st ≠ .stopped → ∀ st, 1 ≤ st → s.nodePresent (.station st) = true → (s.loop st).st = .hold →
          (t.loop st).st = .acquire))

/-- The bounds of a splice's guard interval (R52, R53, R54, R56, R57): when H_F reaches the start, an engaged embosser is lifted, an
engaging one has its lift pending, and a synchronising one returns to LIFTED; when H_F passes the end the interval is gone, and
a lifted embosser with no other cause goes to SYNCING. -/
def Obligations.GuardIntervalLifts : Prop :=
  ∀ (s : State) (p : Int),
    (∃ t, exec (.spliceGuardStart p) s = .next t
      ∧ t.emb.guards = s.emb.guards.map (fun z =>
          if z.p = p ∧ z.start ≤ s.posHF then { z with begun := true } else z)
      ∧ ((∃ z ∈ s.emb.guards, z.p = p ∧ z.start ≤ s.posHF) →
          (s.emb.st = .engaged → t.emb.st = .lifting ∧ t.emb.timer = true)
          ∧ (s.emb.st = .engaging → t.emb.st = .engaging ∧ t.emb.liftPending = true)
          ∧ (s.emb.st = .syncing → s.embossOrder = true → t.emb.st = .lifted))
      ∧ s.faultReach t)
    ∧ (∃ t, exec (.spliceGuardEnd p) s = .next t
      ∧ t.emb.guards = s.emb.guards.filter (fun z => !(decide (z.p = p) && decide (z.stop < s.posHF)))
      ∧ ((∀ z ∈ t.emb.guards, z.begun = false) → s.emb.st = .lifted → s.embossOrder = true → s.atTemperature = true →
          s.reaction.code < 2 → s.faultActive embossMarkLost 0 = false → s.faultActive embossRegisterLoss 0 = false →
          t.emb.st = .syncing ∧ t.emb.reload = true)
      ∧ s.faultReach t)

/-- The check at the nip (R61): once H_F has reached a unit's mid-point there, the event is disarmed and the unit of an embossed
order is UNEMBOSSED unless the last drive report shows ENGAGED; nothing else changes. -/
def Obligations.NipChecked : Prop :=
  ∀ (s : State) (u : UnitRec) (x : Int), s.unit? u.c = some u → u.nipAt = some x → x ≤ s.posHF →
    ∃ t, exec (.nipCheck u.c) s = .next t
      ∧ t = { s with track := { s.track with units := s.track.units.map (fun v =>
          if v.c = u.c then { v with nipAt := none, flags := { v.flags with unembossed := v.flags.unembossed ||
              (decide ((s.body u.order).emboss = 1) && !(s.emb.report.any (fun r => decide (r.position = .engaged)))) } }
          else v) } }

/-! ## Draw and shade (chapters 3 and 4) -/

/-- A full block of the draw loop (R64, R65): within the deadband, or for a step of the total's own sign at the drive's limit, the
total is held; otherwise it moves by the step; it is clamped to the limit; a changed total starts the settle; DRAW_LIMIT is
active exactly when an order is active and the total or the drive is at its limit. -/
def Obligations.DrawBlockComputed : Prop :=
  ∀ s : State,
    let mean := floorDiv s.draw.sum 8
    let rho := roundHalfAway ((s.drawTarget - mean) * 1000000) mean
    let step := roundHalfAway (rho * s.setting 42) 64
    let limit := s.setting 43
    let held := (rho.natAbs : Int) ≤ s.setting 41 ∨ (0 < step * s.draw.total ∧ s.draw.report.any DrawReport.atLimit = true)
    let t := s.computeDraw
    t.draw.sum = 0 ∧ t.draw.count = 0
    ∧ (held → t.draw.total = clamp s.draw.total limit)
    ∧ (¬ held → t.draw.total = clamp (s.draw.total + step) limit)
    ∧ (0 ≤ limit → (t.draw.total.natAbs : Int) ≤ limit)
    ∧ (t.draw.total ≠ s.draw.total → t.draw.settle = s.drawSettleLength)
    ∧ (t.draw.total = s.draw.total → t.draw.settle = s.draw.settle)
    ∧ (t.faultActive drawLimitFault 0 = true ↔ s.ord.active.isSome = true ∧
        ((t.draw.total.natAbs : Int) = limit ∨ s.draw.report.any DrawReport.atLimit = true))
    ∧ State.faultReach { s with draw := t.draw } t

/-- The shade event of an undecided unit (R21, R67): with the head PRESENT, the order not DONE and a request free to be appended, it
appends a WAITING request with the unit's number modulo 256 as its tag and hands MEASURE over; the planner then comes to rest. A
unit already decided only has its event disarmed. -/
def Obligations.ShadeEventRequests : Prop :=
  ∀ (s : State) (u : UnitRec) (x : Int), s.unit? u.c = some u → u.shadeAt = some x → x ≤ s.posHF →
    let disarmed : State := { s with track := { s.track with units := s.track.units.map (fun v =>
      if v.c = u.c then { v with shadeAt := none } else v) } }
    (u.verdict ≠ .waiting → exec (.shadeEvent u.c) s = .next disarmed.settlePlan)
    ∧ (u.verdict = .waiting → (s.order u.order).st ≠ .done → s.nodePresent .shade = true → s.shade.queue.length < 8 →
        (∀ q ∈ s.shade.queue, q.st ≠ .done ∧ ¬ (q.st = .inFlight ∧ q.tag = u.number % 256)) →
        let queued : State := { disarmed with shade := { s.shade with queue := s.shade.queue ++
          [{ unit := u.c, tag := u.number % 256, st := .waiting, result := none, cycles := 0, calAtFlight := false }] } }
        exec (.shadeEvent u.c) s = .next (State.settlePlan (queued.hand .shade (.measure (u.number % 256) u.c)).1))

/-- The horizon of a unit (R79): the first unit of the run raises SHADE_UNRESOLVED and resolves the whole run, each unit EXCURSION with
a reading and ABSENT without one, in the open batch or in batch 0; for another unit of the run the first unit's horizon decides; a
unit that is decided already only has its horizon disarmed. An undecided unit outside the run raises SHADE_UNRESOLVED: its
request, when it has one, becomes DONE with ABSENT and the queue is classified; without one the unit is classified as ABSENT and
makes no later request, so that it is ABSENT of the open batch or of batch 0, or joins a run that exists, and is ABSENT of batch
0 for an order that is DONE. That a unit without a request whose order is not the classifying one first changes the classifying
order is the model's reading (log 48); that SHADE_UNRESOLVED is raised before the resolution (log 55), and that the MEASURE of a
request so ended stays at the link (log 47), are its choices. The planner then comes to rest. -/
def Obligations.ShadeHorizonResolves : Prop :=
  ∀ (s : State) (u : UnitRec) (x : Int), s.unit? u.c = some u → u.horizonAt = some x → x ≤ s.posHF →
    let disarmed : State := { s with track := { s.track with
      units := s.track.units.map (fun v => if v.c = u.c then { v with horizonAt := none } else v) } }
    let raised := disarmed.raise shadeUnresolved 0
    let unasked : State := { raised with track := { s.track with
      units := s.track.units.map (fun v => if v.c = u.c then { v with horizonAt := none, shadeAt := none } else v) } }
    let k := s.orderKey u.order
    (s.shade.run.head? = some u.c →
      ∃ t : State, exec (.shadeHorizon u.c) s = .next t.settlePlan ∧ t = (s.raise shadeUnresolved 0).decideRun
        ∧ t.shade.run = [] ∧ t.shade.runReadings = 0
        ∧ (∀ d ∈ s.shade.run, ∀ w, s.unit? d = some w → ∃ v, t.unit? d = some v
            ∧ v.verdict = (if w.reading.isSome then .excursion else .absent) ∧ v.batch = s.shade.openBatch.getD 0
            ∧ v.horizonAt = none)
        ∧ (∀ d, d ∉ s.shade.run → t.unit? d = s.unit? d))
    ∧ (u.c ∈ s.shade.run → s.shade.run.head? ≠ some u.c → exec (.shadeHorizon u.c) s = .next s.settlePlan)
    ∧ (u.c ∉ s.shade.run → u.verdict ≠ .waiting → exec (.shadeHorizon u.c) s = .next disarmed.settlePlan)
    ∧ (u.c ∉ s.shade.run → u.verdict = .waiting → (∃ q ∈ s.shade.queue, q.unit = u.c) →
        exec (.shadeHorizon u.c) s = .next (State.settlePlan (State.classifyDone { raised with shade := { s.shade with
          queue := s.shade.queue.map (fun q =>
            if q.st ≠ .done ∧ q.unit = u.c then { q with st := .done, result := none } else q) } }))
        ∧ (∀ q, s.shade.queue = [q] → q.unit = u.c → q.st ≠ .done →
            exec (.shadeHorizon u.c) s = .next (State.settlePlan
              (State.classify { raised with shade := { s.shade with queue := [] } } u.c none))))
    ∧ (u.c ∉ s.shade.run → u.verdict = .waiting → (∀ q ∈ s.shade.queue, q.unit ≠ u.c) →
        ∃ t : State, exec (.shadeHorizon u.c) s = .next t.settlePlan ∧ t = unasked.classify u.c none
          ∧ (∃ v, t.unit? u.c = some v ∧ v.verdict = .absent ∧ v.shadeAt = none ∧ v.horizonAt = none
              ∧ (s.shade.classifying = some k → s.shade.run = [] → (s.order u.order).st ≠ .done →
                  v.batch = s.shade.openBatch.getD 0)
              ∧ (s.shade.classifying ≠ some k ∨ (s.order u.order).st = .done → v.batch = 0))
          ∧ (s.shade.classifying = some k → s.shade.run ≠ [] → (s.order u.order).st ≠ .done →
              t.shade.run = s.shade.run ++ [u.c])
          ∧ t.shade.classifying = some k)

/-- The shade difference (R73): within tolerance T exactly when the weighted square S is at most (16 × T)²; the reported difference
is floor((isqrt(S) + 8) / 16) saturated at 65535; S stays below 2^41 for readings and weights in range; and the saturation can
be reached. -/
def Obligations.ShadeDifferenceReported : Prop :=
  (∀ (wL wC t : Int) (r q : Reading),
    let square := (wL * (r.l - q.l)) ^ 2 + (wC * (r.a - q.a)) ^ 2 + (wC * (r.b - q.b)) ^ 2
    (shadeWithin wL wC t r q = true ↔ square ≤ (16 * t) ^ 2)
    ∧ shadeDifference wL wC r q = min 65535 ((Nat.sqrt square.toNat + 8) / 16)
    ∧ (1 ≤ wL → wL ≤ 32 → 1 ≤ wC → wC ≤ 32 → r.valid = true → q.valid = true → square < 2 ^ 41))
  ∧ ∃ r q : Reading, r.valid = true ∧ q.valid = true ∧ 65535 < (isqrt (shadeSquare 32 32 r q).toNat + 8) / 16
    ∧ shadeDifference 32 32 r q = 65535

/-- Batches (R75, R76, R74, R82, R85). A present reading within tolerance of the open batch: the run is decided as excursions of that
batch and emptied, and the unit is IN that batch with its difference kept. A run that reaches the persistence with every reading
within tolerance of its mean opens the next batch with that mean: the open one is CLOSED, the boundary unit is flagged, every unit
of the run takes the new batch, the run is empty, BATCH is requested of the planner at the boundary unit and latched. The end of the
classifying order closes the open batch; a change of it empties the table and zeroes the mirror. A changed record goes to its
mirror record with its update count advanced, and nothing else in exchange memory changes. -/
def Obligations.ReadingInOpenBatch : Prop :=
  (∀ (s : State) (u : UnitRec) (b : Nat) (rec : BatchRec) (r : Reading),
    s.unit? u.c = some u → u.reading = some r → u.c ∉ s.shade.run → s.shade.openBatch = some b → 1 ≤ b →
    s.shade.batches[b - 1]? = some rec →
    shadeWithin (s.body u.order).wL (s.body u.order).wC (s.body u.order).tol r rec.ref = true →
    let t := s.classifyRunning u.c (s.body u.order) (some r)
    t.shade.run = [] ∧ t.shade.openBatch = some b
    ∧ (∃ v, t.unit? u.c = some v ∧ v.verdict = .isIn ∧ v.batch = b ∧ v.horizonAt = none
        ∧ v.shadeD = some (shadeDifference (s.body u.order).wL (s.body u.order).wC r rec.ref))
    ∧ (∀ d ∈ s.shade.run, ∀ w, s.unit? d = some w → ∃ v, t.unit? d = some v
        ∧ v.verdict = (if w.reading.isSome then .excursion else .absent) ∧ v.batch = b))
  ∧ (∀ (s : State) (body : OrderBody) (c : Int) (u : UnitRec),
    let rs := s.runReadings
    let n := s.shade.batches.length
    let mean (f : Reading → Int) : Int := roundHalfAway (rs.map f).sum rs.length
    let ref : Reading := { l := mean Reading.l, a := mean Reading.a, b := mean Reading.b }
    s.shade.run.head? = some c → s.unit? c = some u → body.persistence ≤ (s.shade.runReadings : Int) → n < 8 →
    (∀ r ∈ rs, shadeWithin body.wL body.wC body.tol r ref = true) →
    (∀ b, s.shade.openBatch = some b → 1 ≤ b ∧ b ≤ n) →
    let t := s.testRun body
    t.shade.openBatch = some (n + 1) ∧ t.shade.run = [] ∧ t.shade.runReadings = 0 ∧ t.shade.batches.length = n + 1
    ∧ (∀ b, s.shade.openBatch = some b → (∃ r, t.shade.batches[b - 1]? = some r ∧ r.isOpen = false)
        ∧ t.readByte (0x1400 + 32 * (b - 1) + 3) = 2)
    ∧ (∃ r, t.shade.batches[n]? = some r ∧ r = {
          isOpen := true, ref := ref, boundaryUnit := u.number, lastUnit := r.lastUnit, units := s.shade.run.length,
          excursions := 0, rolls := 0, updates := 1 }
        ∧ (∀ w, s.shade.run.getLast?.bind s.unit? = some w → r.lastUnit = w.number)
        ∧ t.readBytes (0x1400 + 32 * n) 32 = r.bytes (n + 1))
    ∧ (∃ v, t.unit? c = some v ∧ v.flags.boundary = true)
    ∧ (∀ d ∈ s.shade.run, ∀ w, s.unit? d = some w → ∃ v, t.unit? d = some v ∧ v.batch = n + 1 ∧ v.horizonAt = none
        ∧ v.verdict = (if w.reading.isSome then .isIn else .absent))
    ∧ t.noticed .batch = true
    ∧ (∃ p : State, p.cut = s.cut ∧ p.winder = s.winder ∧ t = (p.request .batch (s.spanStart u)).latch .batch))
  ∧ (∀ (s : State) (k : OrderKey) (b : Nat), s.shade.classifying = some k → s.shade.openBatch = some b → 1 ≤ b →
    b ≤ s.shade.batches.length →
    let t := s.shadeOrderDone k
    t.shade.openBatch = none ∧ t.shade.run = [] ∧ t.noticed .batch = true
    ∧ (∃ r, t.shade.batches[b - 1]? = some r ∧ r.isOpen = false))
  ∧ (∀ (s : State) (k : OrderKey),
    let t := s.changeClassifying k
    t.shade.batches = [] ∧ t.shade.openBatch = none ∧ t.shade.run = [] ∧ t.shade.classifying = some k
    ∧ t.readBytes 0x1400 256 = List.replicate 256 0 ∧ t.noticed .batch = true)
  ∧ (∀ (s : State) (b : Nat) (f : BatchRec → BatchRec) (r : BatchRec), 1 ≤ b → b ≤ 8 → s.shade.batches[b - 1]? = some r →
    let q : BatchRec := { f r with updates := if (f r).updates < 255 then (f r).updates + 1 else 1 }
    let t := s.setBatch b f
    t.shade = { s.shade with batches := s.shade.batches.set (b - 1) q }
    ∧ t = { s with shade := t.shade, mem := t.mem }
    ∧ t.readBytes (0x1400 + 32 * (b - 1)) 32 = q.bytes b
    ∧ (∀ a, a < 0x1400 + 32 * (b - 1) ∨ 0x1400 + 32 * b ≤ a → t.readByte a = s.readByte a))

/-! ## Cuts, rolls and labels (chapters 5 and 6) -/

/-- The earliest entry at its lead point (R98, R99, R102): with the idle spindle EMPTY, room in the holding queue, no cut outstanding
and distance left, it leaves the plan and becomes the outstanding cut, whose CUT IN with that distance joins what waits at the
winder drive; with no distance left it goes to the next span boundary, DEFERRED and with all its reasons, or waits for that
boundary to be known, and the winder stays as it is; with a condition failing the winder is STALLED with the failed conditions,
RECORD_HOLD_FULL active when the queue is one of them. The planner then comes to rest. -/
def Obligations.LeadPointDecides : Prop :=
  ∀ (s : State) (l : LeadEvent) (e : PlanEntry) (rest : List PlanEntry),
    s.winder.lead = some l → l.fired = false → l.threshold ≤ s.posHF → s.cut.plan = e :: rest →
    (∀ d ∈ rest, e.x < d.x) → (∀ g ∈ s.cut.segments, g.stop = none → e.x ≤ g.start) →
    let fired := s.setWinder (fun w => { w with lead := some { l with fired := true } })
    let rem := truncate ((e.x + roundHalfAway (s.setting 16 * 100000) s.feP - s.posHF) * s.feP) 1000
    (s.idleEmpty = true → s.rolls.queue.length + s.winder.closing.length < 4 → s.winder.out = none → 0 < rem →
      exec .leadPoint s = .next (fired.commitCut e rem).settlePlan
      ∧ (∀ i n, s.nodeIndex .winder = some i → s.link.nodes[i]? = some n → n.waiting.length < 10 →
          let t := fired.commitCut e rem
          t.cut.plan = rest ∧ t.winder.st = .cutIssued ∧ t.winder.roll = s.winder.roll
          ∧ (∃ c, t.winder.out = some c ∧ c.x = e.x ∧ c.reasons = e.reasons ∧ c.deferred = e.deferred ∧ c.resent = false
              ∧ c.receiver = s.winder.active.other
              ∧ t.link.nodes[i]? = some { n with waiting := n.waiting ++ [.cutIn rem c.serial] })))
    ∧ (s.idleEmpty = true → s.rolls.queue.length + s.winder.closing.length < 4 → s.winder.out = none → rem ≤ 0 →
      (s.boundaryAfter e.x = none →
        exec .leadPoint s = .next (State.settlePlan (fired.setWinder (fun w => { w with awaitBoundary := true }))))
      ∧ (∀ y, s.boundaryAfter e.x = some y →
        ∃ t : State, exec .leadPoint s = .next t.settlePlan ∧ t.entryAt e.x = none
          ∧ t.winder = { s.winder with lead := none, awaitBoundary := false }
          ∧ (∃ d, t.entryAt y = some d ∧ d.deferred = true ∧ d.reasons.union e.reasons = d.reasons)))
    ∧ ((s.idleEmpty = false ∨ 4 ≤ s.rolls.queue.length + s.winder.closing.length ∨ s.winder.out.isSome = true) →
      ∃ t : State, exec .leadPoint s = .next t.settlePlan ∧ t.winder.st = .stalled ∧ t.cut.plan = s.cut.plan
        ∧ t.winder.blocked = { spindle := !s.idleEmpty,
                               queue := decide (4 ≤ s.rolls.queue.length + s.winder.closing.length),
                               cut := s.winder.out.isSome }
        ∧ (4 ≤ s.rolls.queue.length + s.winder.closing.length → t.faultActive recordHoldFull 0 = true)
        ∧ t.winder.out = s.winder.out)

/-- A blocked entry whose lead point H_F has passed (R102): it goes to the next span boundary, DEFERRED and with all its reasons, or
waits for that boundary to be known. The planner then comes to rest. -/
def Obligations.LeadPointPassedDefers : Prop :=
  ∀ (s : State) (l : LeadEvent) (e : PlanEntry) (rest : List PlanEntry),
    s.winder.st = .stalled → (s.winder.blocked.spindle || s.winder.blocked.queue || s.winder.blocked.cut) = true →
    s.winder.lead = some l → l.fired = true → l.threshold < s.posHF → s.cut.plan = e :: rest →
    (s.boundaryAfter e.x = none →
      exec .leadPointPassed s = .next (State.settlePlan (s.setWinder (fun w => { w with awaitBoundary := true }))))
    ∧ (∀ y, s.boundaryAfter e.x = some y →
      ∃ t : State, exec .leadPointPassed s = .next t.settlePlan ∧ t.entryAt e.x = none
        ∧ (∃ d, t.entryAt y = some d ∧ d.deferred = true
            ∧ (e.reasons.target = true → d.reasons.target = true) ∧ (e.reasons.batch = true → d.reasons.batch = true)
            ∧ (e.reasons.spliceBefore = true → d.reasons.spliceBefore = true)
            ∧ (e.reasons.spliceAfter = true → d.reasons.spliceAfter = true)
            ∧ (e.reasons.orderEnd = true → d.reasons.orderEnd = true)
            ∧ (e.reasons.changeover = true → d.reasons.changeover = true))
        ∧ t.winder.awaitBoundary = false)

/-- The outstanding cut's CUT_MISSED threshold (R101): past it the cut is given up, the winder shows WINDING, and its reasons go to
the planner for the first boundary at least one lead ahead; a fault unit in NORMAL or ALERT goes to STOPPED with both STOP
lines low. The planner then comes to rest. Up to the threshold nothing happens. That the reasons wait, in the list `awaiting`, until
such a boundary is known is the model's choice (log 24). The lead event of the earliest entry keeps its threshold (R98), and counts
as fired where H_F has reached it. -/
def Obligations.CutMissedGivesUp : Prop :=
  ∀ (s : State) (c : OutstandingCut), s.winder.out = some c →
    (s.posHF ≤ c.missAfter → exec .cutMissedThreshold s = .next s)
    ∧ (c.missAfter < s.posHF →
      ∃ t : State, exec .cutMissedThreshold s = .next t.settlePlan
        ∧ t.winder.out = none ∧ t.winder.st = .winding ∧ t.winder.roll = s.winder.roll
        ∧ t.winder.lead = s.winder.lead.map (fun l => { l with fired := l.fired || decide (l.threshold ≤ s.posHF) })
        ∧ t.cut = { s.cut with awaiting := s.cut.awaiting ++ [{ kind := .missed c.reasons c.x, coordinate := none }] }
        ∧ (s.fault.st = .normal ∨ s.fault.st = .alert →
            t.fault.st = .stopped ∧ t.fault.stopA = false ∧ t.fault.stopB = false ∧ t.noticed .stop = true)
        ∧ t.track = s.track ∧ t.rolls = s.rolls ∧ t.ord = s.ord ∧ s.leavesInputs t)

/-- The oldest closing roll whose units have all left is handed over (R100, R108, R109, R131): one record joins the tail of the
holding queue with the next sequence number, its order's next roll number, and the roll's ends, length and spindle; the closing
roll is gone; and the record is reported to the order unit, which counts the roll in its slot. With a unit still to come, or no
closing roll, nothing happens. The record carries the reference, the texts, the excursion limit and the template of its order's copy.
A roll with no units whose order's copy was discarded goes on from the number of the roll composed before it and carries the values
that roll's order had, and is not counted; where no roll was composed before, its number is free in its range (log 51). -/
def Obligations.RollHandedOver : Prop :=
  ∀ s : State,
    (s.winder.closing = [] → exec .rollHandover s = .next s)
    ∧ (∀ c rest, s.winder.closing = c :: rest →
      ((∃ u ∈ s.track.units, ∃ b, s.spanStart u = some b ∧ b < c.stop) → exec .rollHandover s = .next s)
      ∧ ((∀ u ∈ s.track.units, ∀ b, s.spanStart u = some b → c.stop ≤ b) →
        let k := match c.roll.units with
          | u :: _ => s.orderKey u.order
          | [] => s.rolls.lastOrder
        ∃ (t : State) (number : Nat), exec .rollHandover s = .next t ∧ t.winder.closing = rest
          ∧ 1 ≤ number ∧ number ≤ 65535
          ∧ (c.roll.units ≠ [] ∨ (s.orderKey k.slot = k ∧ (s.order k.slot).body.isSome = true) →
              number = if (s.order k.slot).lastRoll < 65535 then (s.order k.slot).lastRoll + 1 else 1)
          ∧ (∀ p, c.roll.units = [] → (s.orderKey k.slot = k → (s.order k.slot).body = none) → s.rolls.lastComposed = some p →
              number = if p.number < 65535 then p.number + 1 else 1)
          ∧ t.rolls.queue.map (fun r => (r.seq, r.order, r.rollNumber, r.start, r.stop, r.length, r.spindle, r.removed))
            = s.rolls.queue.map (fun r => (r.seq, r.order, r.rollNumber, r.start, r.stop, r.length, r.spindle, r.removed))
              ++ [(if s.rolls.seq < 4294967295 then s.rolls.seq + 1 else 1, k, number, c.roll.start, c.stop,
                   roundHalfAway (c.roll.length * s.feP) 100000, c.roll.spindle, c.removed)]
          ∧ t.track.units.map (fun v => (v.c, v.g)) = s.track.units.map (fun v => (v.c, v.g))
          ∧ s.leavesInputs t))
    ∧ (∀ (c : ClosingRoll) (u : UnitRec) (rest : List UnitRec), c.roll.units = u :: rest → u.order < 8 →
        u.order < s.ord.orders.length →
        let t := s.composeReported c
        let produced := min 65535 ((s.order u.order).produced + 1)
        (t.order u.order).produced = produced
        ∧ t.readBytes (0x0474 + 128 * u.order) 2 = natBytes 2 produced
        ∧ (t.order u.order).currentRoll = (if (s.order u.order).st = .active ∨ (s.order u.order).st = .ending then
            min 65535 (produced + 1) else 0)
        ∧ ∃ r, t.rolls.queue = s.rolls.queue ++ [r] ∧ r.order.slot = u.order ∧ r.orderRef = (s.body u.order).ref.toNat
            ∧ r.product = (s.body u.order).product ∧ r.batchPrefix = (s.body u.order).batchPrefix
            ∧ r.excLimit = (s.body u.order).excLimit.toNat ∧ r.template = (s.body u.order).template.toNat)
    ∧ (∀ (c : ClosingRoll) (p : ComposedRoll), c.roll.units = [] → s.copyHeld c = false → s.rolls.lastComposed = some p →
        ∃ r, (s.composeReported c).rolls.queue = s.rolls.queue ++ [r] ∧ r.order = s.rolls.lastOrder
          ∧ r.rollNumber = (if p.number < 65535 then p.number + 1 else 1) ∧ r.orderRef = p.body.ref.toNat
          ∧ r.product = p.body.product ∧ r.batchPrefix = p.body.batchPrefix ∧ r.excLimit = p.body.excLimit.toNat
          ∧ r.template = p.body.template.toNat ∧ (s.composeReported c).freeIdx = s.freeIdx)

/-- A printer STATUS (R113, R114, R115, R116): READY or NOT_READY becomes the last report; it leaves an outstanding job alone; NOT
READY starts the wait timer when a record waits for its label and no job is outstanding; READY then starts the job of the head
record when its template renders. Any other body is discarded and counted. -/
def Obligations.LabelStatusTaken : Prop :=
  ∀ s : State,
    (∀ body, body ≠ [0] → body ≠ [1] → exec (.labelStatus body) s = .next { s with rolls := { s.rolls with
      rxErrors := min 65535 (s.rolls.rxErrors + 1) } })
    ∧ (∀ b : Byte, b = 0 ∨ b = 1 → s.rolls.job.isSome = true →
        exec (.labelStatus [b]) s = .next { s with rolls := { s.rolls with
          printer := some (decide (b = 1)), waitTimer := false } })
    ∧ (s.rolls.job = none → exec (.labelStatus [0]) s = .next { s with rolls := { s.rolls with
        printer := some false, waitTimer := s.rolls.queue.any (fun r => decide (r.label = .waiting)) } })
    ∧ (∀ r lines, s.rolls.job = none → s.rolls.queue.find? (fun r => decide (r.label = .waiting)) = some r →
        s.render r = some lines →
        exec (.labelStatus [1]) s = .next { s with rolls := { s.rolls with
          printer := some true, waitTimer := false,
          queue := s.rolls.queue.map (fun q =>
            if q.seq = r.seq then { q with label := .sent, jobNumber := s.rolls.nextJob } else q),
          nextJob := if s.rolls.nextJob < 99 then s.rolls.nextJob + 1 else 1,
          job := some { seq := r.seq, number := s.rolls.nextJob, replyTimer := false },
          tx := labelFrame 1 (jobBody s.rolls.nextJob lines) } })

/-- An ACK (R113, R115, R117): with the outstanding job's number the record is PRINTED, or APPLIED when its roll was removed, the
job ends and the next record is tested; with another number or no job it is discarded; with a body of another length it is
counted as an error. And once the last byte of a JOB has gone its reply timer runs. That an ACK of another job is not counted as a
receive error is the model's choice (log 32). -/
def Obligations.LabelAckEndsJob : Prop :=
  ∀ s : State,
    (∀ n : Byte, ∀ j, s.rolls.job = some j → j.number = n.toNat →
      exec (.labelAck [n]) s = .next (State.labelNext { s with rolls := { s.rolls with
        job := none, queue := s.rolls.queue.map (fun r =>
          if r.seq = j.seq then { r with label := if r.removed then .applied else .printed } else r) } }))
    ∧ (∀ n : Byte, (∀ j, s.rolls.job = some j → j.number ≠ n.toNat) → exec (.labelAck [n]) s = .next s)
    ∧ (∀ body : List Byte, body.length ≠ 1 → exec (.labelAck body) s = .next { s with rolls := { s.rolls with
        rxErrors := min 65535 (s.rolls.rxErrors + 1) } })
    ∧ (∀ j, s.rolls.job = some j → exec .labelJobSent s = .next { s with rolls := { s.rolls with
        job := some { j with replyTimer := true } } })
    ∧ (s.rolls.job = none → exec .labelJobSent s = .next s)

/-- A label that fails (R114, R117): on a NAK of the outstanding job, on its reply timer, and on the wait timer of the head record,
that record is FAILED with the LABEL_FAILED flag, the fault LABEL_FAILED is raised with subject 0 on the state that holds the
record so, the job or the timer ends, and the next record is tested. Of the rest only what a raise may reach changes. -/
def Obligations.LabelFails : Prop :=
  ∀ (s : State) (c : Instr) (seq : Nat),
    ((∃ j reason, s.rolls.job = some j ∧ c = .labelNak [BitVec.ofNat 8 j.number, reason] ∧ j.number < 256 ∧ seq = j.seq)
      ∨ (∃ j, s.rolls.job = some j ∧ j.replyTimer = true ∧ c = .labelReplyTimeout ∧ seq = j.seq)
      ∨ (∃ r, s.rolls.queue.find? (fun r => decide (r.label = .waiting)) = some r ∧ s.rolls.job = none
          ∧ s.rolls.waitTimer = true ∧ c = .labelWaitTimeout ∧ seq = r.seq)) →
    let timer := if c = .labelWaitTimeout then false else s.rolls.waitTimer
    let queue := s.rolls.queue.map (fun r =>
      if r.seq = seq then { r with label := .failed, flags := r.flags ||| 0x1000#16 } else r)
    ∃ t : State, exec c s = .next t.labelNext
      ∧ t.rolls = { s.rolls with job := none, waitTimer := timer, queue := queue }
      ∧ t = { State.raise { s with rolls := { s.rolls with waitTimer := timer, queue := queue } } labelFailed 0 with
              rolls := t.rolls }
      ∧ State.faultReach { s with rolls := t.rolls } t

/-- Frames of the label line that are not taken (R115, R117): an error or a gap inside a frame, and a NAK of another length, count one
receive error and nothing else; a NAK of another job, and a timer that does not run, change nothing. That a NAK of another job is not
counted as a receive error is the model's choice (log 32). -/
def Obligations.LabelFramesDiscarded : Prop :=
  ∀ s : State,
    let counted : State := { s with rolls := { s.rolls with rxErrors := min 65535 (s.rolls.rxErrors + 1) } }
    (∀ cause, exec (.labelFrameError cause) s = .next counted)
    ∧ exec .labelGapTimeout s = .next counted
    ∧ (∀ body : List Byte, body.length ≠ 2 → exec (.labelNak body) s = .next counted)
    ∧ (∀ n reason : Byte, (∀ j, s.rolls.job = some j → j.number ≠ n.toNat) → exec (.labelNak [n, reason]) s = .next s)
    ∧ ((∀ j, s.rolls.job = some j → j.replyTimer = false) → exec .labelReplyTimeout s = .next s)
    ∧ (s.rolls.waitTimer = false → exec .labelWaitTimeout s = .next s)

/-! ## The plan (chapter 5) -/

/-- Placing a request at a coordinate that is not the start of the roll in progress (R89): it joins an entry that stands there; else a
forced one first takes TARGET out of every entry beyond it; with 16 places taken CUT_PLAN_FULL is active and no entry is added;
and otherwise one entry with its reason stands there. The plan never grows past 16 by it. And what the order unit does with the
planner's report of an ORDER_END (R132, R133): the first one fixes E, in the order's record and in its slot, and decides the
changeover: stopped, with the waste indication and CHANGEOVER on the units at or beyond E and those without g; or, when the head
of the queue has the same geometry, flying: the first PENDING unit at or beyond E makes the head ACTIVE from its span start, with
the units from there on reassigned to it, and without such a unit nothing else changes yet. And when a waste segment closes at the
entry with SPLICE_AFTER and no later splice's start stands in it (R94), BATCH leaves the entries inside, and their ORDER_END and
CHANGEOVER join the entry at the end, which keeps its own reasons. A BATCH, ORDER_END or CHANGEOVER that lands inside a segment already
closed, where no entry stands, is placed like any other before the merge rules take it on (R89, R94), as log 22 reads them: TARGET goes
out of every entry beyond it; with 16 places taken CUT_PLAN_FULL is active and nothing else changes in the plan; and otherwise
BATCH is dropped, and ORDER_END or CHANGEOVER joins the entry at the segment's end. When the first unit counted from K
is one of those reassigned and E′ equals E, the roll's order in the count is the new order (R90). A later report leaves E as it
is. -/
def Obligations.RequestPlaced : Prop :=
  (∀ (s : State) (kind : CutKind) (x : Int) (waiting : Bool),
    (∀ r, s.winder.roll = some r → r.start ≠ x) →
    let t := s.placeAt kind x waiting
    let stripped := if kind.reasons.forced then
        (s.cut.plan.map (fun e => if x < e.x then { e with reasons := { e.reasons with target := false } } else e)).filter
          (fun e => !e.reasons.isEmpty)
      else s.cut.plan
    let taken := stripped.length + (if waiting then 0 else s.cut.full.length)
    (∀ e, s.entryAt x = some e →
      t.cut.plan = s.cut.plan.map (fun q => if q.x = x then { q with
        reasons := q.reasons.union kind.reasons,
        deferred := q.deferred || (decide (kind = .target) && s.cut.targetDrop) } else q))
    ∧ (s.entryAt x = none → 16 ≤ taken → t.cut.plan = stripped ∧ t.faultActive cutPlanFull 0 = true)
    ∧ (s.entryAt x = none → taken < 16 →
        t.cut.plan.Perm ({ x := x, reasons := kind.reasons, deferred := decide (kind = .target) && s.cut.targetDrop } :: stripped)
        ∧ (s.cut.plan.Pairwise (fun a b => a.x < b.x) → t.cut.plan.Pairwise (fun a b => a.x < b.x)))
    ∧ (s.cut.plan.length ≤ 16 → t.cut.plan.length ≤ 16))
  ∧ (∀ (s : State) (b a x : Int) (e f : PlanEntry), s.cut.plan.Pairwise (fun p q => p.x < q.x) →
    s.entryAt x = some e → s.entryAt a = some f → b < x → x < a → f.reasons.spliceAfter = true → s.cut.held = [] →
    (∀ q ∈ s.cut.plan, b < q.x → q.reasons.spliceBefore = false) →
    let t := s.finishClose b a
    (∃ d, t.entryAt a = some d ∧ d.reasons.union f.reasons = d.reasons
      ∧ (e.reasons.orderEnd = true → d.reasons.orderEnd = true) ∧ (e.reasons.changeover = true → d.reasons.changeover = true))
    ∧ (∀ d, t.entryAt x = some d →
        d.reasons.batch = false ∧ d.reasons.orderEnd = false ∧ d.reasons.changeover = false))
  ∧ (∀ (s : State) (kind : CutKind) (x a : Int) (f : PlanEntry) (waiting : Bool),
    kind = .batch ∨ kind = .changeover ∨ (∃ n, kind = .orderEnd n) →
    s.holding kind x = false → s.segmentAround x = some a → (∀ r, s.winder.roll = some r → r.start ≠ x ∧ r.start ≠ a) →
    s.entryAt x = none → s.entryAt a = some f → f.reasons.spliceAfter = true →
    let t := s.takeAt kind x waiting
    let stripped := (s.cut.plan.map (fun e =>
      if x < e.x then { e with reasons := { e.reasons with target := false } } else e)).filter (fun e => !e.reasons.isEmpty)
    let taken := stripped.length + (if waiting then 0 else s.cut.full.length)
    (16 ≤ taken → t.cut.plan = stripped ∧ t.faultActive cutPlanFull 0 = true)
    ∧ (taken < 16 → t.cut.plan = if kind = .batch then stripped else
        stripped.map (fun q => if q.x = a then { q with reasons := q.reasons.union kind.reasons } else q)))
  ∧ (∀ (s : State) (n : Nat) (x e : Int), (s.order n).e = some e →
    s.takeReport (.orderEnd n x false) = s.setOrder n (fun o => { o with endAt := some x }))
  ∧ (∀ (s : State) (n : Nat) (x : Int), n < 8 → n < s.ord.orders.length → (s.order n).e = none →
    let t := s.takeReport (.orderEnd n x false)
    (t.order n).e = some x ∧ (t.order n).endAt = some x ∧ t.readBytes (0x047A + 128 * n) 6 = intBytes 6 x
    ∧ (s.flyingHead n = none → (t.order n).changeover = .stopped ∧ t.ord.waste = true ∧ t.ord.active = s.ord.active
        ∧ t.track = { s.track with units := s.track.units.map (fun u =>
            if u.order = n ∧ (∀ b, s.spanStart u = some b → x ≤ b) then
              { u with flags := { u.flags with changeover := true } } else u) })
    ∧ (∀ m, s.flyingHead n = some m → (s.order n).st = .ending →
        ((∀ u ∈ s.track.units, u.order = n → u.verdict = .waiting → ∀ b, s.spanStart u = some b → b < x) →
          (t.order n).changeover = .flying ∧ t.track = s.track ∧ t.ord.active = s.ord.active)
        ∧ (∀ before u after b, s.track.units = before ++ u :: after →
            (s.track.units.map UnitRec.c).Pairwise (fun p q => p < q) →
            (∀ v ∈ before, v.order = n → v.verdict = .waiting → ∀ d, s.spanStart v = some d → d < x) →
            u.order = n → u.verdict = .waiting → s.spanStart u = some b → x ≤ b →
            (t.order n).changeover = .flown ∧ t.ord.active = some m ∧ (t.order m).st = .active
            ∧ (t.order m).s0 = some b ∧ t.ord.waste = false ∧ t.track.units.length = s.track.units.length
            ∧ (∃ v, t.unit? u.c = some v ∧ v.order = m ∧ v.number = 1)
            ∧ (b = x → ∀ w ∈ s.track.units, w.order = n → u.c ≤ w.c → s.cut.first = some w.c → t.cut.rollOrder = m)
            ∧ (∀ (k : Nat) (w : UnitRec), s.track.units[k]? = some w → ∃ v, t.track.units[k]? = some v
                ∧ (w.order = n ∧ u.c ≤ w.c → v = { w with order := m, number := v.number })
                ∧ (w.order ≠ n ∨ w.c < u.c → v = w)))))

/-- A CUT DONE closes the roll in progress at the cut (R100): its units that start before the cut become the closing roll with the
cut's reasons and mark, those at or after it the first units of the new roll on the receiving spindle; the cut is no longer
outstanding, the winder shows WINDING and WINDER_STALL ends. A delivered reply of the winder drive (R149, R150, R118) gives the
spindle states, and an event with a new number is taken once: CUT DONE with its residual while a cut is outstanding, ROLL REMOVED for
spindle A or B; without one, and with no cut outstanding, there is nothing to close. ROLL REMOVED marks the oldest unmarked record
of its spindle, a PRINTED one becoming APPLIED, else the oldest unmarked closing roll of it. A CUT DONE with ORDER_END ends
every ENDING order whose end lies at or before the cut (R134), with its reason, and with the hold of a stopped changeover. The
lead event of the earliest entry keeps its threshold while that entry stands unchanged (R98); where H_F has reached the
threshold the entry is decided when the planner comes to rest. That the spindle states of a reply act before its event (log 37), and
that an event code above 3 is acknowledged and not handed on (log 56), are the model's choices. -/
def Obligations.CutDoneClosesRoll : Prop :=
  (∀ (s : State) (c : OutstandingCut) (r : Roll) (residual : Int), s.winder.roll = some r →
    (∀ u ∈ r.units, u.g.isSome = true) →
    let starts (u : UnitRec) : Int := u.g.getD 0 + roundHalfAway ((s.body u.order).cutPhase * 100000) s.feP
    let t := s.closeRoll c residual
    t.winder.closing = s.winder.closing ++
        [{ roll := { r with units := r.units.filter (fun u => decide (starts u < c.x)) }, stop := c.x, close := c.reasons,
           deferred := c.deferred, removed := false }]
    ∧ t.winder.roll = some { start := c.x, opening := c.reasons, spindle := c.receiver,
                             units := r.units.filter (fun u => decide (c.x ≤ starts u)) }
    ∧ t.winder.out = none ∧ t.winder.active = c.receiver ∧ t.winder.residual = residual ∧ t.winder.st = .winding
    ∧ t.winder.lead = s.winder.lead.map (fun l => { l with fired := l.fired || decide (l.threshold ≤ s.posHF) })
    ∧ t.winder.blocked.clear = true ∧ t.winder.awaitBoundary = false
    ∧ t.faultActive winderStall 0 = false
    ∧ State.faultReach { s with winder := t.winder } t)
  ∧ (∀ (s : State) (l : LeadEvent) (e : PlanEntry) (rest : List PlanEntry), s.cut.plan = e :: rest →
    s.winder.lead = some l → l.entry = e.x → s.winder.st ≠ .stalled → s.winder.awaitBoundary = false →
    (l.fired = true → s.leadStep = some (if s.decideEntry.leadPassed then s.decideEntry.deferEarliest else s.decideEntry))
    ∧ (l.fired = false → s.leadStep = none))
  ∧ (∀ (s : State) (i : Nat) (n : Node) (l : List Byte), s.link.nodes[i]? = some n → s.ownerOf i = some .winder →
    let event := (l.getD 4 0).toNat
    let number := (l.getD 5 0).toNat
    let shown (k : Nat) : SpindleState :=
      if (l.getD k 0).toNat = 0 then .empty else if (l.getD k 0).toNat = 1 then .winding else .full
    let heard := (s.setWinder (fun w => { w with spindles := some (shown 2, shown 3) })).reassess
    let taken := heard.setNode i (fun m => { m with lastEvent := number })
    (s.winder.out.isSome = true → heard.winder.out = s.winder.out)
    ∧ (event = 0 ∨ number = n.lastEvent → s.deliver i l = heard.settlePlan)
    ∧ (event ≠ 0 → number ≠ n.lastEvent →
        (∀ c, event = 1 → heard.winder.out = some c →
          let closed := (taken.closeRoll c (intOfBytes ((l.drop 6).take 4))).shadeCutDone
          s.deliver i l = State.settlePlan (State.settlePlan (if c.reasons.orderEnd then closed.endOrders c.x else closed)))
        ∧ (event = 1 → heard.winder.out = none → s.deliver i l = taken.settlePlan)
        ∧ (event = 2 → s.deliver i l = (taken.rollRemoved .a).settlePlan)
        ∧ (event = 3 → s.deliver i l = (taken.rollRemoved .b).settlePlan)
        ∧ (3 < event → s.deliver i l = taken.settlePlan)))
  ∧ (∀ (s : State) (sp : Spindle),
    (∀ before r after, s.rolls.queue = before ++ r :: after → (s.rolls.queue.map RollRec.seq).Nodup →
      (∀ q ∈ before, q.spindle ≠ sp ∨ q.removed = true) → r.spindle = sp → r.removed = false →
      s.rollRemoved sp = { s with rolls := { s.rolls with queue :=
        before ++ { r with removed := true, label := if r.label = .printed then .applied else r.label } :: after } })
    ∧ ((∀ q ∈ s.rolls.queue, q.spindle ≠ sp ∨ q.removed = true) →
        (∀ before c after, s.winder.closing = before ++ c :: after →
          (∀ d ∈ before, d.roll.spindle ≠ sp ∨ d.removed = true) → c.roll.spindle = sp → c.removed = false →
          s.rollRemoved sp = { s with winder := { s.winder with
            closing := before ++ { c with removed := true } :: after } })
        ∧ ((∀ d ∈ s.winder.closing, d.roll.spindle ≠ sp ∨ d.removed = true) → s.rollRemoved sp = s)))
  ∧ (∀ (s : State) (x y : Int) (n : Nat), n < 8 → n < s.ord.orders.length → (s.order n).st = .ending →
    (s.order n).endAt = some y →
    let t := s.endOrders x
    (x < y → t.order n = s.order n)
    ∧ (y ≤ x → (t.order n).st = .done ∧ (t.order n).currentRoll = 0 ∧ t.readByte (0x0471 + 128 * n) = 5
        ∧ t.readByte (0x0478 + 128 * n) = (if (s.order n).byWithdrawal then 2 else 1) ∧ t.noticed .order = true
        ∧ (s.ord.active = some n → (s.order n).changeover = .stopped → t.ord.hold = true ∧ t.ord.active = none
            ∧ (s.fault.st = .normal ∨ s.fault.st = .alert →
                t.fault.st = .stopped ∧ t.fault.stopA = false ∧ t.fault.stopB = false))))

/-- The class flags of a composed record (R105, R106), in the order of the roll flags: SHORT (bit 0), REMNANT (bit 1), WASTE (bit 2)
and OVERLENGTH (bit 10); and the remnant setting's range and default. The target is that of the order of the roll's first unit. -/
def Obligations.RollClassFlags : Prop :=
  (∀ (s : State) (c : ClosingRoll) (seq number : Nat),
    let flags := (s.rollRecord c seq number).flags
    let length := (c.roll.units.map (fun u => u.lFin.getD 0)).sum
    (flags.getLsbD 0 = true ↔ c.close.target = false ∧
      length < roundHalfAway ((s.recordBody c).target * 100000) s.feP)
    ∧ (∀ u rest, c.roll.units = u :: rest → (s.recordBody c).target = (s.body u.order).target)
    ∧ (flags.getLsbD 1 = true ↔ length < roundHalfAway (s.setting 50 * 100000) s.feP)
    ∧ (flags.getLsbD 10 = true ↔ c.deferred = true ∧ c.close.target = true)
    ∧ (flags.getLsbD 2 = true ↔
        (c.roll.opening.spliceBefore = true ∧ c.close.spliceAfter = true) ∨ c.close.changeover = true
        ∨ (c.deferred = true ∧ (c.close.batch = true ∨ c.close.orderEnd = true))
        ∨ (∃ u ∈ c.roll.units.tail, u.flags.boundary = true)
        ∨ c.roll.units = [] ∨ (∃ u ∈ c.roll.units, ∃ v ∈ c.roll.units, u.order ≠ v.order)))
  ∧ (∀ f : Nat → Int, fieldOk f 50 = true ↔ 0 ≤ f 50 ∧ f 50 ≤ 100000) ∧ defaultSettings[49]? = some 10000

/-! ## The station link (chapter 8) -/

/-- A link cycle with no frame out (R139, R142, R143, R144): the frame's header, its length and its check; twelve ENUMERATE slots
while enumerating; else one slot per position 1…n, a PRESENT settled node's oldest command with the next count of its counter
leaving its queue. Only the link and the shade unit's requests change. A frame still out first counts as not returned. A position
beyond the node table has an IDLE slot, the model's choice (log 50). -/
def Obligations.LinkCycleSendsFrame : Prop :=
  ∀ s : State,
    (s.link.out.isSome = true → exec .linkCycle s = .next (s.frameFailed false).sendFrame)
    ∧ (s.link.out = none → ∃ t f, exec .linkCycle s = .next t ∧ t.link.out = some f
      ∧ t = { s with link := t.link, shade := { s.shade with queue := t.shade.queue } }
      ∧ t.link.cycle = (s.link.cycle + 1) % 65536 ∧ f.enumerate = s.link.enumerating
      ∧ (s.link.enumerating = true → f.slots.length = 12)
      ∧ (s.link.enumerating = false → s.link.nodes.length = min s.link.n 12 → f.slots.length = s.link.n)
      ∧ (s.link.enumerating = false → ∀ i x, s.link.nodes.length ≤ i → f.slots[i]? = some x →
          x.carries = .idle ∧ x.bytes.toList.getD 0 0 = 0)
      ∧ t.link.tx.length = 6 + 10 * f.slots.length
      ∧ t.link.tx.take 4 = [if s.link.enumerating then 2 else 1, byte s.link.cycle, byte (s.link.cycle / 256), 0]
      ∧ t.link.tx.drop (4 + 10 * f.slots.length) =
          [byte (frameCheck (t.link.tx.take (4 + 10 * f.slots.length)) / 256),
           byte (frameCheck (t.link.tx.take (4 + 10 * f.slots.length)))]
      ∧ (∀ i x, f.slots[i]? = some x → (t.link.tx.drop (4 + 10 * i)).take 10 = x.bytes.toList)
      ∧ (s.link.enumerating = true → t.link.nodes = s.link.nodes
          ∧ ∀ x ∈ f.slots, x.carries = .enumerate ∧ x.bytes.toList = [1, 0, 0, 0, 0, 0, 0, 0, 0, 0])
      ∧ (s.link.enumerating = false → ∀ (i : Nat) (n : Node), s.link.nodes[i]? = some n →
          ∃ x, f.slots[i]? = some x
            ∧ (∀ c rest, n.st = .present → n.settled = true → n.waiting = c :: rest →
                x.carries = .command c ∧ x.bytes.toList.getD 0 0 = byte c.encode.1
                ∧ x.bytes.toList.getD 1 0 = byte (if n.expected < 15 then n.expected + 1 else 1)
                ∧ t.link.nodes[i]? = some { n with waiting := rest })
            ∧ (n.st = .configuring → x.carries = .configure ∧ x.bytes.toList.take 4 =
                [2, byte (if n.expected < 15 then n.expected + 1 else 1), byte (i + 1), byte n.station]
                ∧ t.link.nodes[i]? = some n)
            ∧ (n.st = .silent ∨ n.st = .mismatched ∨ (n.st = .present ∧ (n.settled = false ∨ n.waiting = [])) →
                x.carries = .idle ∧ x.bytes.toList.getD 0 0 = 0 ∧ x.bytes.toList.getD 1 0 = byte n.expected
                ∧ t.link.nodes[i]? = some n)))

/-- Enumeration (R142, R143, R170, R182): of two good ENUMERATE frames in a row with the same chain the first is remembered, and the
second builds the table, each node CONFIGURING with its kind, serial number and counter, takes the part to CONFIG, starts the
sweep timer and latches LINK. -/
def Obligations.EnumerationEnds : Prop :=
  ∀ (s : State) (f : Frame) (hop : Byte) (slots : List Slot),
    s.link.out = some f → f.enumerate = true →
    let chain := chainOf hop.toNat f slots
    ((∀ d, s.link.lastChain = some d → d.same chain = false) →
      exec (.frameReturn hop slots) s = .next { s with link := { s.link with out := none, lastChain := some chain } })
    ∧ (∀ d, s.link.lastChain = some d → d.same chain = true →
      ∃ t, exec (.frameReturn hop slots) s = .next t
        ∧ t.port.phase = .config ∧ t.port.sweepTimer = true ∧ t.noticed .link = true ∧ t.readByte 0x04 = 1
        ∧ t.link.enumerating = false ∧ t.link.n = hop.toNat ∧ t.link.stale = false ∧ t.link.out = none
        ∧ t.link.nodes.map (fun n => (n.kind, n.serial, n.expected, n.st)) =
            chain.nodes.map (fun g => (g.kind, g.serial, g.counter, .configuring))
        ∧ (∀ n ∈ t.link.nodes, n.settled = true ∧ n.silent = 0)
        ∧ t.track = s.track ∧ t.coord = s.coord ∧ t.settings = s.settings ∧ t.rolls = s.rolls ∧ t.ord = s.ord)

/-- A good CYCLE frame with the table's hop count (R145, R146): the bad-frame run ends, the slots are judged, the requests in flight
count the frame, and the planner comes to rest; with no frame out nothing happens. A PRESENT node that shows no restart: a counter that
executed the command becomes the expected count, and the value is delivered; another counter settles the count too, and the command is
lost with COMMAND_LOST, settled or not; with IDLE in the slot an unsettled count settles, a settled one that agrees stands, and one
that does not settles with COMMAND_LOST. A MISMATCHED node that shows its table kind again is judged so, restarts included, but stays
MISMATCHED and has nothing delivered (log 58); with another kind nothing is judged. A CONFIGURING node whose CONFIGURE was executed
goes to PRESENT before the value is delivered; with another counter or a status it stays (R143). The counter 0 where another was
expected is a restart: NODE_RESTARTED, the block told, CONFIGURING with nothing waiting and count 0, and the slot's command lost (R147).
Another kind makes the node MISMATCHED: the table stale, the slot's command lost first (log 59), nothing waiting, and in OPERATING
ARRANGEMENT active at its position (R152). A hop count other than the table's makes the table stale, and in OPERATING raises
ARRANGEMENT where none is active, behind the shorter chain (R153), before the slots are judged. The order of slots and hop count
(log 8), a missing slot taken as unanswered (log 30), and how an unsettled count is judged (log 18) are the model's choices. -/
def Obligations.CycleFrameJudged : Prop :=
  ∀ s : State,
    (s.link.out = none → ∀ hop slots, exec (.frameReturn hop slots) s = .next s)
    ∧ (∀ (f : Frame) (hop : Byte) (slots : List Slot), s.link.out = some f → f.enumerate = false → hop.toNat = s.link.n →
        exec (.frameReturn hop slots) s = .next (State.settlePlan (State.countCycles
          (State.judgeSlots { s with link := { s.link with out := none, badRun := 0 } } 0 f.slots slots))))
    ∧ (∀ (i : Nat) (n : Node) (sent : SentSlot) (l : List Byte),
        s.link.nodes[i]? = some n → n.st = .present →
        (l.getD 1 0).toNat / 16 = n.kind → ((l.getD 1 0).toNat % 16 = 0 → n.expected = 0) →
        let counter := (l.getD 1 0).toNat % 16
        let heard := s.setNode i (fun m => { m with silent := 0 })
        let settled (x : State) : State := x.setNode i (fun m => { m with expected := counter, settled := true })
        let t := s.judgeReply i sent l
        (∀ c, sent.carries = .command c →
          (counter = (sent.bytes.toList.getD 1 0).toNat → t = (settled heard).deliver i l)
          ∧ (counter ≠ (sent.bytes.toList.getD 1 0).toNat →
            t = (settled ((heard.slotLost i sent.carries).raise commandLost (i + 1))).deliver i l))
        ∧ (sent.carries = .idle →
          (n.settled = false → t = (settled heard).deliver i l)
          ∧ (n.settled = true → counter = n.expected → t = heard.deliver i l)
          ∧ (n.settled = true → counter ≠ n.expected → t = ((settled heard).raise commandLost (i + 1)).deliver i l)))
    ∧ (∀ (i : Nat) (n : Node) (sent : SentSlot) (l : List Byte), s.link.nodes[i]? = some n → n.st = .mismatched →
        let counter := (l.getD 1 0).toNat % 16
        let heard := s.setNode i (fun m => { m with silent := 0 })
        let settled (x : State) : State := x.setNode i (fun m => { m with expected := counter, settled := true })
        let t := s.judgeReply i sent l
        (∀ st, s.nodeTo i st = s)
        ∧ ((l.getD 1 0).toNat / 16 ≠ n.kind → t = heard)
        ∧ ((l.getD 1 0).toNat / 16 = n.kind →
          (counter = 0 → n.expected ≠ 0 → t = heard.restarted i sent.carries)
          ∧ ((counter = 0 → n.expected = 0) → sent.carries = .idle →
            (n.settled = false → t = settled heard)
            ∧ (n.settled = true → counter = n.expected → t = heard)
            ∧ (n.settled = true → counter ≠ n.expected → t = (settled heard).raise commandLost (i + 1)))))
    ∧ (∀ (i : Nat) (n : Node) (sent : SentSlot) (l : List Byte), s.link.nodes[i]? = some n → n.st = .configuring →
        sent.carries = .configure → (l.getD 1 0).toNat / 16 = n.kind → ((l.getD 1 0).toNat % 16 = 0 → n.expected = 0) →
        let counter := (l.getD 1 0).toNat % 16
        let q := (sent.bytes.toList.getD 1 0).toNat
        let heard := s.setNode i (fun m => { m with silent := 0 })
        let settle (x : State) : State := x.setNode i (fun m => { m with expected := counter, settled := true })
        let settled := settle heard
        let t := s.judgeReply i sent l
        (counter = q → l.getD 0 0 = 0 →
          t = (settled.nodePresents i).deliver i l
          ∧ (settled.nodePresents i).noticed .link = true
          ∧ (∃ m, (settled.nodePresents i).link.nodes[i]? = some m ∧ m.st = .present ∧ m.expected = counter))
        ∧ (counter = q → l.getD 0 0 ≠ 0 → t = settled.deliver i l)
        ∧ (counter ≠ q → t = (settle (heard.raise commandLost (i + 1))).deliver i l))
    ∧ (∀ (i : Nat) (n : Node) (sent : SentSlot) (l : List Byte), s.link.nodes[i]? = some n → n.st = .present →
        (l.getD 1 0).toNat / 16 = n.kind → (l.getD 1 0).toNat % 16 = 0 → n.expected ≠ 0 →
        let heard := s.setNode i (fun m => { m with silent := 0 })
        let told := State.tellRestart ((heard.raise nodeRestarted (i + 1)).setNode i
          (fun m => { m with expected := 0, settled := true })) i
        let r := heard.restarted i sent.carries
        r = ((((told.nodeTo i .configuring).slotLost i sent.carries).clear nodeSilent (i + 1)).setNode i
            (fun m => { m with lastEvent := 0 }))
        ∧ s.judgeReply i sent l = r.deliver i l
        ∧ r.noticed .link = true
        ∧ (∃ m, r.link.nodes[i]? = some m ∧ m.st = .configuring ∧ m.expected = 0 ∧ m.settled = true ∧ m.waiting = []
            ∧ m.lastEvent = 0))
    ∧ (∀ (i : Nat) (n : Node) (sent : SentSlot) (l : List Byte), s.link.nodes[i]? = some n → n.st ≠ .mismatched →
        (l.getD 1 0).toNat / 16 ≠ n.kind →
        let lost := State.slotLost { s with link := { s.link with
          nodes := s.link.nodes.set i { n with silent := 0 }, stale := true } } i sent.carries
        let left := (lost.nodeTo i .mismatched).clear nodeSilent (i + 1)
        let t := s.judgeReply i sent l
        t = (if s.port.phase = .operating ∧ left.faultActive arrangementFault (i + 1) = false then
            left.raise arrangementFault (i + 1) else left)
        ∧ t.link.stale = true ∧ t.noticed .link = true ∧ t.faultActive nodeSilent (i + 1) = false
        ∧ (s.port.phase = .operating → t.faultActive arrangementFault (i + 1) = true)
        ∧ (∃ m, t.link.nodes[i]? = some m ∧ m.st = .mismatched ∧ (n.st = .present → m.waiting = [])))
    ∧ (∀ (f : Frame) (hop : Byte) (slots : List Slot), s.link.out = some f → f.enumerate = false → hop.toNat ≠ s.link.n →
        let stale : State := { s with link := { s.link with out := none, badRun := 0, stale := true } }
        let u := if s.port.phase = .operating ∧ (∀ a ∈ s.fault.active, a.code ≠ arrangementFault) then
          stale.raise arrangementFault (min hop.toNat s.link.n + 1) else stale
        exec (.frameReturn hop slots) s =
          .next (State.settlePlan (State.countCycles (State.judgeSlots u 0 f.slots slots)))
        ∧ (s.port.phase = .operating → ∃ a ∈ u.fault.active, a.code = arrangementFault))

/-- A bad frame (R142, R145): with none out nothing happens; a bad ENUMERATE frame breaks the pair; a bad CYCLE frame leaves every node
unheard once more and counts in the bad-frame run, the requests in flight count it and the planner comes to rest. A slot that
carried a command has it reported lost to its block, which acts by its own rule (R40, R59, R66, R99), and leaves the node's count
unsettled, and so does CONFIGURE but for the report; an IDLE slot does neither. A PRESENT node unheard for the third time is
SILENT, with NODE_SILENT active and LINK latched. A lost PHASE TRIM ends SETTLING with reload pending, and where the last settle
unit's block is due to close at that moment its mark is not used for the reload, as log 62 reads it (R40). That
the slots are taken in chain order is the model's choice (log 8). -/
def Obligations.BadFrameUnheard : Prop :=
  ∀ s : State,
    (s.link.out = none → exec .frameReturnBad s = .next s)
    ∧ (∀ f, s.link.out = some f → f.enumerate = true →
        exec .frameReturnBad s = .next { s with link := { s.link with out := none, lastChain := none } })
    ∧ (∀ f, s.link.out = some f → f.enumerate = false →
        exec .frameReturnBad s = .next (State.settlePlan (State.countCycles (State.badFrame
          (State.allUnanswered { s with link := { s.link with out := none } } 0 f.slots)))))
    ∧ (∀ f, s.link.out = some f → f.enumerate = false → (∀ x ∈ f.slots, x.carries = .idle) →
        f.slots.length = s.link.nodes.length → (∀ n ∈ s.link.nodes, n.silent + 1 < 3) → s.link.badRun < 99 →
        exec .frameReturnBad s = .next (State.settlePlan (State.countCycles { s with link := { s.link with
          out := none, badRun := s.link.badRun + 1,
          nodes := s.link.nodes.map (fun n => { n with silent := n.silent + 1 }) } })))
    ∧ (∀ i x rest, s.allUnanswered i (x :: rest) = (s.slotUnanswered i x.carries).allUnanswered (i + 1) rest)
    ∧ (∀ (i : Nat) (n : Node) (c : SlotCmd), s.link.nodes[i]? = some n → c ≠ .idle →
        let t := s.slotUnanswered i c
        t = ((s.slotLost i c).setNode i (fun m => { m with settled := false })).nodeUnheard i
        ∧ ∃ m, t.link.nodes[i]? = some m ∧ m.settled = false ∧ m.expected = n.expected ∧ m.silent = min 3 (n.silent + 1))
    ∧ (∀ i, s.slotLost i .configure = s ∧ s.slotLost i .idle = s)
    ∧ (∀ i st v, s.ownerOf i = some (.station st) → s.slotLost i (.command (.phaseTrim v)) = s.setLoop st (fun l =>
        if l.st = .settling then { l with
          st := .tracking, settle := 0, reload := true,
          spent := match s.reg.block with
            | some b => if l.settle ≤ 1 ∧ b.closeAfter < s.posH then some b.r else l.spent
            | none => l.spent } else l))
    ∧ (∀ i v, s.ownerOf i = some .emboss → s.slotLost i (.command (.phaseTrim v)) =
        { s with emb := { s.emb with settle := 0, reload := s.emb.reload || decide (0 < s.emb.settle) } })
    ∧ (∀ i, s.ownerOf i = some .emboss → s.slotLost i (.command .engage) = s.engageLost
        ∧ s.slotLost i (.command .lift) = s.liftLost)
    ∧ (∀ i v, s.ownerOf i = some .draw → s.slotLost i (.command (.drawTrim v)) =
        State.sendDraw { s with draw := { s.draw with settle := s.drawSettleLength } })
    ∧ (∀ i v serial, s.ownerOf i = some .winder → (∀ c, s.winder.out = some c → c.serial ≠ serial) →
        s.slotLost i (.command (.cutIn v serial)) = s)
    ∧ (∀ i v c, s.ownerOf i = some .winder → s.winder.out = some c →
        (c.resent = true ∨ s.remaining c.x ≤ 0 → s.slotLost i (.command (.cutIn v c.serial)) = s.giveUpCut))
    ∧ (∀ i v c n, s.ownerOf i = some .winder → s.winder.out = some c → c.resent = false → 0 < s.remaining c.x →
        s.link.nodes[i]? = some n → n.st = .present → n.waiting.length < 10 →
        s.slotLost i (.command (.cutIn v c.serial)) = { s with
          winder := { s.winder with out := some { c with resent := true } },
          link := { s.link with
            nodes := s.link.nodes.set i { n with waiting := n.waiting ++ [.cutIn (s.remaining c.x) c.serial] } } })
    ∧ (∀ (i : Nat) (n : Node), s.link.nodes[i]? = some n → n.st = .present → n.silent = 2 → n.waiting = [] →
        let t := s.nodeUnheard i
        (∃ m, t.link.nodes[i]? = some m ∧ m.st = .silent ∧ m.silent = 3) ∧ t.faultActive nodeSilent (i + 1) = true
        ∧ t.noticed .link = true)

/-! ## Faults and the line stop (chapter 9) -/

/-- A raise and a clear (R156, R157, R159): a condition-type raise puts the fault into the active-fault set once and keeps the others;
an event-type raise leaves the set as it is; a STOP reaction takes NORMAL or ALERT to STOPPED with both lines low and STOP latched;
a clear takes the fault alone out of the set, and of a fault not in it changes nothing. In CONFIG and STOPPED the state stands. And
the fault list in exchange memory (R162, R163, R164, R165): a raise that joins no entry uses up an entry sequence and writes its
entry into the lowest free slot, the next tag last, with FAULT latched and the counter advanced, or drops it and counts it in the
header; a raise that joins one counts it there; a clear writes CLEARED at the present H. Each changes no other slot. -/
def Obligations.RaiseAndClear : Prop :=
  ∀ (s : State) (code subject : Nat),
    let f : FaultId := { code := code, subject := subject }
    let t := s.raiseCore code subject
    let u := s.clearCore code subject
    let event := isEventKind code
    let at_ (n : Nat) : Nat := 0x1500 + 32 * n
    let next (v : Nat) : Nat := if v < 255 then v + 1 else 1
    let tagged (x : State) (n : Nat) : Prop :=
      let old := (s.readByte (at_ n)).toNat
      let ack := (s.readByte (at_ n + 2)).toNat
      (x.readByte (at_ n)).toNat = (if next old = ack then next (next old) else next old)
      ∧ x.port.counter = (if s.port.counter < 255 then s.port.counter + 1 else 1)
      ∧ ∀ a, 0x40 ≤ a → a < at_ n ∨ at_ n + 32 ≤ a → x.readByte a = s.readByte a
    let joins (n : Nat) : Prop := if event then s.joinableEntry code subject = some n
      else f ∈ s.fault.active ∧ s.activeEntry code subject = some n
    let sequence := if s.fault.entrySeq < 65535 then s.fault.entrySeq + 1 else 1
    (t.fault.active = if isEventKind code = false ∧ f ∉ s.fault.active then s.fault.active ++ [f] else s.fault.active)
    ∧ (s.reactionOf code = .stop → s.fault.st = .normal ∨ s.fault.st = .alert →
        t.fault.st = .stopped ∧ t.fault.stopA = false ∧ t.fault.stopB = false ∧ t.noticed .stop = true)
    ∧ (s.fault.st = .config ∨ s.fault.st = .stopped → t.fault.st = s.fault.st ∧ u.fault.st = s.fault.st)
    ∧ (isEventKind code = true → s.reactionOf code = .mark ∨ s.reactionOf code = .lift →
        t.fault.pulse = (if s.fault.pulse.code < (s.reactionOf code).code then s.reactionOf code else s.fault.pulse))
    ∧ (f ∉ s.fault.active → u = s)
    ∧ (u.fault.active = s.fault.active.filter (fun g => decide (g ≠ f)))
    ∧ ((∀ n, ¬ joins n) →
        t.fault.entrySeq = sequence
        ∧ (∀ n, n < 32 → s.fault.free[n]? = some true → (∀ m, m < n → s.fault.free[m]? ≠ some true) →
            t.fault.free = s.fault.free.set n false ∧ t.noticed .fault = true ∧ tagged t n
            ∧ t.readBytes (at_ n + 4) 28 =
                natBytes 2 sequence ++ [byte code, byte subject, if event then 2 else 1, byte (s.reactionOf code).code]
                ++ natBytes 2 1 ++ natBytes 6 s.coord.h.toNat ++ natBytes 2 s.track.lastNumber
                ++ (match s.ord.active with
                    | some o => intBytes 4 (s.body o).ref ++ natBytes 2 (s.order o).currentRoll
                    | none => List.replicate 6 0)
                ++ (if event then natBytes 6 s.coord.h.toNat else List.replicate 6 0))
        ∧ ((∀ v ∈ s.fault.free, v = false) →
            t.readNat 0x0C 2 = min 65535 (s.readNat 0x0C 2 + 1) ∧ t.port.counter = s.port.counter
            ∧ (∀ a, a ≠ 0x0C → a ≠ 0x0D → t.readByte a = s.readByte a)))
    ∧ (∀ n, joins n →
        t.fault.entrySeq = s.fault.entrySeq ∧ t.fault.free = s.fault.free ∧ tagged t n
        ∧ t.readNat (at_ n + 0x0A) 2 = min 65535 (s.readNat (at_ n + 0x0A) 2 + 1)
        ∧ t.readByte (at_ n + 0x09) = byte (s.reactionOf code).code
        ∧ t.readBytes (at_ n + 4) 5 = s.readBytes (at_ n + 4) 5
        ∧ t.readBytes (at_ n + 0x0C) 14 = s.readBytes (at_ n + 0x0C) 14
        ∧ t.readBytes (at_ n + 0x1A) 6 =
            (if event then natBytes 6 s.coord.h.toNat else s.readBytes (at_ n + 0x1A) 6))
    ∧ (∀ n, f ∈ s.fault.active → s.activeEntry code subject = some n →
        u.noticed .fault = true ∧ tagged u n ∧ u.readByte (at_ n + 0x08) = 2
        ∧ u.readByte (at_ n + 0x09) = byte (s.reactionOf code).code
        ∧ u.readBytes (at_ n + 4) 4 = s.readBytes (at_ n + 4) 4
        ∧ u.readBytes (at_ n + 0x1A) 6 = natBytes 6 s.coord.h.toNat)

/-- RESUME (R160): taken when STOPPED with no STOP-class fault active, it leaves STOPPED with the first STOP line high; in CONFIG,
NORMAL and ALERT, and with a STOP-class fault active, it changes nothing. -/
def Obligations.ResumeLeavesStopped : Prop :=
  ∀ s : State,
    (s.fault.st ≠ .stopped ∨ (∃ f ∈ s.fault.active, s.reactionOf f.code = .stop) → exec .resume s = .next s)
    ∧ (s.fault.st = .stopped → s.port.phase ≠ .starting → (∀ f ∈ s.fault.active, s.reactionOf f.code ≠ .stop) →
        let t := s.faultToRunning
        t.fault.stopA = true ∧ t.fault.stopB = false ∧ t.fault.active = s.fault.active
        ∧ t.fault.st = (if 1 ≤ ({ s with fault := { s.fault with st := .normal } } : State).reaction.code then .alert else .normal)
        ∧ exec .resume s = .next (State.settlePlan
            (if s.ord.hold then State.testActivation { t.settle with ord := { t.settle.ord with hold := false } } else t.settle)))

/-- The STOP pair (R161): half a millisecond inverts both lines in NORMAL and ALERT and nothing else, and in CONFIG and STOPPED nothing
happens. -/
def Obligations.StopPairToggles : Prop :=
  ∀ s : State,
    (s.fault.st = .normal ∨ s.fault.st = .alert → exec .lineStopToggle s = .next { s with fault := { s.fault with
      stopA := !s.fault.stopA, stopB := !s.fault.stopB } })
    ∧ (s.fault.st = .config ∨ s.fault.st = .stopped → exec .lineStopToggle s = .next s)

/-! ## The exchange port (chapter 10) -/

/-- Host writes (R167, R173). A write to exchange memory stores the word at the even address when the host owns it, changing those
two bytes and nothing else, and is discarded otherwise. A write to NOTICE clears exactly the factors whose bits are 1. -/
def Obligations.HostWritesTaken : Prop :=
  ∀ s : State,
    (∀ (a : BitVec 13) (v : Word), hostOwned (2 * (a.toNat / 2)) = false → exec (.exchangeWrite a v) s = .next s)
    ∧ (∀ (a : BitVec 13) (v : Word), hostOwned (2 * (a.toNat / 2)) = true →
        ∃ t, exec (.exchangeWrite a v) s = .next t ∧ t = { s with mem := t.mem } ∧ t.hostReadWord a = v
          ∧ (∀ x, x ≠ 2 * (a.toNat / 2) → x ≠ 2 * (a.toNat / 2) + 1 → t.readByte x = s.readByte x)
          ∧ t.readByte (2 * (a.toNat / 2)) = v.setWidth 8 ∧ t.readByte (2 * (a.toNat / 2) + 1) = (v >>> 8).setWidth 8)
    ∧ (∀ v : Word, ∃ t, exec (.noticeWrite v) s = .next t ∧ t = { s with port := { s.port with notice := t.port.notice } }
        ∧ ∀ i, t.port.notice.getLsbD i = (s.port.notice.getLsbD i && !v.getLsbD i))

/-- ROUTE and the two notice lines (R174): NOTICE-R is asserted exactly while a set factor is routed 1, NOTICE-U exactly while one is
routed 2 or 3; a write replaces all seven routings and bits 15 and 14 are not used; ROUTE is 0 and both lines released at power-on
and the reset pin; LINE RESET keeps ROUTE and releases both lines. -/
def Obligations.RouteAndLines : Prop :=
  ∀ s : State,
    (s.noticeR = true ↔ ∃ f, f < 7 ∧ s.port.notice.getLsbD f = true ∧ s.port.route.toNat / 4 ^ f % 4 = 1)
    ∧ (s.noticeU = true ↔ ∃ f, f < 7 ∧ s.port.notice.getLsbD f = true ∧
        (s.port.route.toNat / 4 ^ f % 4 = 2 ∨ s.port.route.toNat / 4 ^ f % 4 = 3))
    ∧ (∀ v : Word, ∃ t, exec (.routeWrite v) s = .next t ∧ t = { s with port := { s.port with route := t.port.route } }
        ∧ (∀ f, f < 7 → t.port.route.toNat / 4 ^ f % 4 = v.toNat / 4 ^ f % 4) ∧ t.port.route.toNat < 2 ^ 14)
    ∧ (∀ c t, c = .powerOn ∨ c = .resetPin → exec c s = .next t →
        t.port.route = 0 ∧ t.noticeR = false ∧ t.noticeU = false)
    ∧ (∀ t, s.port.phase ≠ .starting → exec .lineReset s = .next t →
        t.port.route = s.port.route ∧ t.noticeR = false ∧ t.noticeU = false)

/-- STATUS (R172): its four fields as they stand, bits 6 to 4 being 0 when no order is active; a write to it is discarded; and it reads
0 at power-on and at the reset pin. -/
def Obligations.StatusShowsFields : Prop :=
  ∀ s : State,
    (s.readRegister 0).toNat % 4 = s.port.phase.code
    ∧ (s.readRegister 0).toNat / 4 % 4 = s.fault.st.code
    ∧ (s.readRegister 0).toNat / 256 = s.port.counter % 256
    ∧ (∀ n, s.ord.active = some n → n < 8 →
        (s.readRegister 0).toNat / 16 % 8 = n ∧ (s.readRegister 0).toNat / 128 % 2 = 1)
    ∧ (s.ord.active = none → (s.readRegister 0).toNat / 16 % 8 = 0 ∧ (s.readRegister 0).toNat / 128 % 2 = 0)
    ∧ (∀ v, exec (.registerWrite .status v) s = .next s)
    ∧ (∀ c t, c = .powerOn ∨ c = .resetPin → exec c s = .next t → t.readRegister 0 = 0)

/-- CONTROL (R175): each code is its command; any other code is ignored; in STARTING every write is discarded, whatever its code; and
CONTROL reads 0, so that nothing is left waiting in it. -/
def Obligations.ControlWrites : Prop :=
  ∀ s : State,
    exec (.registerWrite .control 1) s = exec .attention s ∧ exec (.registerWrite .control 2) s = exec .freeze s
    ∧ exec (.registerWrite .control 3) s = exec .thaw s ∧ exec (.registerWrite .control 4) s = exec .resume s
    ∧ exec (.registerWrite .control 5) s = exec .enterConfig s ∧ exec (.registerWrite .control 6) s = exec .leaveConfig s
    ∧ exec (.registerWrite .control 7) s = exec .lineReset s
    ∧ (∀ v : Word, v = 0 ∨ 7 < v.toNat → exec (.registerWrite .control v) s = .next s)
    ∧ (∀ v, s.port.phase = .starting → exec (.registerWrite .control v) s = .next s)
    ∧ s.readRegister 6 = 0

/-- The printer report (R116): a STATUS sets it; no other command changes it but power-on and the reset pin, which make it none; so
LINE RESET keeps it; and only READY lets a label job start. -/
def Obligations.PrinterReportStands : Prop :=
  (∀ s : State, ∀ b : Byte, b = 0 ∨ b = 1 →
    ∃ t, exec (.labelStatus [b]) s = .next t ∧ t.rolls.printer = some (decide (b = 1))
      ∧ (s.rolls.job.isSome = true → t.rolls.job = s.rolls.job ∧ t.rolls.queue = s.rolls.queue))
  ∧ (∀ (c : Instr) (s t : State), exec c s = .next t →
      (c = .powerOn ∨ c = .resetPin → t.rolls.printer = none)
      ∧ (c ≠ .powerOn → c ≠ .resetPin → (∀ body, c ≠ .labelStatus body) → t.rolls.printer = s.rolls.printer))
  ∧ (∀ (s : State) (n : Nat), s.rolls.printer ≠ some true → s.rolls.job = none → (s.labelTest n).rolls.job = none)

/-- Sweeps (R170, R171): ATTENTION outside STARTING, and the sweep timer once it runs, start a sweep when none runs and leave one
pending when one does; the end of a sweep lets the blocks act on it and starts the pending one at once; with none running it is
nothing. The order unit acts first (R124): on every WITHDRAW in slot order, with the activation test where one has ended the active
order; then on the new posts, ordered by the sequence number in their bodies and then by slot; then it tests activation. A post
refused with SLOT_BUSY is forgotten where the tags are equal or the command is WITHDRAW, as log 65 reads it (R125). Then the ready records
move into the free roll slots in slot order, whose number is kept (R120, R171), and for each fault slot it is noted whether its tags are
equal, and the slot of a CLEARED entry so acknowledged becomes free (R163, R164). That the whole sweep acts at its end is the model's
choice (log 6), and so is that the planner's report of a withdrawal's end comes after the posts (log 57). -/
def Obligations.SweepsAskedAndEnded : Prop :=
  ∀ s : State,
    let asked : State := { s with port := { s.port with
      sweepRunning := true, sweepPending := s.port.sweepPending || s.port.sweepRunning } }
    (s.port.phase ≠ .starting → exec .attention s = .next asked)
    ∧ (s.port.phase = .starting → exec .attention s = .next s)
    ∧ (s.port.sweepTimer = true → exec .sweepTimer s = .next asked)
    ∧ (s.port.sweepTimer = false → exec .sweepTimer s = .next s)
    ∧ (s.port.sweepRunning = false → exec .sweepEnd s = .next s)
    ∧ (s.port.sweepRunning = true → ∃ t, exec .sweepEnd s = .next t
        ∧ t.port = { s.port with
            notice := s.sweepPass.port.notice, counter := s.sweepPass.port.counter,
            sweepRunning := s.port.sweepPending, sweepPending := false }
        ∧ t = { s.sweepPass with port := t.port }
        ∧ s.leavesInputs s.sweepPass)
    ∧ (let withdrawn := ((List.range 8).filter (fun n => decide (s.readByte (0x0401 + 128 * n) = 2))).foldl
          (fun s n => s.withdraw n) s
      let w := if s.ord.active.isSome = true ∧ withdrawn.ord.active = none then withdrawn.testActivation else withdrawn
      let tag (n : Nat) : Byte := w.readByte (0x0400 + 128 * n)
      let part (n : Nat) : Byte := w.readByte (0x0470 + 128 * n)
      let command (n : Nat) : Byte := w.readByte (0x0401 + 128 * n)
      let slots := (List.range 8).filter (fun n => decide (command n = 1 ∧ tag n ≠ 0 ∧ tag n ≠ part n))
      ∃ (posts : List Nat) (x : State),
        posts.Perm slots
        ∧ posts.Pairwise (fun m n => (w.readBody m).seq < (w.readBody n).seq ∨ ((w.readBody m).seq = (w.readBody n).seq ∧ m < n))
        ∧ x = { w with ord := { w.ord with orders := x.ord.orders } }
        ∧ (∀ n, n < 8 → x.order n =
            if tag n = part n ∨ command n = 2 then { w.order n with busyTag := 0 } else w.order n)
        ∧ (let orders := State.settlePlan (State.testActivation (posts.foldl (fun s n => s.dealPost n) x))
          let free := (List.range 32).filter (fun n => decide (orders.readByte (0x0800 + 96 * n) = 0
            ∨ orders.readByte (0x0800 + 96 * n) = orders.readByte (0x0802 + 96 * n)))
          let moved := State.settlePlan (State.moveRecords
            { orders with rolls := { orders.rolls with freeSlots := free.length } } free)
          s.sweepPass = (List.range 32).foldl (fun s n => s.sweepFault n) moved))
    ∧ (∀ n, n < 32 → s.sweepFault n = { s with fault := { s.fault with
        acked := s.fault.acked.set n (decide (s.readByte (0x1500 + 32 * n) = s.readByte (0x1502 + 32 * n))),
        free := s.fault.free.set n (s.fault.free.getD n false
          || decide (s.readByte (0x1500 + 32 * n) = s.readByte (0x1502 + 32 * n)
              ∧ s.readByte (0x1500 + 32 * n) ≠ 0 ∧ s.faultEntryState n = 2)) } })

/-- Refresh and freeze (R176, R177): the moves of the freeze state on FREEZE, THAW, the 20 ms tick and the end of a refresh, with FROZEN
latched on entry to FROZEN, the freeze byte of the image following, and a refresh's number written first and last. In STARTING
FREEZE and THAW are discarded. That the groups are written at the tick and the freeze byte with the state is the model's choice
(log 7). -/
def Obligations.FreezeAndRefresh : Prop :=
  ∀ s : State,
    (s.port.phase = .starting → exec .freeze s = .next s ∧ exec .thaw s = .next s)
    ∧ (s.port.phase ≠ .starting →
        (s.port.freeze ≠ .thawed → exec .freeze s = .next s) ∧ (s.port.freeze = .thawed → exec .thaw s = .next s)
        ∧ (s.port.freeze = .thawed → ∃ t, exec .freeze s = .next t
            ∧ t.port.freeze = (if s.port.refreshRunning then .freezing else .frozen)
            ∧ (s.port.refreshRunning = false → t.noticed .frozen = true) ∧ t.readByte 0x1BFC = byte t.port.freeze.code
            ∧ t = { s with port := { s.port with freeze := t.port.freeze, notice := t.port.notice }, mem := t.mem })
        ∧ (s.port.freeze ≠ .thawed → ∃ t, exec .thaw s = .next t ∧ t.port.freeze = .thawed ∧ t.readByte 0x1BFC = 0
            ∧ t = { s with port := { s.port with freeze := .thawed }, mem := t.mem }))
    ∧ ((s.port.freeze ≠ .thawed ∨ s.port.refreshRunning = true) → exec .refreshTick s = .next s)
    ∧ (s.port.freeze = .thawed → s.port.refreshRunning = false → ∃ t, exec .refreshTick s = .next t
        ∧ t.port = { s.port with
            refreshRunning := true, refreshNo := if s.port.refreshNo < 65535 then s.port.refreshNo + 1 else 1 }
        ∧ t = { s with port := t.port, mem := t.mem }
        ∧ (∀ a, a < 0x1900 ∨ 0x1BFC ≤ a → t.readByte a = s.readByte a)
        ∧ t.readBytes 0x1900 2 = natBytes 2 t.port.refreshNo ∧ t.readBytes 0x1902 6 = intBytes 6 s.posW
        ∧ t.readBytes 0x1908 6 = intBytes 6 s.posWF)
    ∧ (s.port.refreshRunning = false → exec .refreshEnd s = .next s)
    ∧ (s.port.refreshRunning = true → ∃ t, exec .refreshEnd s = .next t
        ∧ t.port.refreshRunning = false ∧ t.port.refreshNo = s.port.refreshNo
        ∧ t.port.freeze = (if s.port.freeze = .freezing then .frozen else s.port.freeze)
        ∧ (s.port.freeze = .freezing → t.noticed .frozen = true)
        ∧ t.readBytes 0x1BFE 2 = natBytes 2 s.port.refreshNo
        ∧ t = { s with port := t.port, mem := t.mem })

/-- A sweep deals with a new post (R123, R124, R125, R126, R127): a busy slot answers SLOT_BUSY once without a tag; in OPERATING a post
that passes is TAKEN, with the host tag as its part tag and its body copied; one that does not is REFUSED with its code and
field, nothing of it kept; out of OPERATING it waits. The activation test (R129, R130) makes the TAKEN order of the lowest sequence
number ACTIVE in OPERATING when no order runs and no hold is in force, and does nothing otherwise. A withdrawal (R136, R137) makes
a TAKEN order WITHDRAWN, an ACTIVE one without a unit DONE, and an ACTIVE one with units ENDING, its end requested at once or
once its second unit's span start is known; in any other state it does nothing. A DONE, REFUSED or WITHDRAWN order that is in
use nowhere has its copy discarded, and every other order keeps it (R123). -/
def Obligations.PostAnswered : Prop :=
  ∀ (s : State) (n : Nat), n < 8 → n < s.ord.orders.length →
    let a := 0x0400 + 128 * n
    let t := s.dealPost n
    (s.slotBusy n = true → (s.order n).busyTag = s.readNat a 1 → t = s)
    ∧ (s.slotBusy n = true → (s.order n).busyTag ≠ s.readNat a 1 →
        t.readByte (a + 0x72) = 8 ∧ t.readByte (a + 0x70) = s.readByte (a + 0x70) ∧ t.noticed .order = true
        ∧ (t.order n).st = (s.order n).st ∧ (t.order n).body = (s.order n).body ∧ t.port.counter = s.port.counter)
    ∧ (s.slotBusy n = false → s.port.phase ≠ .operating → t = s)
    ∧ (s.slotBusy n = false → s.port.phase = .operating → s.judgePost n (s.readBody n) = (0, 0) →
        (t.order n).st = .taken ∧ (t.order n).body = some (s.readBody n)
        ∧ t.readByte (a + 0x70) = s.readByte a ∧ t.readByte (a + 0x71) = 1 ∧ t.readByte (a + 0x72) = 0
        ∧ t.port.counter = (if s.port.counter < 255 then s.port.counter + 1 else 1) ∧ t.noticed .order = true)
    ∧ (∀ code field, s.slotBusy n = false → s.port.phase = .operating → s.judgePost n (s.readBody n) = (code, field) →
        code ≠ 0 →
        (t.order n).st = .refused ∧ (t.order n).body = none
        ∧ t.readByte (a + 0x70) = s.readByte a ∧ t.readByte (a + 0x71) = 2
        ∧ t.readByte (a + 0x72) = byte code ∧ t.readByte (a + 0x73) = byte field
        ∧ t.port.counter = (if s.port.counter < 255 then s.port.counter + 1 else 1) ∧ t.noticed .order = true)
    ∧ (let ready := s.port.phase = .operating ∧ (∀ o ∈ s.ord.orders, o.st ≠ .active ∧ o.st ≠ .ending) ∧ s.ord.hold = false
      let u := s.testActivation
      (¬ ready ∨ (∀ m, m < 8 → (s.order m).st ≠ .taken) → u = s)
      ∧ (ready → (s.order n).st = .taken →
          (∀ m, m < 8 → m ≠ n → (s.order m).st = .taken → (s.body n).seq < (s.body m).seq) →
          u.ord.active = some n ∧ (u.order n).st = .active ∧ (u.order n).body = (s.order n).body
          ∧ (u.order n).produced = 0 ∧ (u.order n).currentRoll = 1 ∧ (u.order n).nextUnit = 1
          ∧ u.readByte (a + 0x71) = 3 ∧ u.readBytes (a + 0x74) 4 = [0, 0, 1, 0] ∧ u.noticed .order = true
          ∧ (∀ m, m ≠ n → u.order m = s.order m) ∧ u.track.units = s.track.units))
    ∧ (let w := s.withdraw n
      ((s.order n).st = .taken → (w.order n).st = .withdrawn ∧ (w.order n).body = none ∧ w.readByte (a + 0x71) = 6
          ∧ w.noticed .order = true ∧ (∀ m, m ≠ n → w.order m = s.order m))
      ∧ ((s.order n).st = .active → (s.order n).hasUnits = false → (w.order n).st = .done ∧ (w.order n).currentRoll = 0
          ∧ w.readByte (a + 0x71) = 5 ∧ w.readByte (a + 0x78) = 2 ∧ w.noticed .order = true
          ∧ (s.ord.active = some n → w.ord.active = none))
      ∧ ((s.order n).st = .active → (s.order n).hasUnits = true → (w.order n).st = .ending ∧ (w.order n).byWithdrawal = true
          ∧ w.readByte (a + 0x71) = 4 ∧ w.noticed .order = true
          ∧ ((s.order n).s1 = none → (w.order n).endWanted = true ∧ w.cut = s.cut)
          ∧ (∀ s0 s1, (s.order n).s0 = some s0 → (s.order n).s1 = some s1 → ∃ v : State, v.cut = s.cut
              ∧ v.winder = s.winder ∧ v.track = s.track ∧ v.coord = s.coord ∧ v.settings = s.settings
              ∧ w = v.request (.orderEnd n) (s.firstAhead.map (fun y => if y ≤ s0 then s1 else y))))
      ∧ ((s.order n).st ≠ .taken → (s.order n).st ≠ .active → w = s))
    ∧ (let d := s.discardCopies
      let retired := ((s.order n).st = .done ∨ (s.order n).st = .refused ∨ (s.order n).st = .withdrawn) ∧ s.inUse n = false
      (retired → (d.order n).body = none ∧ (d.order n).st = (s.order n).st ∧ (d.order n).produced = (s.order n).produced)
      ∧ (¬ retired → d.order n = s.order n) ∧ d = { s with ord := d.ord })

/-- A roll record moves into a free slot (R120, R121): its body, then a part tag one on from the slot's, skipping 0 and the ack tag; it
leaves the queue, ROLL is latched and the counter advances; then RECORD_HOLD_FULL ends and the winder looks at its conditions
again. A head record neither APPLIED nor FAILED stays. -/
def Obligations.RollMovedToSlot : Prop :=
  ∀ (s : State) (n : Nat) (rest : List Nat), n < 32 →
    (s.rolls.queue = [] → s.moveRecords (n :: rest) = s)
    ∧ (∀ r tail, s.rolls.queue = r :: tail → r.label ≠ .applied → r.label ≠ .failed → s.moveRecords (n :: rest) = s)
    ∧ (∀ r tail, s.rolls.queue = r :: tail → r.label = .applied ∨ r.label = .failed → r.others.length ≤ 7 →
        let a := 0x0800 + 96 * n
        ∃ t : State, s.moveRecords (n :: rest) = State.moveRecords ((t.clear recordHoldFull 0).reassess) rest
          ∧ t = { s with
              mem := t.mem, port := { s.port with notice := t.port.notice, counter := t.port.counter },
              rolls := { s.rolls with queue := tail } }
          ∧ t.noticed .roll = true ∧ t.port.counter = (if s.port.counter < 255 then s.port.counter + 1 else 1)
          ∧ r.bytes.length = 92 ∧ t.readBytes (a + 4) 92 = r.bytes
          ∧ (let next (v : Nat) : Nat := if v < 255 then v + 1 else 1
             let old := (s.readByte a).toNat
             let ack := (s.readByte (a + 2)).toNat
             (t.readByte a).toNat = if next old = ack then next (next old) else next old)
          ∧ (t.readByte a).toNat ≠ 0 ∧ t.readByte a ≠ s.readByte a ∧ t.readByte a ≠ t.readByte (a + 2)
          ∧ t.readByte (a + 2) = s.readByte (a + 2)
          ∧ (∀ x, 0x40 ≤ x → x < a ∨ a + 96 ≤ x → t.readByte x = s.readByte x))

/-! ## Settings, start-up and reset (chapter 11) -/

/-- Power-on and the reset pin (R182) leave the reset values: STARTING, all of exchange memory zero but the header's part code 408 and
layout revision 1, enumeration begun, default settings, nothing active, nothing held; the outside's queue stays. That the
sequence is one step is the model's choice (log 4), and so are the values that State.reset gives where the spec gives none (log 9). -/
def Obligations.RestartValues : Prop :=
  ∀ s : State, ∃ t, exec .powerOn s = .next t ∧ exec .resetPin s = .next t
    ∧ t = { State.reset with pending := s.pending, freeIdx := s.freeIdx }
    ∧ t.port.phase = .starting ∧ t.port.notice = 0 ∧ t.port.counter = 0 ∧ t.status = 0
    ∧ t.readNat 0 2 = 408 ∧ t.readByte 2 = 1 ∧ (∀ a, 2 < a → t.readByte a = 0)
    ∧ t.posW = 0 ∧ t.posWF = 0 ∧ t.posH = 0 ∧ t.posHF = 0 ∧ t.coord.speed = 0
    ∧ t.settings = defaultSettings ∧ t.settings.length = 79 ∧ t.track.units = [] ∧ t.track.splices = []
    ∧ t.link.enumerating = true ∧ t.link.nodes = [] ∧ t.fault.st = .config ∧ t.fault.active = []
    ∧ t.ord.active = none ∧ (∀ o ∈ t.ord.orders, o.st = .none) ∧ t.rolls.nextJob = 1 ∧ t.rolls.printer = none
    ∧ t.safe

/-- ENTER CONFIG and LEAVE CONFIG (R180, R181): outside their phases they change nothing; ENTER CONFIG is BUSY while an order is ACTIVE
or ENDING, and otherwise takes part and fault unit to CONFIG with both STOP lines low, the phase byte 1, settings status 0 and field
index 0 in the header; LEAVE CONFIG of a record with a field out of
range writes REFUSED with that field and nothing else, and of a good one takes the fields, writes ACCEPTED and the record's tag,
goes to OPERATING, compares the arrangement, and leaves the fault unit's CONFIG. -/
def Obligations.ConfigEnteredAndLeft : Prop :=
  ∀ s : State,
    (s.port.phase ≠ .operating → exec .enterConfig s = .next s)
    ∧ (s.port.phase ≠ .config → exec .leaveConfig s = .next s)
    ∧ (s.port.phase = .operating → (∃ o ∈ s.ord.orders, o.st = .active ∨ o.st = .ending) →
        ∃ t, exec .enterConfig s = .next t ∧ t = { s with mem := t.mem } ∧ t.readByte 0x06 = 3 ∧ t.readByte 0x07 = 0
          ∧ ∀ a, a ≠ 0x06 → a ≠ 0x07 → t.readByte a = s.readByte a)
    ∧ (s.port.phase = .operating → (∀ o ∈ s.ord.orders, o.st ≠ .active ∧ o.st ≠ .ending) →
        ∃ t, exec .enterConfig s = .next t ∧ t.port.phase = .config ∧ t.readByte 0x04 = 1 ∧ t.readByte 0x06 = 0
          ∧ t.readByte 0x07 = 0 ∧ t.fault.st = .config ∧ t.fault.stopA = false
          ∧ t.fault.stopB = false ∧ t.fault.pulse = .note ∧ t.ord = { s.ord with hold := false }
          ∧ t.coord = s.coord ∧ t.settings = s.settings ∧ t.track = s.track ∧ t.draw = s.draw ∧ t.shade = s.shade
          ∧ t.cut = s.cut ∧ t.winder = s.winder ∧ t.rolls = s.rolls)
    ∧ (s.port.phase = .config → ∀ i, s.badSetting = some i →
        ∃ t, exec .leaveConfig s = .next t ∧ t = { s with mem := t.mem } ∧ t.readByte 0x06 = 2 ∧ t.readByte 0x07 = byte i
          ∧ ∀ a, a ≠ 0x06 → a ≠ 0x07 → t.readByte a = s.readByte a)
    ∧ (s.port.phase = .config → s.badSetting = none →
        ∃ t u : State, exec .leaveConfig s = .next u
          ∧ t = { s with
              settings := t.settings, mem := t.mem, port := { s.port with phase := .operating, counter := t.port.counter } }
          ∧ (∀ i, 1 ≤ i → i ≤ 79 → t.setting i = s.readInt (0x40 + 4 * i) 4)
          ∧ t.readByte 0x04 = 2 ∧ t.readByte 0x06 = 1 ∧ t.readByte 0x07 = 0 ∧ t.readByte 0x08 = s.readByte 0x40
          ∧ u = State.settlePlan (State.testActivation (State.settle
              (State.judgeFaultState (State.leaveFaultConfig t.compareArrangement))))
          ∧ u.settings = t.settings ∧ u.port.phase = .operating)

/-- LINE RESET (R138, R168, R183, R184): discarded in STARTING; otherwise every block takes its reset values and the part goes to
STARTING with enumeration begun; settings, ROUTE, the host's bytes, the printer report and the next job number stay; every TAKEN,
ACTIVE or ENDING order is DONE with reason RESET and its part tag the host tag, and every other order keeps its state; the batch
mirror and the live image are zero, the roll slots stay. Each ACTIVE fault entry is written CLEARED with the H then held and a new
tag, the other entries, the free-slot set and the dropped-fault count stay, and the line-reset count rises by 1. The closing rolls
are composed and count with the records lost at 0x0E. LINE RESET as one step is the model's choice (log 4), and so are the reset
values that no rule states: no last phase (log 46), no print reports (log 9). The cut serial, the frame last sent and the count of
free values are the model's own (logs 29, 32, 5) and stay, but that a closing roll with no units may use a free value (log 51). -/
def Obligations.LineResetValues : Prop :=
  ∀ s : State,
    (s.port.phase = .starting → exec .lineReset s = .next s)
    ∧ (s.port.phase ≠ .starting → ∃ t, exec .lineReset s = .next t
        ∧ t.pending = s.pending ∧ t.settings = s.settings
        ∧ ((∀ c ∈ s.winder.closing, c.roll.units ≠ []) → t.freeIdx = s.freeIdx)
        ∧ t.readNat 0x0E 2 = min 65535 (s.readNat 0x0E 2 + (s.rolls.queue.length + s.winder.closing.length))
        ∧ t.port = { Port.reset with route := s.port.route } ∧ t.coord = Coord.reset ∧ t.track = Track.reset
        ∧ t.reg = RegisterUnit.reset ∧ t.emb = EmbossUnit.reset ∧ t.draw = DrawLoop.reset ∧ t.shade = ShadeUnit.reset
        ∧ t.cut = Planner.reset ∧ t.winder = { Winder.reset with cutSerial := t.winder.cutSerial }
        ∧ t.rolls.queue = [] ∧ t.rolls.job = none ∧ t.rolls.printer = s.rolls.printer ∧ t.rolls.nextJob = s.rolls.nextJob
        ∧ t.link = { Link.reset with tx := s.link.tx }
        ∧ t.fault.st = .config ∧ t.fault.active = [] ∧ t.fault.pulse = .note ∧ t.fault.stopA = false ∧ t.fault.stopB = false
        ∧ t.fault.entrySeq = s.fault.entrySeq ∧ t.fault.free = s.fault.free
        ∧ (∀ n, n < 32 → s.faultTag n ≠ 0 → s.faultEntryState n = 1 →
            t.faultEntryState n = 2 ∧ t.readBytes (0x151A + 32 * n) 6 = natBytes 6 s.coord.h.toNat
            ∧ t.faultTag n = nextTag (s.faultTag n) (s.faultAck n)
            ∧ t.faultCode n = s.faultCode n ∧ t.faultSubject n = s.faultSubject n)
        ∧ (∀ n k, n < 32 → k < 32 → s.faultTag n = 0 ∨ s.faultEntryState n ≠ 1 →
            t.readByte (0x1500 + 32 * n + k) = s.readByte (0x1500 + 32 * n + k))
        ∧ t.readNat 0x0C 2 = s.readNat 0x0C 2 ∧ t.readNat 0x10 2 = min 65535 (s.readNat 0x10 2 + 1)
        ∧ t.readBytes 0x06 3 = s.readBytes 0x06 3
        ∧ t.ord.active = none ∧ t.ord.hold = false ∧ t.ord.waste = false
        ∧ (∀ n, n < 8 → n < s.ord.orders.length → (t.order n).st =
            (if (s.order n).st = .taken ∨ (s.order n).st = .active ∨ (s.order n).st = .ending then .done else (s.order n).st)
            ∧ ((s.order n).st = .taken ∨ (s.order n).st = .active ∨ (s.order n).st = .ending →
                t.readBytes (0x0470 + 128 * n) 2 = [s.readByte (0x0400 + 128 * n), 5]
                ∧ t.readByte (0x0478 + 128 * n) = 3 ∧ t.readNat (0x0476 + 128 * n) 2 = 0))
        ∧ (∀ a, hostOwned a = true → t.readByte a = s.readByte a)
        ∧ t.readByte 0x04 = 0 ∧ t.readByte 0x0A = 0
        ∧ (∀ a, 0x0800 ≤ a → a < 0x1400 → t.readByte a = s.readByte a)
        ∧ (∀ a, 0x1400 ≤ a → a < 0x1500 → t.readByte a = 0)
        ∧ (∀ a, 0x1900 ≤ a → a < 0x1C00 → t.readByte a = 0))

/-! ## The whole device -/

/-- The laws of the device hold over every step, from every state: exchange memory keeps its canonical form; the STOP pair is one high
and one low in NORMAL and ALERT and low in CONFIG and STOPPED (R161); the header shows phase and counter (R168, R169); and the track
holds at most 256 records in strictly rising coordinates (R7). -/
def Obligations.StepKeepsLaws : Prop :=
  ∀ s t : State, step s = .next t →
    (s.memoryOk → t.memoryOk) ∧ (s.stopPairOk → t.stopPairOk) ∧ (s.headerOk → t.headerOk) ∧ (s.TrackOk → t.TrackOk)

/-- Whole-machine rules over every command: only host writes, power-on and the reset pin change a byte the host owns (R161, R167);
only LEAVE CONFIG, written or commanded, and those two change the settings; only the encoders, the speed measurement, LINE RESET and
those two change positions and speed (R1, R2, R5); and in STARTING no host command but a plain register, notice or memory write
changes anything. -/
def Obligations.OnlyTheirCommandsChange : Prop :=
  ∀ (c : Instr) (s t : State), exec c s = .next t → c ≠ .powerOn → c ≠ .resetPin →
    ((∀ a v, c ≠ .exchangeWrite a v) → ∀ a, hostOwned a = true → t.readByte a = s.readByte a)
    ∧ (c ≠ .leaveConfig → c ≠ .registerWrite .control 6 → t.settings = s.settings)
    ∧ ((∀ e d, c ≠ .encoderTransition e d) → c ≠ .speedMeasurement → c ≠ .lineReset → c ≠ .registerWrite .control 7 →
        t.coord = s.coord)
    ∧ (s.port.phase = .starting →
        c = .attention ∨ c = .freeze ∨ c = .thaw ∨ c = .resume ∨ c = .enterConfig ∨ c = .leaveConfig ∨ c = .lineReset →
        t = s)
end

