-- ==== Sys2Proof/Laws/Memory.lean ====
section
/-! SUPPORT. Exchange memory: what a store does to a later read, and that every store keeps the canonical form. -/

namespace Sys2Proof.Machine

/-! ## Reading after a store -/

theorem memRead_append (m n : List Host.Cell) (x : Nat) :
    memRead (m ++ n) x = if m.any (fun c => decide (c.1 = x)) then memRead m x else memRead n x := by
  induction m with
  | nil => simp
  | cons c m ih =>
    simp only [List.cons_append, memRead, List.any_cons]
    by_cases h : c.1 = x <;> simp [h, ih]

theorem memRead_of_not_any {m : List Host.Cell} {x : Nat} (h : m.any (fun c => decide (c.1 = x)) = false) :
    memRead m x = 0 := by
  induction m with
  | nil => rfl
  | cons c m ih =>
    simp only [List.any_cons, Bool.or_eq_false_iff, decide_eq_false_iff_not] at h
    simp [memRead, h.1, ih h.2]

/-- A filter on addresses that keeps `x` does not change what `x` reads. -/
theorem memRead_filter {m : List Host.Cell} {x : Nat} (p : Nat → Bool) (h : p x = true) :
    memRead (m.filter (fun c => p c.1)) x = memRead m x := by
  induction m with
  | nil => rfl
  | cons c m ih =>
    by_cases hc : c.1 = x
    · subst hc; simp [h, memRead]
    · by_cases hp : p c.1 = true <;> simp [hp, memRead, hc, ih]

theorem memRead_filter_out {m : List Host.Cell} {x : Nat} (p : Nat → Bool) (h : p x = false) :
    memRead (m.filter (fun c => p c.1)) x = 0 := by
  apply memRead_of_not_any
  rw [List.any_eq_false]
  intro c hc
  simp only [List.mem_filter] at hc
  simp only [decide_eq_true_eq]
  intro he; rw [he, h] at hc; simp at hc

theorem memRead_cellsFrom (a : Nat) (bs : List Byte) (x : Nat) :
    memRead (cellsFrom a bs) x = if a ≤ x ∧ x < a + bs.length then bs.getD (x - a) 0 else 0 := by
  induction bs generalizing a with
  | nil => simp only [cellsFrom, memRead, List.length_nil]; rw [if_neg]; omega
  | cons b bs ih =>
    simp only [cellsFrom, List.length_cons]
    by_cases hx : a = x
    · subst hx
      by_cases hb : b = 0
      · rw [if_pos hb, ih, if_neg (by omega), if_pos (by omega)]; simp [hb]
      · rw [if_neg hb, if_pos (by omega)]; simp [memRead]
    · have hrest : memRead (cellsFrom (a + 1) bs) x =
          if a ≤ x ∧ x < a + (bs.length + 1) then (b :: bs).getD (x - a) 0 else 0 := by
        rw [ih]
        by_cases h1 : a + 1 ≤ x ∧ x < a + 1 + bs.length
        · rw [if_pos h1, if_pos (by omega)]
          obtain ⟨k, hk⟩ : ∃ k, x - a = k + 1 := ⟨x - a - 1, by omega⟩
          have h2 : x - (a + 1) = k := by omega
          rw [hk, h2]; rfl
        · rw [if_neg h1, if_neg (by omega)]
      by_cases hb : b = 0
      · rw [if_pos hb, hrest]
      · rw [if_neg hb]; simp only [memRead]; rw [if_neg hx, hrest]

theorem any_cellsFrom {a : Nat} {bs : List Byte} {x : Nat}
    (h : (cellsFrom a bs).any (fun c => decide (c.1 = x)) = true) : a ≤ x ∧ x < a + bs.length := by
  induction bs generalizing a with
  | nil => simp [cellsFrom] at h
  | cons b bs ih =>
    simp only [cellsFrom] at h
    simp only [List.length_cons]
    split at h
    · have := ih h; omega
    · simp only [List.any_cons, Bool.or_eq_true, decide_eq_true_eq] at h
      rcases h with h | h
      · omega
      · have := ih h; omega

/-- What a byte reads after a store that fits into the memory. -/
theorem memRead_memStore {m : List Host.Cell} {a : Nat} {bs : List Byte} (h : a + bs.length ≤ memSize) (x : Nat) :
    memRead (memStore m a bs) x = if a ≤ x ∧ x < a + bs.length then bs.getD (x - a) 0 else memRead m x := by
  simp only [memStore, if_pos h, memRead_append]
  by_cases h1 : x < a
  · rw [if_neg (by omega : ¬ (a ≤ x ∧ x < a + bs.length))]
    have hf := memRead_filter (m := m) (x := x) (fun y => decide (y < a)) (by simpa using h1)
    split
    · exact hf
    · rename_i hn
      have hz : memRead m x = 0 := by
        rw [← hf]; exact memRead_of_not_any (Bool.eq_false_iff.mpr hn)
      rw [hz]
      have hc : (cellsFrom a bs).any (fun c => decide (c.1 = x)) = false := by
        by_contra hh
        have := any_cellsFrom (by simpa using hh); omega
      rw [if_neg (by simp [hc])]
      exact memRead_filter_out (fun y => decide (a + bs.length ≤ y)) (by simp; omega)
  · have hf : (m.filter (fun c => decide (c.1 < a))).any (fun c => decide (c.1 = x)) = false := by
      rw [List.any_eq_false]; intro c hc
      simp only [List.mem_filter, decide_eq_true_eq] at hc ⊢; omega
    rw [if_neg (by simp [hf])]
    by_cases h2 : x < a + bs.length
    · rw [if_pos (by omega : a ≤ x ∧ x < a + bs.length)]
      have hc := memRead_cellsFrom a bs x
      rw [if_pos (by omega : a ≤ x ∧ x < a + bs.length)] at hc
      split
      · exact hc
      · rename_i hn
        rw [memRead_of_not_any (Bool.eq_false_iff.mpr hn)] at hc
        rw [← hc]
        exact memRead_filter_out (fun y => decide (a + bs.length ≤ y)) (by simp; omega)
    · rw [if_neg (by omega : ¬ (a ≤ x ∧ x < a + bs.length))]
      have hc : (cellsFrom a bs).any (fun c => decide (c.1 = x)) = false := by
        by_contra hh
        have := any_cellsFrom (by simpa using hh); omega
      rw [if_neg (by simp [hc])]
      exact memRead_filter (fun y => decide (a + bs.length ≤ y)) (by simp; omega)

/-- A store leaves every byte outside it as it was. -/
theorem memRead_memStore_outside {m : List Host.Cell} {a : Nat} {bs : List Byte} {x : Nat}
    (h : x < a ∨ a + bs.length ≤ x) : memRead (memStore m a bs) x = memRead m x := by
  by_cases hf : a + bs.length ≤ memSize
  · rw [memRead_memStore hf, if_neg (by omega)]
  · simp [memStore, hf]

/-! ## The canonical form -/

theorem memWfFrom_mono {lo hi : Nat} (h : lo ≤ hi) {m : List Host.Cell} (w : memWfFrom hi m = true) :
    memWfFrom lo m = true := by
  cases m with
  | nil => rfl
  | cons c m =>
    simp only [memWfFrom, Bool.and_eq_true, decide_eq_true_eq] at w ⊢
    exact ⟨⟨⟨by omega, w.1.1.2⟩, w.1.2⟩, w.2⟩

theorem memWfFrom_append {lo mid : Nat} {m n : List Host.Cell} (hm : memWfFrom lo m = true)
    (hn : memWfFrom mid n = true) (hlo : lo ≤ mid) (hall : ∀ c ∈ m, c.1 < mid) : memWfFrom lo (m ++ n) = true := by
  induction m generalizing lo with
  | nil => exact memWfFrom_mono hlo hn
  | cons c m ih =>
    simp only [memWfFrom, List.cons_append, Bool.and_eq_true, decide_eq_true_eq] at hm ⊢
    have hc : c.1 < mid := hall c (by simp)
    exact ⟨hm.1, ih hm.2 (by omega) (fun d hd => hall d (by simp [hd]))⟩

theorem memWfFrom_filter {lo : Nat} {m : List Host.Cell} (p : Host.Cell → Bool) (h : memWfFrom lo m = true) :
    memWfFrom lo (m.filter p) = true := by
  induction m generalizing lo with
  | nil => rfl
  | cons c m ih =>
    simp only [memWfFrom, Bool.and_eq_true, decide_eq_true_eq] at h
    by_cases hp : p c = true
    · simp only [List.filter_cons, hp, if_true, memWfFrom, Bool.and_eq_true, decide_eq_true_eq]
      exact ⟨h.1, ih h.2⟩
    · simp only [List.filter_cons, hp]
      exact memWfFrom_mono (by omega) (ih h.2)

theorem memWfFrom_filter_from {lo : Nat} {m : List Host.Cell} (b : Nat) (h : memWfFrom lo m = true) :
    memWfFrom b (m.filter (fun c => decide (b ≤ c.1))) = true := by
  induction m generalizing lo with
  | nil => rfl
  | cons c m ih =>
    simp only [memWfFrom, Bool.and_eq_true, decide_eq_true_eq] at h
    by_cases hp : b ≤ c.1
    · simp only [List.filter_cons, hp, decide_true, if_true, memWfFrom, Bool.and_eq_true, decide_eq_true_eq]
      exact ⟨⟨⟨trivial, h.1.1.2⟩, h.1.2⟩, memWfFrom_filter _ h.2⟩
    · simp only [List.filter_cons, hp, decide_false]
      exact ih h.2

theorem memWfFrom_cellsFrom (a : Nat) (bs : List Byte) (h : a + bs.length ≤ memSize) :
    memWfFrom a (cellsFrom a bs) = true := by
  induction bs generalizing a with
  | nil => rfl
  | cons b bs ih =>
    simp only [List.length_cons] at h
    simp only [cellsFrom]
    split
    · exact memWfFrom_mono (by omega) (ih (a + 1) (by omega))
    · rename_i hb
      simp only [memWfFrom, Bool.and_eq_true, decide_eq_true_eq]
      exact ⟨⟨⟨by omega, by omega⟩, hb⟩, ih (a + 1) (by omega)⟩

theorem mem_cellsFrom_lt {a : Nat} {bs : List Byte} {c : Host.Cell} (h : c ∈ cellsFrom a bs) : c.1 < a + bs.length := by
  have := any_cellsFrom (a := a) (bs := bs) (x := c.1) (List.any_eq_true.mpr ⟨c, h, by simp⟩)
  omega

/-- Every store keeps the canonical form. -/
theorem memStore_wf {m : List Host.Cell} (a : Nat) (bs : List Byte) (h : Memory.wf m = true) :
    Memory.wf (memStore m a bs) = true := by
  unfold Memory.wf at h ⊢
  unfold memStore
  split
  · rename_i hfit
    refine memWfFrom_append (mid := a) (memWfFrom_filter _ h) ?_ (by omega) ?_
    · refine memWfFrom_append (mid := a + bs.length) (memWfFrom_cellsFrom a bs hfit)
        (memWfFrom_filter_from _ h) (by omega) ?_
      intro c hc; exact mem_cellsFrom_lt hc
    · intro c hc; simp only [List.mem_filter, decide_eq_true_eq] at hc; exact hc.2
  · exact h

theorem resetMemory_wf : Memory.wf resetMemory = true := by decide

/-! ## The part's own stores and the host's -/

theorem partRange_iff (a len : Nat) : partRange a len = true ↔ ∀ x, a ≤ x → x < a + len → hostOwned x = false := by
  induction len generalizing a with
  | zero => simp [partRange]; intro x _ _; omega
  | succ len ih =>
    simp only [partRange, Bool.and_eq_true, Bool.not_eq_true', ih]
    constructor
    · rintro ⟨h0, h⟩ x h1 h2
      by_cases hx : x = a
      · rw [hx]; exact h0
      · exact h x (by omega) (by omega)
    · intro h
      exact ⟨h a (by omega) (by omega), fun x h1 h2 => h x (by omega) (by omega)⟩

/-- A write by the part leaves every host-owned byte as it was (R161's law, R167). -/
theorem partStore_hostOwned (s : State) (a : Nat) (bs : List Byte) {x : Nat} (h : hostOwned x = true) :
    (s.partStore a bs).readByte x = s.readByte x := by
  unfold State.partStore
  split
  · rename_i hp
    rw [partRange_iff] at hp
    have hx : x < a ∨ a + bs.length ≤ x := by
      by_contra hc
      have := hp x (by omega) (by omega)
      simp [h] at this
    exact memRead_memStore_outside hx
  · rfl

/-- A write by the part leaves every byte outside it as it was. -/
theorem partStore_outside (s : State) (a : Nat) (bs : List Byte) {x : Nat} (h : x < a ∨ a + bs.length ≤ x) :
    (s.partStore a bs).readByte x = s.readByte x := by
  unfold State.partStore
  split
  · exact memRead_memStore_outside h
  · rfl

/-- What a write by the part to its own words stores. -/
theorem partStore_inside (s : State) (a : Nat) (bs : List Byte) (hp : partRange a bs.length = true)
    (hf : a + bs.length ≤ memSize) {x : Nat} (h1 : a ≤ x) (h2 : x < a + bs.length) :
    (s.partStore a bs).readByte x = bs.getD (x - a) 0 := by
  unfold State.partStore
  rw [if_pos hp]
  show memRead (memStore s.mem a bs) x = _
  rw [memRead_memStore hf, if_pos ⟨h1, h2⟩]

theorem partStore_memoryOk (s : State) (a : Nat) (bs : List Byte) (h : s.memoryOk) : (s.partStore a bs).memoryOk := by
  unfold State.partStore
  split
  · exact memStore_wf a bs h
  · exact h

theorem hostWriteWord_memoryOk (s : State) (a : BitVec 13) (v : Word) (h : s.memoryOk) :
    (s.hostWriteWord a v).memoryOk := by
  unfold State.hostWriteWord
  simp only
  split
  · exact memStore_wf _ _ h
  · exact h

end Sys2Proof.Machine
end

