-- ==== Sys2Proof/Laws/State.lean ====
section
/-! SUPPORT. One lemma per field for each update of the state, so that no proof unfolds a record update. -/

namespace Sys2Proof.Machine

/-! ## `State.withPending` -/

@[simp] theorem withPending_pending (s : State) (l : List Instr) : (s.withPending l).pending = l := rfl
@[simp] theorem withPending_mem (s : State) (l : List Instr) : (s.withPending l).mem = s.mem := rfl
@[simp] theorem withPending_port (s : State) (l : List Instr) : (s.withPending l).port = s.port := rfl
@[simp] theorem withPending_settings (s : State) (l : List Instr) : (s.withPending l).settings = s.settings := rfl
@[simp] theorem withPending_coord (s : State) (l : List Instr) : (s.withPending l).coord = s.coord := rfl
@[simp] theorem withPending_track (s : State) (l : List Instr) : (s.withPending l).track = s.track := rfl
@[simp] theorem withPending_reg (s : State) (l : List Instr) : (s.withPending l).reg = s.reg := rfl
@[simp] theorem withPending_emb (s : State) (l : List Instr) : (s.withPending l).emb = s.emb := rfl
@[simp] theorem withPending_draw (s : State) (l : List Instr) : (s.withPending l).draw = s.draw := rfl
@[simp] theorem withPending_shade (s : State) (l : List Instr) : (s.withPending l).shade = s.shade := rfl
@[simp] theorem withPending_cut (s : State) (l : List Instr) : (s.withPending l).cut = s.cut := rfl
@[simp] theorem withPending_winder (s : State) (l : List Instr) : (s.withPending l).winder = s.winder := rfl
@[simp] theorem withPending_rolls (s : State) (l : List Instr) : (s.withPending l).rolls = s.rolls := rfl
@[simp] theorem withPending_ord (s : State) (l : List Instr) : (s.withPending l).ord = s.ord := rfl
@[simp] theorem withPending_link (s : State) (l : List Instr) : (s.withPending l).link = s.link := rfl
@[simp] theorem withPending_fault (s : State) (l : List Instr) : (s.withPending l).fault = s.fault := rfl
@[simp] theorem withPending_freeIdx (s : State) (l : List Instr) : (s.withPending l).freeIdx = s.freeIdx := rfl

/-! ## `State.latch` -/

@[simp] theorem latch_pending (s : State) (f : Factor) : (s.latch f).pending = s.pending := rfl
@[simp] theorem latch_mem (s : State) (f : Factor) : (s.latch f).mem = s.mem := rfl
@[simp] theorem latch_port (s : State) (f : Factor) :
    (s.latch f).port = { s.port with notice := s.port.notice ||| (1#16 <<< f.bit) } := rfl
@[simp] theorem latch_settings (s : State) (f : Factor) : (s.latch f).settings = s.settings := rfl
@[simp] theorem latch_coord (s : State) (f : Factor) : (s.latch f).coord = s.coord := rfl
@[simp] theorem latch_track (s : State) (f : Factor) : (s.latch f).track = s.track := rfl
@[simp] theorem latch_reg (s : State) (f : Factor) : (s.latch f).reg = s.reg := rfl
@[simp] theorem latch_emb (s : State) (f : Factor) : (s.latch f).emb = s.emb := rfl
@[simp] theorem latch_draw (s : State) (f : Factor) : (s.latch f).draw = s.draw := rfl
@[simp] theorem latch_shade (s : State) (f : Factor) : (s.latch f).shade = s.shade := rfl
@[simp] theorem latch_cut (s : State) (f : Factor) : (s.latch f).cut = s.cut := rfl
@[simp] theorem latch_winder (s : State) (f : Factor) : (s.latch f).winder = s.winder := rfl
@[simp] theorem latch_rolls (s : State) (f : Factor) : (s.latch f).rolls = s.rolls := rfl
@[simp] theorem latch_ord (s : State) (f : Factor) : (s.latch f).ord = s.ord := rfl
@[simp] theorem latch_link (s : State) (f : Factor) : (s.latch f).link = s.link := rfl
@[simp] theorem latch_fault (s : State) (f : Factor) : (s.latch f).fault = s.fault := rfl
@[simp] theorem latch_freeIdx (s : State) (f : Factor) : (s.latch f).freeIdx = s.freeIdx := rfl

/-! ## `State.setOrder` -/

@[simp] theorem setOrder_pending (s : State) (n : Nat) (f : OrderRec → OrderRec) :
    (s.setOrder n f).pending = s.pending := rfl
@[simp] theorem setOrder_mem (s : State) (n : Nat) (f : OrderRec → OrderRec) : (s.setOrder n f).mem = s.mem := rfl
@[simp] theorem setOrder_port (s : State) (n : Nat) (f : OrderRec → OrderRec) : (s.setOrder n f).port = s.port := rfl
@[simp] theorem setOrder_settings (s : State) (n : Nat) (f : OrderRec → OrderRec) :
    (s.setOrder n f).settings = s.settings := rfl
@[simp] theorem setOrder_coord (s : State) (n : Nat) (f : OrderRec → OrderRec) :
    (s.setOrder n f).coord = s.coord := rfl
@[simp] theorem setOrder_track (s : State) (n : Nat) (f : OrderRec → OrderRec) :
    (s.setOrder n f).track = s.track := rfl
@[simp] theorem setOrder_reg (s : State) (n : Nat) (f : OrderRec → OrderRec) : (s.setOrder n f).reg = s.reg := rfl
@[simp] theorem setOrder_emb (s : State) (n : Nat) (f : OrderRec → OrderRec) : (s.setOrder n f).emb = s.emb := rfl
@[simp] theorem setOrder_draw (s : State) (n : Nat) (f : OrderRec → OrderRec) : (s.setOrder n f).draw = s.draw := rfl
@[simp] theorem setOrder_shade (s : State) (n : Nat) (f : OrderRec → OrderRec) :
    (s.setOrder n f).shade = s.shade := rfl
@[simp] theorem setOrder_cut (s : State) (n : Nat) (f : OrderRec → OrderRec) : (s.setOrder n f).cut = s.cut := rfl
@[simp] theorem setOrder_winder (s : State) (n : Nat) (f : OrderRec → OrderRec) :
    (s.setOrder n f).winder = s.winder := rfl
@[simp] theorem setOrder_rolls (s : State) (n : Nat) (f : OrderRec → OrderRec) :
    (s.setOrder n f).rolls = s.rolls := rfl
@[simp] theorem setOrder_ord (s : State) (n : Nat) (f : OrderRec → OrderRec) :
    (s.setOrder n f).ord = { s.ord with orders := modifyAt f n s.ord.orders } := rfl
@[simp] theorem setOrder_link (s : State) (n : Nat) (f : OrderRec → OrderRec) : (s.setOrder n f).link = s.link := rfl
@[simp] theorem setOrder_fault (s : State) (n : Nat) (f : OrderRec → OrderRec) :
    (s.setOrder n f).fault = s.fault := rfl
@[simp] theorem setOrder_freeIdx (s : State) (n : Nat) (f : OrderRec → OrderRec) :
    (s.setOrder n f).freeIdx = s.freeIdx := rfl

/-! ## `State.setUnit` -/

@[simp] theorem setUnit_pending (s : State) (c : Int) (f : UnitRec → UnitRec) :
    (s.setUnit c f).pending = s.pending := rfl
@[simp] theorem setUnit_mem (s : State) (c : Int) (f : UnitRec → UnitRec) : (s.setUnit c f).mem = s.mem := rfl
@[simp] theorem setUnit_port (s : State) (c : Int) (f : UnitRec → UnitRec) : (s.setUnit c f).port = s.port := rfl
@[simp] theorem setUnit_settings (s : State) (c : Int) (f : UnitRec → UnitRec) :
    (s.setUnit c f).settings = s.settings := rfl
@[simp] theorem setUnit_coord (s : State) (c : Int) (f : UnitRec → UnitRec) : (s.setUnit c f).coord = s.coord := rfl
@[simp] theorem setUnit_track (s : State) (c : Int) (f : UnitRec → UnitRec) :
    (s.setUnit c f).track = { s.track with units := s.track.units.map (fun u => if u.c = c then f u else u) } := rfl
@[simp] theorem setUnit_reg (s : State) (c : Int) (f : UnitRec → UnitRec) : (s.setUnit c f).reg = s.reg := rfl
@[simp] theorem setUnit_emb (s : State) (c : Int) (f : UnitRec → UnitRec) : (s.setUnit c f).emb = s.emb := rfl
@[simp] theorem setUnit_draw (s : State) (c : Int) (f : UnitRec → UnitRec) : (s.setUnit c f).draw = s.draw := rfl
@[simp] theorem setUnit_shade (s : State) (c : Int) (f : UnitRec → UnitRec) : (s.setUnit c f).shade = s.shade := rfl
@[simp] theorem setUnit_cut (s : State) (c : Int) (f : UnitRec → UnitRec) : (s.setUnit c f).cut = s.cut := rfl
@[simp] theorem setUnit_winder (s : State) (c : Int) (f : UnitRec → UnitRec) : (s.setUnit c f).winder = s.winder := rfl
@[simp] theorem setUnit_rolls (s : State) (c : Int) (f : UnitRec → UnitRec) : (s.setUnit c f).rolls = s.rolls := rfl
@[simp] theorem setUnit_ord (s : State) (c : Int) (f : UnitRec → UnitRec) : (s.setUnit c f).ord = s.ord := rfl
@[simp] theorem setUnit_link (s : State) (c : Int) (f : UnitRec → UnitRec) : (s.setUnit c f).link = s.link := rfl
@[simp] theorem setUnit_fault (s : State) (c : Int) (f : UnitRec → UnitRec) : (s.setUnit c f).fault = s.fault := rfl
@[simp] theorem setUnit_freeIdx (s : State) (c : Int) (f : UnitRec → UnitRec) :
    (s.setUnit c f).freeIdx = s.freeIdx := rfl

/-! ## `State.setLoop` -/

@[simp] theorem setLoop_pending (s : State) (n : Nat) (f : Loop → Loop) : (s.setLoop n f).pending = s.pending := rfl
@[simp] theorem setLoop_mem (s : State) (n : Nat) (f : Loop → Loop) : (s.setLoop n f).mem = s.mem := rfl
@[simp] theorem setLoop_port (s : State) (n : Nat) (f : Loop → Loop) : (s.setLoop n f).port = s.port := rfl
@[simp] theorem setLoop_settings (s : State) (n : Nat) (f : Loop → Loop) : (s.setLoop n f).settings = s.settings := rfl
@[simp] theorem setLoop_coord (s : State) (n : Nat) (f : Loop → Loop) : (s.setLoop n f).coord = s.coord := rfl
@[simp] theorem setLoop_track (s : State) (n : Nat) (f : Loop → Loop) : (s.setLoop n f).track = s.track := rfl
@[simp] theorem setLoop_reg (s : State) (n : Nat) (f : Loop → Loop) :
    (s.setLoop n f).reg = { s.reg with loops := modifyAt f (n - 1) s.reg.loops } := rfl
@[simp] theorem setLoop_emb (s : State) (n : Nat) (f : Loop → Loop) : (s.setLoop n f).emb = s.emb := rfl
@[simp] theorem setLoop_draw (s : State) (n : Nat) (f : Loop → Loop) : (s.setLoop n f).draw = s.draw := rfl
@[simp] theorem setLoop_shade (s : State) (n : Nat) (f : Loop → Loop) : (s.setLoop n f).shade = s.shade := rfl
@[simp] theorem setLoop_cut (s : State) (n : Nat) (f : Loop → Loop) : (s.setLoop n f).cut = s.cut := rfl
@[simp] theorem setLoop_winder (s : State) (n : Nat) (f : Loop → Loop) : (s.setLoop n f).winder = s.winder := rfl
@[simp] theorem setLoop_rolls (s : State) (n : Nat) (f : Loop → Loop) : (s.setLoop n f).rolls = s.rolls := rfl
@[simp] theorem setLoop_ord (s : State) (n : Nat) (f : Loop → Loop) : (s.setLoop n f).ord = s.ord := rfl
@[simp] theorem setLoop_link (s : State) (n : Nat) (f : Loop → Loop) : (s.setLoop n f).link = s.link := rfl
@[simp] theorem setLoop_fault (s : State) (n : Nat) (f : Loop → Loop) : (s.setLoop n f).fault = s.fault := rfl
@[simp] theorem setLoop_freeIdx (s : State) (n : Nat) (f : Loop → Loop) : (s.setLoop n f).freeIdx = s.freeIdx := rfl

/-! ## `State.setNode` -/

@[simp] theorem setNode_pending (s : State) (i : Nat) (f : Node → Node) : (s.setNode i f).pending = s.pending := rfl
@[simp] theorem setNode_mem (s : State) (i : Nat) (f : Node → Node) : (s.setNode i f).mem = s.mem := rfl
@[simp] theorem setNode_port (s : State) (i : Nat) (f : Node → Node) : (s.setNode i f).port = s.port := rfl
@[simp] theorem setNode_settings (s : State) (i : Nat) (f : Node → Node) : (s.setNode i f).settings = s.settings := rfl
@[simp] theorem setNode_coord (s : State) (i : Nat) (f : Node → Node) : (s.setNode i f).coord = s.coord := rfl
@[simp] theorem setNode_track (s : State) (i : Nat) (f : Node → Node) : (s.setNode i f).track = s.track := rfl
@[simp] theorem setNode_reg (s : State) (i : Nat) (f : Node → Node) : (s.setNode i f).reg = s.reg := rfl
@[simp] theorem setNode_emb (s : State) (i : Nat) (f : Node → Node) : (s.setNode i f).emb = s.emb := rfl
@[simp] theorem setNode_draw (s : State) (i : Nat) (f : Node → Node) : (s.setNode i f).draw = s.draw := rfl
@[simp] theorem setNode_shade (s : State) (i : Nat) (f : Node → Node) : (s.setNode i f).shade = s.shade := rfl
@[simp] theorem setNode_cut (s : State) (i : Nat) (f : Node → Node) : (s.setNode i f).cut = s.cut := rfl
@[simp] theorem setNode_winder (s : State) (i : Nat) (f : Node → Node) : (s.setNode i f).winder = s.winder := rfl
@[simp] theorem setNode_rolls (s : State) (i : Nat) (f : Node → Node) : (s.setNode i f).rolls = s.rolls := rfl
@[simp] theorem setNode_ord (s : State) (i : Nat) (f : Node → Node) : (s.setNode i f).ord = s.ord := rfl
@[simp] theorem setNode_link (s : State) (i : Nat) (f : Node → Node) :
    (s.setNode i f).link = { s.link with nodes := modifyAt f i s.link.nodes } := rfl
@[simp] theorem setNode_fault (s : State) (i : Nat) (f : Node → Node) : (s.setNode i f).fault = s.fault := rfl
@[simp] theorem setNode_freeIdx (s : State) (i : Nat) (f : Node → Node) : (s.setNode i f).freeIdx = s.freeIdx := rfl

/-! ## `State.setCut` -/

@[simp] theorem setCut_pending (s : State) (f : Planner → Planner) : (s.setCut f).pending = s.pending := rfl
@[simp] theorem setCut_mem (s : State) (f : Planner → Planner) : (s.setCut f).mem = s.mem := rfl
@[simp] theorem setCut_port (s : State) (f : Planner → Planner) : (s.setCut f).port = s.port := rfl
@[simp] theorem setCut_settings (s : State) (f : Planner → Planner) : (s.setCut f).settings = s.settings := rfl
@[simp] theorem setCut_coord (s : State) (f : Planner → Planner) : (s.setCut f).coord = s.coord := rfl
@[simp] theorem setCut_track (s : State) (f : Planner → Planner) : (s.setCut f).track = s.track := rfl
@[simp] theorem setCut_reg (s : State) (f : Planner → Planner) : (s.setCut f).reg = s.reg := rfl
@[simp] theorem setCut_emb (s : State) (f : Planner → Planner) : (s.setCut f).emb = s.emb := rfl
@[simp] theorem setCut_draw (s : State) (f : Planner → Planner) : (s.setCut f).draw = s.draw := rfl
@[simp] theorem setCut_shade (s : State) (f : Planner → Planner) : (s.setCut f).shade = s.shade := rfl
@[simp] theorem setCut_cut (s : State) (f : Planner → Planner) : (s.setCut f).cut = f s.cut := rfl
@[simp] theorem setCut_winder (s : State) (f : Planner → Planner) : (s.setCut f).winder = s.winder := rfl
@[simp] theorem setCut_rolls (s : State) (f : Planner → Planner) : (s.setCut f).rolls = s.rolls := rfl
@[simp] theorem setCut_ord (s : State) (f : Planner → Planner) : (s.setCut f).ord = s.ord := rfl
@[simp] theorem setCut_link (s : State) (f : Planner → Planner) : (s.setCut f).link = s.link := rfl
@[simp] theorem setCut_fault (s : State) (f : Planner → Planner) : (s.setCut f).fault = s.fault := rfl
@[simp] theorem setCut_freeIdx (s : State) (f : Planner → Planner) : (s.setCut f).freeIdx = s.freeIdx := rfl

/-! ## `State.setWinder` -/

@[simp] theorem setWinder_pending (s : State) (f : Winder → Winder) : (s.setWinder f).pending = s.pending := rfl
@[simp] theorem setWinder_mem (s : State) (f : Winder → Winder) : (s.setWinder f).mem = s.mem := rfl
@[simp] theorem setWinder_port (s : State) (f : Winder → Winder) : (s.setWinder f).port = s.port := rfl
@[simp] theorem setWinder_settings (s : State) (f : Winder → Winder) : (s.setWinder f).settings = s.settings := rfl
@[simp] theorem setWinder_coord (s : State) (f : Winder → Winder) : (s.setWinder f).coord = s.coord := rfl
@[simp] theorem setWinder_track (s : State) (f : Winder → Winder) : (s.setWinder f).track = s.track := rfl
@[simp] theorem setWinder_reg (s : State) (f : Winder → Winder) : (s.setWinder f).reg = s.reg := rfl
@[simp] theorem setWinder_emb (s : State) (f : Winder → Winder) : (s.setWinder f).emb = s.emb := rfl
@[simp] theorem setWinder_draw (s : State) (f : Winder → Winder) : (s.setWinder f).draw = s.draw := rfl
@[simp] theorem setWinder_shade (s : State) (f : Winder → Winder) : (s.setWinder f).shade = s.shade := rfl
@[simp] theorem setWinder_cut (s : State) (f : Winder → Winder) : (s.setWinder f).cut = s.cut := rfl
@[simp] theorem setWinder_winder (s : State) (f : Winder → Winder) : (s.setWinder f).winder = f s.winder := rfl
@[simp] theorem setWinder_rolls (s : State) (f : Winder → Winder) : (s.setWinder f).rolls = s.rolls := rfl
@[simp] theorem setWinder_ord (s : State) (f : Winder → Winder) : (s.setWinder f).ord = s.ord := rfl
@[simp] theorem setWinder_link (s : State) (f : Winder → Winder) : (s.setWinder f).link = s.link := rfl
@[simp] theorem setWinder_fault (s : State) (f : Winder → Winder) : (s.setWinder f).fault = s.fault := rfl
@[simp] theorem setWinder_freeIdx (s : State) (f : Winder → Winder) : (s.setWinder f).freeIdx = s.freeIdx := rfl

/-! ## `State.setShade` -/

@[simp] theorem setShade_pending (s : State) (f : ShadeUnit → ShadeUnit) : (s.setShade f).pending = s.pending := rfl
@[simp] theorem setShade_mem (s : State) (f : ShadeUnit → ShadeUnit) : (s.setShade f).mem = s.mem := rfl
@[simp] theorem setShade_port (s : State) (f : ShadeUnit → ShadeUnit) : (s.setShade f).port = s.port := rfl
@[simp] theorem setShade_settings (s : State) (f : ShadeUnit → ShadeUnit) : (s.setShade f).settings = s.settings := rfl
@[simp] theorem setShade_coord (s : State) (f : ShadeUnit → ShadeUnit) : (s.setShade f).coord = s.coord := rfl
@[simp] theorem setShade_track (s : State) (f : ShadeUnit → ShadeUnit) : (s.setShade f).track = s.track := rfl
@[simp] theorem setShade_reg (s : State) (f : ShadeUnit → ShadeUnit) : (s.setShade f).reg = s.reg := rfl
@[simp] theorem setShade_emb (s : State) (f : ShadeUnit → ShadeUnit) : (s.setShade f).emb = s.emb := rfl
@[simp] theorem setShade_draw (s : State) (f : ShadeUnit → ShadeUnit) : (s.setShade f).draw = s.draw := rfl
@[simp] theorem setShade_shade (s : State) (f : ShadeUnit → ShadeUnit) : (s.setShade f).shade = f s.shade := rfl
@[simp] theorem setShade_cut (s : State) (f : ShadeUnit → ShadeUnit) : (s.setShade f).cut = s.cut := rfl
@[simp] theorem setShade_winder (s : State) (f : ShadeUnit → ShadeUnit) : (s.setShade f).winder = s.winder := rfl
@[simp] theorem setShade_rolls (s : State) (f : ShadeUnit → ShadeUnit) : (s.setShade f).rolls = s.rolls := rfl
@[simp] theorem setShade_ord (s : State) (f : ShadeUnit → ShadeUnit) : (s.setShade f).ord = s.ord := rfl
@[simp] theorem setShade_link (s : State) (f : ShadeUnit → ShadeUnit) : (s.setShade f).link = s.link := rfl
@[simp] theorem setShade_fault (s : State) (f : ShadeUnit → ShadeUnit) : (s.setShade f).fault = s.fault := rfl
@[simp] theorem setShade_freeIdx (s : State) (f : ShadeUnit → ShadeUnit) : (s.setShade f).freeIdx = s.freeIdx := rfl

/-! ## `State.setRolls` -/

@[simp] theorem setRolls_pending (s : State) (f : RollUnit → RollUnit) : (s.setRolls f).pending = s.pending := rfl
@[simp] theorem setRolls_mem (s : State) (f : RollUnit → RollUnit) : (s.setRolls f).mem = s.mem := rfl
@[simp] theorem setRolls_port (s : State) (f : RollUnit → RollUnit) : (s.setRolls f).port = s.port := rfl
@[simp] theorem setRolls_settings (s : State) (f : RollUnit → RollUnit) : (s.setRolls f).settings = s.settings := rfl
@[simp] theorem setRolls_coord (s : State) (f : RollUnit → RollUnit) : (s.setRolls f).coord = s.coord := rfl
@[simp] theorem setRolls_track (s : State) (f : RollUnit → RollUnit) : (s.setRolls f).track = s.track := rfl
@[simp] theorem setRolls_reg (s : State) (f : RollUnit → RollUnit) : (s.setRolls f).reg = s.reg := rfl
@[simp] theorem setRolls_emb (s : State) (f : RollUnit → RollUnit) : (s.setRolls f).emb = s.emb := rfl
@[simp] theorem setRolls_draw (s : State) (f : RollUnit → RollUnit) : (s.setRolls f).draw = s.draw := rfl
@[simp] theorem setRolls_shade (s : State) (f : RollUnit → RollUnit) : (s.setRolls f).shade = s.shade := rfl
@[simp] theorem setRolls_cut (s : State) (f : RollUnit → RollUnit) : (s.setRolls f).cut = s.cut := rfl
@[simp] theorem setRolls_winder (s : State) (f : RollUnit → RollUnit) : (s.setRolls f).winder = s.winder := rfl
@[simp] theorem setRolls_rolls (s : State) (f : RollUnit → RollUnit) : (s.setRolls f).rolls = f s.rolls := rfl
@[simp] theorem setRolls_ord (s : State) (f : RollUnit → RollUnit) : (s.setRolls f).ord = s.ord := rfl
@[simp] theorem setRolls_link (s : State) (f : RollUnit → RollUnit) : (s.setRolls f).link = s.link := rfl
@[simp] theorem setRolls_fault (s : State) (f : RollUnit → RollUnit) : (s.setRolls f).fault = s.fault := rfl
@[simp] theorem setRolls_freeIdx (s : State) (f : RollUnit → RollUnit) : (s.setRolls f).freeIdx = s.freeIdx := rfl

/-! ## `State.setLink` -/

@[simp] theorem setLink_pending (s : State) (f : Link → Link) : (s.setLink f).pending = s.pending := rfl
@[simp] theorem setLink_mem (s : State) (f : Link → Link) : (s.setLink f).mem = s.mem := rfl
@[simp] theorem setLink_port (s : State) (f : Link → Link) : (s.setLink f).port = s.port := rfl
@[simp] theorem setLink_settings (s : State) (f : Link → Link) : (s.setLink f).settings = s.settings := rfl
@[simp] theorem setLink_coord (s : State) (f : Link → Link) : (s.setLink f).coord = s.coord := rfl
@[simp] theorem setLink_track (s : State) (f : Link → Link) : (s.setLink f).track = s.track := rfl
@[simp] theorem setLink_reg (s : State) (f : Link → Link) : (s.setLink f).reg = s.reg := rfl
@[simp] theorem setLink_emb (s : State) (f : Link → Link) : (s.setLink f).emb = s.emb := rfl
@[simp] theorem setLink_draw (s : State) (f : Link → Link) : (s.setLink f).draw = s.draw := rfl
@[simp] theorem setLink_shade (s : State) (f : Link → Link) : (s.setLink f).shade = s.shade := rfl
@[simp] theorem setLink_cut (s : State) (f : Link → Link) : (s.setLink f).cut = s.cut := rfl
@[simp] theorem setLink_winder (s : State) (f : Link → Link) : (s.setLink f).winder = s.winder := rfl
@[simp] theorem setLink_rolls (s : State) (f : Link → Link) : (s.setLink f).rolls = s.rolls := rfl
@[simp] theorem setLink_ord (s : State) (f : Link → Link) : (s.setLink f).ord = s.ord := rfl
@[simp] theorem setLink_link (s : State) (f : Link → Link) : (s.setLink f).link = f s.link := rfl
@[simp] theorem setLink_fault (s : State) (f : Link → Link) : (s.setLink f).fault = s.fault := rfl
@[simp] theorem setLink_freeIdx (s : State) (f : Link → Link) : (s.setLink f).freeIdx = s.freeIdx := rfl

/-! ## `State.setPort` -/

@[simp] theorem setPort_pending (s : State) (f : Port → Port) : (s.setPort f).pending = s.pending := rfl
@[simp] theorem setPort_mem (s : State) (f : Port → Port) : (s.setPort f).mem = s.mem := rfl
@[simp] theorem setPort_port (s : State) (f : Port → Port) : (s.setPort f).port = f s.port := rfl
@[simp] theorem setPort_settings (s : State) (f : Port → Port) : (s.setPort f).settings = s.settings := rfl
@[simp] theorem setPort_coord (s : State) (f : Port → Port) : (s.setPort f).coord = s.coord := rfl
@[simp] theorem setPort_track (s : State) (f : Port → Port) : (s.setPort f).track = s.track := rfl
@[simp] theorem setPort_reg (s : State) (f : Port → Port) : (s.setPort f).reg = s.reg := rfl
@[simp] theorem setPort_emb (s : State) (f : Port → Port) : (s.setPort f).emb = s.emb := rfl
@[simp] theorem setPort_draw (s : State) (f : Port → Port) : (s.setPort f).draw = s.draw := rfl
@[simp] theorem setPort_shade (s : State) (f : Port → Port) : (s.setPort f).shade = s.shade := rfl
@[simp] theorem setPort_cut (s : State) (f : Port → Port) : (s.setPort f).cut = s.cut := rfl
@[simp] theorem setPort_winder (s : State) (f : Port → Port) : (s.setPort f).winder = s.winder := rfl
@[simp] theorem setPort_rolls (s : State) (f : Port → Port) : (s.setPort f).rolls = s.rolls := rfl
@[simp] theorem setPort_ord (s : State) (f : Port → Port) : (s.setPort f).ord = s.ord := rfl
@[simp] theorem setPort_link (s : State) (f : Port → Port) : (s.setPort f).link = s.link := rfl
@[simp] theorem setPort_fault (s : State) (f : Port → Port) : (s.setPort f).fault = s.fault := rfl
@[simp] theorem setPort_freeIdx (s : State) (f : Port → Port) : (s.setPort f).freeIdx = s.freeIdx := rfl

/-! ## `State.partStore`: the memory alone changes -/

@[simp] theorem partStore_pending (s : State) (a : Nat) (bs : List Byte) : (s.partStore a bs).pending = s.pending := by
  unfold State.partStore; split <;> rfl
@[simp] theorem partStore_port (s : State) (a : Nat) (bs : List Byte) : (s.partStore a bs).port = s.port := by
  unfold State.partStore; split <;> rfl
@[simp] theorem partStore_settings (s : State) (a : Nat) (bs : List Byte) : (s.partStore a bs).settings = s.settings := by
  unfold State.partStore; split <;> rfl
@[simp] theorem partStore_coord (s : State) (a : Nat) (bs : List Byte) : (s.partStore a bs).coord = s.coord := by
  unfold State.partStore; split <;> rfl
@[simp] theorem partStore_track (s : State) (a : Nat) (bs : List Byte) : (s.partStore a bs).track = s.track := by
  unfold State.partStore; split <;> rfl
@[simp] theorem partStore_reg (s : State) (a : Nat) (bs : List Byte) : (s.partStore a bs).reg = s.reg := by
  unfold State.partStore; split <;> rfl
@[simp] theorem partStore_emb (s : State) (a : Nat) (bs : List Byte) : (s.partStore a bs).emb = s.emb := by
  unfold State.partStore; split <;> rfl
@[simp] theorem partStore_draw (s : State) (a : Nat) (bs : List Byte) : (s.partStore a bs).draw = s.draw := by
  unfold State.partStore; split <;> rfl
@[simp] theorem partStore_shade (s : State) (a : Nat) (bs : List Byte) : (s.partStore a bs).shade = s.shade := by
  unfold State.partStore; split <;> rfl
@[simp] theorem partStore_cut (s : State) (a : Nat) (bs : List Byte) : (s.partStore a bs).cut = s.cut := by
  unfold State.partStore; split <;> rfl
@[simp] theorem partStore_winder (s : State) (a : Nat) (bs : List Byte) : (s.partStore a bs).winder = s.winder := by
  unfold State.partStore; split <;> rfl
@[simp] theorem partStore_rolls (s : State) (a : Nat) (bs : List Byte) : (s.partStore a bs).rolls = s.rolls := by
  unfold State.partStore; split <;> rfl
@[simp] theorem partStore_ord (s : State) (a : Nat) (bs : List Byte) : (s.partStore a bs).ord = s.ord := by
  unfold State.partStore; split <;> rfl
@[simp] theorem partStore_link (s : State) (a : Nat) (bs : List Byte) : (s.partStore a bs).link = s.link := by
  unfold State.partStore; split <;> rfl
@[simp] theorem partStore_fault (s : State) (a : Nat) (bs : List Byte) : (s.partStore a bs).fault = s.fault := by
  unfold State.partStore; split <;> rfl
@[simp] theorem partStore_freeIdx (s : State) (a : Nat) (bs : List Byte) : (s.partStore a bs).freeIdx = s.freeIdx := by
  unfold State.partStore; split <;> rfl

end Sys2Proof.Machine
end

