-- ==== Sys2Proof/Laws/Steady.lean ====
section
/-! SUPPORT. The relation `Steady s t`: from `s` to `t` nothing has happened that only some few commands may do, and the laws
of the device are kept. It is reflexive and transitive, each primitive update of a block has it, and so each operation of a
block has it by the lemmas of the files beside this one. -/

namespace Sys2Proof.Machine

/-- Every order copy has a repeat that is not negative. -/
def State.RepeatsOk (s : State) : Prop := ∀ o ∈ s.ord.orders, ∀ b, o.body = some b → 0 ≤ b.nominal

/-- From `s` to `t`: the queue, the positions, the settings, the printer report and the exchange port but for notices and
counter are as they were; notices are only added; host-owned bytes are untouched; and memory form, STOP pair, header and
track law are kept. -/
structure Steady (s t : State) : Prop where
  pending : t.pending = s.pending
  coord : t.coord = s.coord
  settings : t.settings = s.settings
  printer : t.rolls.printer = s.rolls.printer
  port : t.port = { s.port with notice := t.port.notice, counter := t.port.counter }
  notice : ∀ i, s.port.notice.getLsbD i = true → t.port.notice.getLsbD i = true
  host : ∀ a, hostOwned a = true → t.readByte a = s.readByte a
  memory : s.memoryOk → t.memoryOk
  stopPair : s.stopPairOk → t.stopPairOk
  header : s.headerOk → t.headerOk
  track : s.TrackOk → t.TrackOk

theorem Steady.refl (s : State) : Steady s s :=
  ⟨rfl, rfl, rfl, rfl, rfl, fun _ h => h, fun _ _ => rfl, id, id, id, id⟩

theorem Steady.trans {s t u : State} (h : Steady s t) (k : Steady t u) : Steady s u where
  pending := k.pending.trans h.pending
  coord := k.coord.trans h.coord
  settings := k.settings.trans h.settings
  printer := k.printer.trans h.printer
  port := by rw [k.port, h.port]
  notice := fun i hi => k.notice i (h.notice i hi)
  host := fun a ha => (k.host a ha).trans (h.host a ha)
  memory := fun hs => k.memory (h.memory hs)
  stopPair := fun hs => k.stopPair (h.stopPair hs)
  header := fun hs => k.header (h.header hs)
  track := fun hs => k.track (h.track hs)

/-- The track law is about the coordinates, the previous coordinate, the settings and the order copies alone. -/
theorem TrackOk.of_same {s t : State} (hc : t.track.units.map UnitRec.c = s.track.units.map UnitRec.c)
    (hp : t.track.prevC = s.track.prevC) (hs : t.settings = s.settings) (ho : s.RepeatsOk → t.RepeatsOk)
    (h : s.TrackOk) : t.TrackOk where
  room := by
    have := congrArg List.length hc
    simp only [List.length_map] at this
    rw [this]; exact h.room
  rising := by rw [hc]; exact h.rising
  previous := by
    intro u hu
    have hm : u.c ∈ s.track.units.map UnitRec.c := by rw [← hc]; exact List.mem_map_of_mem hu
    obtain ⟨v, hv, hvc⟩ := List.mem_map.mp hm
    obtain ⟨p, hp1, hp2⟩ := h.previous v hv
    exact ⟨p, by rw [hp, hp1], by rw [← hvc]; exact hp2⟩
  pitch := by
    have : t.peP = s.peP := by simp [State.peP, State.setting, hs]
    rw [this]; exact h.pitch
  repeats := ho h.repeats

/-- An update that touches none of what `Steady` speaks of. -/
theorem Steady.of_same {s t : State} (h1 : t.pending = s.pending) (h2 : t.coord = s.coord)
    (h3 : t.settings = s.settings) (h4 : t.rolls.printer = s.rolls.printer) (h5 : t.port = s.port) (h6 : t.mem = s.mem)
    (h7 : t.fault.st = s.fault.st ∧ t.fault.stopA = s.fault.stopA ∧ t.fault.stopB = s.fault.stopB)
    (h8 : t.track.units.map UnitRec.c = s.track.units.map UnitRec.c) (h9 : t.track.prevC = s.track.prevC)
    (h10 : s.RepeatsOk → t.RepeatsOk) : Steady s t where
  pending := h1
  coord := h2
  settings := h3
  printer := h4
  port := by rw [h5]
  notice := fun i hi => by rw [h5]; exact hi
  host := fun a _ => by simp [State.readByte, h6]
  memory := fun h => by simpa [State.memoryOk, h6] using h
  stopPair := fun h => by simpa [State.stopPairOk, h7.1, h7.2.1, h7.2.2] using h
  header := fun h => by simpa [State.headerOk, State.readByte, h5, h6] using h
  track := TrackOk.of_same h8 h9 h3 h10

/-! ## Primitive updates -/

theorem steady_reg (s : State) (x) : Steady s { s with reg := x } :=
  Steady.of_same rfl rfl rfl rfl rfl rfl ⟨rfl, rfl, rfl⟩ rfl rfl id
theorem steady_emb (s : State) (x) : Steady s { s with emb := x } :=
  Steady.of_same rfl rfl rfl rfl rfl rfl ⟨rfl, rfl, rfl⟩ rfl rfl id
theorem steady_draw (s : State) (x) : Steady s { s with draw := x } :=
  Steady.of_same rfl rfl rfl rfl rfl rfl ⟨rfl, rfl, rfl⟩ rfl rfl id
theorem steady_shade (s : State) (x) : Steady s { s with shade := x } :=
  Steady.of_same rfl rfl rfl rfl rfl rfl ⟨rfl, rfl, rfl⟩ rfl rfl id
theorem steady_cut (s : State) (x) : Steady s { s with cut := x } :=
  Steady.of_same rfl rfl rfl rfl rfl rfl ⟨rfl, rfl, rfl⟩ rfl rfl id
theorem steady_winder (s : State) (x) : Steady s { s with winder := x } :=
  Steady.of_same rfl rfl rfl rfl rfl rfl ⟨rfl, rfl, rfl⟩ rfl rfl id
theorem steady_link (s : State) (x) : Steady s { s with link := x } :=
  Steady.of_same rfl rfl rfl rfl rfl rfl ⟨rfl, rfl, rfl⟩ rfl rfl id
theorem steady_freeIdx (s : State) (x) : Steady s { s with freeIdx := x } :=
  Steady.of_same rfl rfl rfl rfl rfl rfl ⟨rfl, rfl, rfl⟩ rfl rfl id
theorem steady_rolls (s : State) (x) (h : x.printer = s.rolls.printer) : Steady s { s with rolls := x } :=
  Steady.of_same rfl rfl rfl h rfl rfl ⟨rfl, rfl, rfl⟩ rfl rfl id
theorem steady_splices (s : State) (x) (y) :
    Steady s { s with track := { s.track with splices := x, lastNominal := y } } :=
  Steady.of_same rfl rfl rfl rfl rfl rfl ⟨rfl, rfl, rfl⟩ rfl rfl id
theorem steady_faults (s : State) (x : FaultUnit)
    (h : x.st = s.fault.st ∧ x.stopA = s.fault.stopA ∧ x.stopB = s.fault.stopB) : Steady s { s with fault := x } :=
  Steady.of_same rfl rfl rfl rfl rfl rfl h rfl rfl id

theorem steady_ord (s : State) (x : OrderUnit) (h : x.orders = s.ord.orders) : Steady s { s with ord := x } :=
  Steady.of_same rfl rfl rfl rfl rfl rfl ⟨rfl, rfl, rfl⟩ rfl rfl
    (fun hs => by simpa [State.RepeatsOk, h] using hs)

/-- The STOP pair and the fault-unit state change together, to a pair the law allows. -/
theorem steady_stopState (s : State) (x : FaultUnit)
    (h : s.stopPairOk → State.stopPairOk { s with fault := x }) : Steady s { s with fault := x } where
  pending := rfl
  coord := rfl
  settings := rfl
  printer := rfl
  port := rfl
  notice := fun _ hi => hi
  host := fun _ _ => rfl
  memory := id
  stopPair := h
  header := id
  track := TrackOk.of_same rfl rfl rfl id

theorem mem_modifyAt {α : Type} {f : α → α} {n : Nat} {l : List α} {x : α} (h : x ∈ modifyAt f n l) :
    x ∈ l ∨ ∃ y ∈ l, x = f y := by
  induction l generalizing n with
  | nil => simp [modifyAt] at h
  | cons a l ih =>
    cases n with
    | zero =>
      simp only [modifyAt, List.mem_cons] at h
      rcases h with h | h
      · exact .inr ⟨a, by simp, h⟩
      · exact .inl (by simp [h])
    | succ n =>
      simp only [modifyAt, List.mem_cons] at h
      rcases h with h | h
      · exact .inl (by simp [h])
      · rcases ih h with h | ⟨y, hy, he⟩
        · exact .inl (by simp [h])
        · exact .inr ⟨y, by simp [hy], he⟩

/-- A change of one order that gives it no copy with a negative repeat. -/
theorem steady_setOrder (s : State) (n : Nat) (f : OrderRec → OrderRec)
    (h : ∀ o b, (f o).body = some b → o.body = some b ∨ 0 ≤ b.nominal) : Steady s (s.setOrder n f) :=
  Steady.of_same rfl rfl rfl rfl rfl rfl ⟨rfl, rfl, rfl⟩ rfl rfl (fun hs o ho b hb => by
    rcases mem_modifyAt ho with ho | ⟨p, hp, he⟩
    · exact hs o ho b hb
    · subst he
      rcases h p b hb with hb | hb
      · exact hs p hp b hb
      · exact hb)

/-- A change of every order that touches no copy. -/
theorem steady_mapOrders (s : State) (f : OrderRec → OrderRec) (h : ∀ o, (f o).body = o.body) :
    Steady s { s with ord := { s.ord with orders := s.ord.orders.map f } } :=
  Steady.of_same rfl rfl rfl rfl rfl rfl ⟨rfl, rfl, rfl⟩ rfl rfl (fun hs o ho b hb => by
    obtain ⟨p, hp, he⟩ := List.mem_map.mp ho
    subst he
    exact hs p hp b (by rw [← h]; exact hb))

/-- A change of the units that leaves their coordinates. -/
theorem steady_units (s : State) (us : List UnitRec) (h : us.map UnitRec.c = s.track.units.map UnitRec.c) :
    Steady s { s with track := { s.track with units := us } } :=
  Steady.of_same rfl rfl rfl rfl rfl rfl ⟨rfl, rfl, rfl⟩ h rfl id

theorem steady_setUnit (s : State) (c : Int) (f : UnitRec → UnitRec) (h : ∀ u, (f u).c = u.c) :
    Steady s (s.setUnit c f) :=
  steady_units s _ (by
    rw [List.map_map]
    apply List.map_congr_left
    intro u _
    simp only [Function.comp]
    split
    · exact h u
    · rfl)

theorem steady_latch (s : State) (f : Factor) : Steady s (s.latch f) where
  pending := rfl
  coord := rfl
  settings := rfl
  printer := rfl
  port := rfl
  notice := fun i hi => by simp only [State.latch, BitVec.getLsbD_or, hi, Bool.true_or]
  host := fun _ _ => rfl
  memory := id
  stopPair := id
  header := id
  track := TrackOk.of_same rfl rfl rfl id

/-- A write by the part beside the phase and counter bytes of the header. -/
theorem steady_partStore (s : State) (a : Nat) (bs : List Byte) (h : (4 < a ∧ a + bs.length ≤ 10) ∨ 10 < a) :
    Steady s (s.partStore a bs) where
  pending := by simp
  coord := by simp
  settings := by simp
  printer := by simp
  port := by simp
  notice := fun i hi => by simpa using hi
  host := fun _ ha => partStore_hostOwned s a bs ha
  memory := partStore_memoryOk s a bs
  stopPair := fun hs => by simpa [State.stopPairOk] using hs
  header := fun hs => by
    unfold State.headerOk at hs ⊢
    rw [partStore_outside s a bs (by omega), partStore_outside s a bs (by omega), partStore_port]
    exact hs
  track := TrackOk.of_same (by simp) (by simp) (by simp) (fun hs => by simpa [State.RepeatsOk] using hs)

theorem natBytes_length (len v : Nat) : (natBytes len v).length = len := by
  induction len generalizing v with
  | zero => rfl
  | succ len ih => simp [natBytes, ih]

theorem steady_header (s : State) (offset len v : Nat) (h : (4 < offset ∧ offset + len ≤ 10) ∨ 10 < offset) :
    Steady s (s.header offset len v) :=
  steady_partStore s offset _ (by rw [natBytes_length]; exact h)

theorem nextCyclic_le {m v : Nat} (h : 1 ≤ m) (_ : v ≤ m) : nextCyclic m v ≤ m := by
  unfold nextCyclic; split <;> omega

/-- The exchange counter advances, and its copy with it (R169). -/
theorem steady_tagWritten (s : State) : Steady s s.tagWritten where
  pending := by simp [State.tagWritten, State.header]
  coord := by simp [State.tagWritten, State.header]
  settings := by simp [State.tagWritten, State.header]
  printer := by simp [State.tagWritten, State.header]
  port := by simp [State.tagWritten, State.header]
  notice := fun i hi => by simpa [State.tagWritten, State.header] using hi
  host := fun a ha => by
    simp only [State.tagWritten, State.header]
    exact partStore_hostOwned _ _ _ ha
  memory := fun h => partStore_memoryOk _ _ _ h
  stopPair := fun hs => by simpa [State.stopPairOk, State.tagWritten, State.header] using hs
  header := fun hs => by
    obtain ⟨h1, _, h3⟩ := hs
    refine ⟨?_, ?_, ?_⟩
    · simp only [State.tagWritten, State.header, partStore_port]
      rw [partStore_outside _ _ _ (.inl (by omega))]
      exact h1
    · simp only [State.tagWritten, State.header, partStore_port]
      rw [partStore_inside _ 10 (natBytes 1 _) (x := 10) (by rw [natBytes_length]; decide)
        (by rw [natBytes_length]; decide) (Nat.le_refl _) (by rw [natBytes_length]; decide)]
      rfl
    · simp only [State.tagWritten, State.header, partStore_port]
      exact nextCyclic_le (by omega) h3
  track := TrackOk.of_same (by simp [State.tagWritten, State.header]) (by simp [State.tagWritten, State.header])
    (by simp [State.tagWritten, State.header]) (fun hs => by simpa [State.RepeatsOk, State.tagWritten, State.header] using hs)

/-! ## Choices and repetitions -/

theorem steady_foldl {α : Type} {f : State → α → State} (h : ∀ s a, Steady s (f s a)) (l : List α) (s : State) :
    Steady s (l.foldl f s) := by
  induction l generalizing s with
  | nil => exact Steady.refl s
  | cons a l ih => exact (h s a).trans (ih (f s a))

end Sys2Proof.Machine
end

