-- ==== Sys2Proof/Laws/SteadyFault.lean ====
section
/-! SUPPORT. Each operation of the fault unit and of React.lean is `Steady`: what raising, clearing, handing over and the
loops' reactions to their causes can do to the state. -/

namespace Sys2Proof.Machine

/-! ## The fault unit -/

theorem steady_faultSettle (s : State) : Steady s s.faultSettle := by
  unfold State.faultSettle
  split
  · exact Steady.refl s
  · exact Steady.refl s
  all_goals
    refine steady_stopState s _ (fun h => ?_)
    rename_i heq
    unfold State.stopPairOk at h ⊢
    rw [heq] at h
    by_cases hr : s.reaction = Reaction.note
    · simpa [hr] using h
    · simpa [hr] using h

/-- To CONFIG or STOPPED with both lines low. -/
theorem steady_stopLow (s : State) (x : FaultUnit) (h : (x.st = .config ∨ x.st = .stopped) ∧ x.stopA = false ∧ x.stopB = false) :
    Steady s { s with fault := x } :=
  steady_stopState s x (fun _ => by
    unfold State.stopPairOk
    rcases h.1 with h1 | h1 <;> simp [h1, h.2.1, h.2.2])

/-- To NORMAL with the first line high. -/
theorem steady_stopHigh (s : State) (x : FaultUnit) (h : x.st = .normal ∧ x.stopA = true ∧ x.stopB = false) :
    Steady s { s with fault := x } :=
  steady_stopState s x (fun _ => by unfold State.stopPairOk; simp [h.1, h.2.1, h.2.2])

theorem steady_enterStopped (s : State) : Steady s s.enterStopped := by
  unfold State.enterStopped
  split
  · exact (steady_stopLow s _ ⟨.inr rfl, rfl, rfl⟩).trans (steady_latch _ _)
  · exact Steady.refl s

theorem steady_faultToConfig (s : State) : Steady s s.faultToConfig := steady_stopLow s _ ⟨.inl rfl, rfl, rfl⟩

theorem steady_faultToRunning (s : State) : Steady s s.faultToRunning :=
  (steady_stopHigh s _ ⟨rfl, rfl, rfl⟩).trans (steady_faultSettle _)

theorem steady_acked (s : State) (x : List Bool) : Steady s { s with fault := { s.fault with acked := x } } :=
  steady_faults s _ ⟨rfl, rfl, rfl⟩
theorem steady_free (s : State) (x : List Bool) : Steady s { s with fault := { s.fault with free := x } } :=
  steady_faults s _ ⟨rfl, rfl, rfl⟩
theorem steady_entrySeq (s : State) (x : Nat) : Steady s { s with fault := { s.fault with entrySeq := x } } :=
  steady_faults s _ ⟨rfl, rfl, rfl⟩
theorem steady_pulse (s : State) (x : Reaction) : Steady s { s with fault := { s.fault with pulse := x } } :=
  steady_faults s _ ⟨rfl, rfl, rfl⟩
theorem steady_active (s : State) (x : List FaultId) : Steady s { s with fault := { s.fault with active := x } } :=
  steady_faults s _ ⟨rfl, rfl, rfl⟩

/-- A write by the part into a fault slot. -/
theorem steady_faultStore (s : State) (n k : Nat) (bs : List Byte) : Steady s (s.partStore (faultSlotAddr n + k) bs) :=
  steady_partStore s _ bs (.inr (by unfold faultSlotAddr; omega))

theorem steady_faultTagStore (s : State) (n : Nat) (bs : List Byte) : Steady s (s.partStore (faultSlotAddr n) bs) :=
  steady_faultStore s n 0 bs

theorem Steady.ite {c : Prop} [Decidable c] {a t u : State} (h1 : Steady a t) (h2 : Steady a u) :
    Steady a (if c then t else u) := by
  split
  · exact h1
  · exact h2

theorem steady_writeFaultTag (s : State) (n : Nat) (advance : Bool) : Steady s (s.writeFaultTag n advance) := by
  unfold State.writeFaultTag
  extract_lets
  have h := (steady_faultTagStore s n [byte (nextTag (s.faultTag n) (s.faultAck n)), 0]).trans
    (steady_acked _ (s.fault.acked.set n false))
  rw [← partStore_fault s (faultSlotAddr n) [byte (nextTag (s.faultTag n) (s.faultAck n)), 0]] at h
  exact Steady.ite (h.trans (steady_tagWritten _)) h

/-- A count in the header. -/
theorem steady_headerCount (s : State) (k v : Nat) (h : 10 < k) : Steady s (s.header k 2 v) := steady_header s k 2 v (.inr h)

theorem steady_newEntry (s : State) (code subject : Nat) : Steady s (s.newEntry code subject) := by
  unfold State.newEntry
  extract_lets q a t
  have h : Steady s t := steady_entrySeq s _
  split
  · exact h.trans (steady_headerCount _ _ _ (by decide))
  · extract_lets
    exact (((h.trans (steady_faultStore t _ _ _)).trans (steady_free _ _)).trans (steady_writeFaultTag _ _ _)).trans
      (steady_latch _ _)

theorem steady_countEntry (s : State) (n code : Nat) : Steady s (s.countEntry n code) := by
  unfold State.countEntry
  extract_lets
  exact (((steady_faultStore s n _ _).trans (steady_faultStore _ n _ _)).trans
    (Steady.ite (steady_faultStore _ n _ _) (Steady.refl _))).trans (steady_writeFaultTag _ _ _)

theorem steady_clearEntry (s : State) (n code : Nat) (advance : Bool) : Steady s (s.clearEntry n code advance) := by
  unfold State.clearEntry
  exact ((steady_faultStore s n _ _).trans (steady_faultStore _ n _ _)).trans (steady_writeFaultTag _ _ _)

theorem steady_listRaise (s : State) (code subject : Nat) : Steady s (s.listRaise code subject) := by
  unfold State.listRaise
  grind [steady_newEntry, steady_countEntry]

theorem steady_raiseCore (s : State) (code subject : Nat) : Steady s (s.raiseCore code subject) := by
  unfold State.raiseCore
  extract_lets
  exact (((steady_listRaise s _ _).trans (Steady.ite (Steady.ite (steady_pulse _ _) (Steady.refl _))
    (Steady.ite (Steady.refl _) (steady_active _ _)))).trans
    (Steady.ite (steady_enterStopped _) (Steady.refl _))).trans (steady_faultSettle _)

theorem steady_clearCore (s : State) (code subject : Nat) : Steady s (s.clearCore code subject) := by
  unfold State.clearCore
  split
  · extract_lets t
    have h1 : Steady s t := by
      dsimp only [t]
      split
      · exact (steady_clearEntry s _ _ _).trans (steady_latch _ _)
      · exact Steady.refl s
    exact (h1.trans (steady_active t _)).trans (steady_faultSettle _)
  · exact Steady.refl s

theorem steady_endPulse (s : State) : Steady s s.endPulse := (steady_pulse s _).trans (steady_faultSettle _)

/-! ## Handing over, loops and their causes -/

theorem steady_setLink (s : State) (x : Link) : Steady s { s with link := x } := steady_link s x

theorem steady_setNode (s : State) (i : Nat) (f : Node → Node) : Steady s (s.setNode i f) := steady_link s _

theorem steady_hand (s : State) (t : Target) (c : LinkCmd) : Steady s (s.hand t c).1 := by
  unfold State.hand
  grind [steady_setNode, Steady.refl]

theorem steady_setLoop (s : State) (st : Nat) (f : Loop → Loop) : Steady s (s.setLoop st f) := steady_reg s _

theorem steady_loopsSettle (s : State) : Steady s s.loopsSettle := steady_reg s _

theorem steady_sendLift (s : State) : Steady s s.sendLift := by
  unfold State.sendLift
  grind [steady_hand, steady_emb, Steady.trans, Steady.refl]

theorem steady_enterSyncing (s : State) : Steady s s.enterSyncing := steady_emb s _

theorem steady_enterLifted (s : State) : Steady s s.enterLifted := by
  unfold State.enterLifted
  grind [steady_emb, steady_clearCore, steady_enterSyncing, Steady.trans, Steady.refl]

theorem steady_embossSettle (s : State) : Steady s s.embossSettle := by
  unfold State.embossSettle
  grind [steady_emb, steady_enterSyncing, steady_enterLifted, steady_sendLift, Steady.refl]

theorem steady_settle (s : State) : Steady s s.settle := (steady_loopsSettle s).trans (steady_embossSettle _)

theorem steady_raise (s : State) (code subject : Nat) : Steady s (s.raise code subject) :=
  (steady_raiseCore s code subject).trans (steady_settle _)

theorem steady_clear (s : State) (code subject : Nat) : Steady s (s.clear code subject) :=
  (steady_clearCore s code subject).trans (steady_settle _)

theorem steady_follow (s : State) (code subject : Nat) (c : Bool) : Steady s (s.follow code subject c) := by
  unfold State.follow
  grind [steady_raise, steady_clear, Steady.refl]

end Sys2Proof.Machine
end

