-- ==== Sys2Proof/Laws/SteadyLoops.lean ====
section
/-! SUPPORT. Each operation of the emboss loop and of the draw loop is `Steady`. -/

namespace Sys2Proof.Machine

/-! ## Emboss loop -/

theorem steady_followCold (s : State) : Steady s s.followCold := steady_follow s _ _ _

theorem steady_embossTrimLost (s : State) : Steady s s.embossTrimLost := by
  unfold State.embossTrimLost
  exact Steady.ite (steady_emb s _) (Steady.refl s)

theorem steady_engageLost (s : State) : Steady s s.engageLost := by
  unfold State.engageLost
  grind [steady_hand, steady_emb, steady_enterLifted, Steady.trans, Steady.refl]

theorem steady_liftLost (s : State) : Steady s s.liftLost := by
  unfold State.liftLost
  exact Steady.ite ((steady_emb s _).trans (steady_hand _ _ _)) (Steady.refl s)

theorem steady_embossRestarted (s : State) : Steady s s.embossRestarted := by
  unfold State.embossRestarted
  extract_lets
  exact ((steady_emb s _).trans (Steady.ite (Steady.refl _) ((steady_emb _ _).trans (steady_enterLifted _)))).trans
    (steady_followCold _)

theorem steady_embossPosition (s : State) (p : EmbossPosition) : Steady s (s.embossPosition p) := by
  unfold State.embossPosition
  grind [steady_emb, steady_sendLift, steady_enterLifted, Steady.refl]

theorem steady_embossReported (s : State) (r : EmbossReport) : Steady s (s.embossReported r) := by
  unfold State.embossReported
  exact (((steady_emb s _).trans (steady_followCold _)).trans (steady_settle _)).trans (steady_embossPosition _ _)

theorem steady_correctEmboss (s : State) : Steady s s.correctEmboss := by
  unfold State.correctEmboss
  grind [steady_hand, steady_emb, steady_embossTrimLost, Steady.trans, Steady.refl]

theorem steady_sendEngage (s : State) : Steady s s.sendEngage := by
  unfold State.sendEngage
  grind [steady_hand, steady_emb, steady_engageLost, Steady.trans, Steady.refl]

theorem steady_lockTest (s : State) : Steady s s.lockTest := by
  unfold State.lockTest
  exact (steady_emb s _).trans (Steady.ite (steady_sendEngage _) (steady_correctEmboss _))

theorem steady_lossTest (s : State) (phi : Int) : Steady s (s.lossTest phi) := by
  unfold State.lossTest
  exact (steady_emb s _).trans (Steady.ite (steady_raise _ _ _) (Steady.refl _))

theorem steady_filterPhase (s : State) (phi : Int) : Steady s (s.filterPhase phi) := steady_emb s _

theorem steady_settlePhase (s : State) : Steady s s.settlePhase := steady_emb s _

theorem steady_measurePhase (s : State) (phi : Int) : Steady s (s.measurePhase phi) := by
  unfold State.measurePhase
  extract_lets src t settling
  have h : Steady s t := steady_emb s _
  clear_value settling t
  grind [steady_settlePhase, steady_filterPhase, steady_lockTest, steady_correctEmboss, steady_lossTest, Steady.trans,
    Steady.refl]

theorem steady_resolvePhase (s : State) (c i : Int) : Steady s (s.resolvePhase c i) := by
  unfold State.resolvePhase
  split
  · exact Steady.refl s
  · split
    · exact Steady.refl s
    · exact Steady.ite ((steady_setUnit s _ _ (by intro _; rfl)).trans (steady_measurePhase _ _)) (Steady.refl s)

theorem steady_takeIndex (s : State) (i : Int) : Steady s (s.takeIndex i) := by
  unfold State.takeIndex
  extract_lets due last src t u
  clear_value last due
  have h1 : Steady s t := steady_emb s _
  have h2 : Steady t u := by
    dsimp only [u]
    split
    · exact Steady.refl t
    · exact steady_foldl (fun v c => steady_resolvePhase v c _) _ _
  exact (h1.trans h2).trans (steady_emb u _)

theorem steady_pendPhase (s : State) (c : Int) : Steady s (s.pendPhase c) := by
  unfold State.pendPhase
  exact Steady.ite (Steady.refl s) (steady_emb s _)

theorem steady_driveTimeout (s : State) : Steady s s.driveTimeout := by
  unfold State.driveTimeout
  exact Steady.ite ((steady_raise s _ _).trans (steady_sendLift _)) (Steady.refl s)

theorem steady_checkNip (s : State) (c : Int) : Steady s (s.checkNip c) := by
  unfold State.checkNip
  split
  · exact Steady.refl s
  · exact steady_setUnit s _ _ (fun _ => rfl)

theorem steady_openGuard (s : State) (p f : Int) : Steady s (s.openGuard p f) := by
  unfold State.openGuard
  exact Steady.ite (Steady.refl s) ((steady_emb s _).trans (steady_embossSettle _))

theorem steady_judgeMatch (s : State) (c lFin : Int) (slot : Nat) : Steady s (s.judgeMatch c lFin slot) := by
  unfold State.judgeMatch
  extract_lets b dev flagged t m n src u
  have h1 : Steady s t := steady_setUnit s _ _ (fun _ => rfl)
  have h2 : Steady t u := steady_emb t _
  exact (h1.trans h2).trans (Steady.ite (steady_raise u _ _) (Steady.ite (steady_clear u _ _) (Steady.refl u)))

theorem steady_embossActivated (s : State) (b : OrderBody) : Steady s (s.embossActivated b) := by
  unfold State.embossActivated
  extract_lets
  refine ((steady_emb s _).trans (steady_clear _ _ _)).trans (Steady.ite ?_ ((steady_followCold _).trans (steady_embossSettle _)))
  exact ((steady_emb _ _).trans (steady_followCold _)).trans (Steady.ite (steady_enterLifted _) (steady_embossSettle _))

theorem steady_embossOrderEnded (s : State) : Steady s s.embossOrderEnded :=
  (steady_followCold s).trans (steady_embossSettle _)

/-! ## Draw loop -/

theorem steady_followDrawLimit (s : State) : Steady s s.followDrawLimit := steady_follow s _ _ _

theorem steady_sendDraw (s : State) : Steady s s.sendDraw := steady_hand s _ _

theorem steady_drawResend (s : State) : Steady s s.drawResend := (steady_draw s _).trans (steady_sendDraw _)

theorem steady_computeDraw (s : State) : Steady s s.computeDraw := by
  unfold State.computeDraw
  extract_lets
  exact ((steady_draw s _).trans (Steady.ite (steady_drawResend _) (Steady.refl _))).trans (steady_followDrawLimit _)

theorem steady_gatherDraw (s : State) (a b : Bool) (l : Int) : Steady s (s.gatherDraw a b l) := by
  unfold State.gatherDraw
  extract_lets
  exact Steady.ite (steady_draw s _)
    (Steady.ite ((steady_draw s _).trans (Steady.ite (steady_computeDraw _) (Steady.refl _))) (Steady.refl s))

theorem steady_drawFinal (s : State) (slot : Nat) (m : Bool) (l : Int) : Steady s (s.drawFinal slot m l) := by
  unfold State.drawFinal
  extract_lets
  exact (Steady.ite (steady_draw s _) (Steady.refl s)).trans (Steady.ite (steady_gatherDraw _ _ _ _) (Steady.refl _))

theorem steady_drawReported (s : State) (r : DrawReport) : Steady s (s.drawReported r) := by
  unfold State.drawReported
  extract_lets newly src t
  exact ((steady_draw s _).trans (Steady.ite (steady_sendDraw t) (Steady.refl t))).trans (steady_followDrawLimit _)

theorem steady_drawPresent (s : State) : Steady s s.drawPresent := by
  unfold State.drawPresent
  exact Steady.ite (steady_drawResend s) ((steady_draw s _).trans (steady_sendDraw _))

theorem steady_drawActivated (s : State) : Steady s s.drawActivated := by
  unfold State.drawActivated
  extract_lets
  exact ((steady_draw s _).trans (Steady.ite (steady_drawResend _) (Steady.refl _))).trans (steady_followDrawLimit _)

end Sys2Proof.Machine
end

