-- ==== Sys2Proof/Laws/SteadyPlan.lean ====
section
/-! SUPPORT. Each operation of the cut planner is `Steady`. -/

namespace Sys2Proof.Machine

theorem steady_setCut (s : State) (f : Planner → Planner) : Steady s (s.setCut f) := steady_cut s _

theorem steady_setPlan (s : State) (plan : List PlanEntry) : Steady s (s.setPlan plan) := by
  unfold State.setPlan
  extract_lets
  exact (steady_setCut s _).trans (Steady.ite (steady_clear _ _ _) (Steady.refl _))

theorem steady_report (s : State) (r : PlanReport) : Steady s (s.report r) := steady_setCut s _

theorem steady_moveCount (s : State) (x : Int) : Steady s (s.moveCount x) := steady_setCut s _

theorem steady_countFrom (s : State) (x : Int) : Steady s (s.countFrom x) := by
  unfold State.countFrom
  split
  · exact Steady.refl s
  · exact Steady.ite (steady_setCut s _) (Steady.refl s)

theorem steady_stripTarget (s : State) (x : Int) : Steady s (s.stripTarget x) := steady_setPlan s _

theorem steady_placed (s : State) (kind : CutKind) (x : Int) (opening : Bool) : Steady s (s.placed kind x opening) := by
  unfold State.placed
  extract_lets t
  have h : Steady s t := by
    dsimp only [t]
    split
    · exact (steady_setCut s _).trans (steady_report _ _)
    · exact steady_setCut s _
    · exact steady_report s _
    all_goals exact Steady.refl s
  exact h.trans (Steady.ite (steady_countFrom t x) (Steady.refl t))

theorem steady_planFull (s : State) (kind : CutKind) (x : Int) : Steady s (s.planFull kind x) := by
  unfold State.planFull
  extract_lets t
  have h : Steady s t := Steady.ite (Steady.refl s) (steady_raise s _ _)
  clear_value t
  cases kind <;> first | exact h.trans (steady_setCut t _) | exact h

theorem steady_joinOpening (s : State) (roll : Roll) (r : Reasons) : Steady s (s.joinOpening roll r) := steady_winder s _

theorem steady_placeAt (s : State) (kind : CutKind) (x : Int) (waiting : Bool) : Steady s (s.placeAt kind x waiting) := by
  unfold State.placeAt
  extract_lets r late t
  split
  · exact (steady_joinOpening s _ _).trans (steady_placed _ _ _ _)
  · refine Steady.ite ((steady_setCut s _).trans (steady_placed _ _ _ _)) ?_
    have h : Steady s t := Steady.ite (steady_stripTarget s x) (Steady.refl s)
    exact h.trans (Steady.ite (steady_planFull t kind x) ((steady_setCut t _).trans (steady_placed _ _ _ _)))

theorem steady_joinSegments (s : State) (g : Segment) (tail : Int) (stop : Option Int) :
    Steady s (s.joinSegments g tail stop) := by
  unfold State.joinSegments
  extract_lets plan t
  exact (steady_setPlan s _).trans (steady_setCut t _)

/-- All that `landAt` can do where the roll in progress starts elsewhere: the merge at once where an entry stands at `x` (rule 2 of
R89), the full plan after rule 3, or the merge after rule 3. -/
theorem landAt_cases (s : State) (kind : CutKind) (x : Int) (waiting : Bool) (merged : State → State) (h : s.rollAt x = none) :
    ((∃ e, s.entryAt x = some e) ∧ s.landAt kind x waiting merged = merged s)
    ∨ (s.entryAt x = none ∧ 16 ≤ (s.stripTarget x).placesTaken waiting
        ∧ s.landAt kind x waiting merged = (s.stripTarget x).planFull kind x)
    ∨ (s.entryAt x = none ∧ (s.stripTarget x).placesTaken waiting < 16
        ∧ s.landAt kind x waiting merged = merged ((s.stripTarget x).clear cutPlanFull 0)) := by
  unfold State.landAt
  cases he : s.entryAt x with
  | some e => exact .inl ⟨⟨e, rfl⟩, by simp [h]⟩
  | none =>
    by_cases hf : 16 ≤ (s.stripTarget x).placesTaken waiting
    · exact .inr (.inl ⟨rfl, hf, by simp [h, hf]⟩)
    · exact .inr (.inr ⟨rfl, by omega, by simp [h, hf]⟩)

theorem steady_landAt (s : State) (kind : CutKind) (x : Int) (waiting : Bool) {merged : State → State}
    (hm : ∀ t, Steady t (merged t)) : Steady s (s.landAt kind x waiting merged) := by
  unfold State.landAt
  extract_lets t
  split
  · rename_i roll h
    split
    · exact (steady_joinOpening s _ _).trans (hm _)
    · exact steady_placeAt s _ _ _
  · exact Steady.ite (hm s) ((steady_stripTarget s x).trans
      (Steady.ite (steady_planFull t kind x) ((steady_clear t _ _).trans (hm _))))

theorem steady_takeAt (s : State) (kind : CutKind) (x : Int) (waiting : Bool) : Steady s (s.takeAt kind x waiting) := by
  unfold State.takeAt
  refine Steady.ite (steady_setCut s _) ?_
  split
  · exact Steady.ite (steady_landAt s _ _ _ Steady.refl) (steady_placeAt s _ _ _)
  · split
    · exact steady_landAt s _ _ _ (fun t => steady_placeAt t _ _ _)
    · exact steady_placeAt s _ _ _
  · split
    · exact steady_landAt s _ _ _ (fun t => steady_placeAt t _ _ _)
    · exact steady_placeAt s _ _ _
  · split
    · exact steady_landAt s _ _ _ (fun t => steady_joinSegments t _ _ _)
    · exact steady_placeAt s _ _ _
  · exact steady_placeAt s _ _ _
  · exact steady_placeAt s _ _ _
  · exact Steady.refl s

theorem steady_entryMoved (s : State) (x y : Int) (e : Bool) : Steady s (s.entryMoved x y e) := by
  unfold State.entryMoved
  extract_lets f t
  exact (steady_setCut s _).trans (Steady.ite (steady_report t _) (Steady.refl t))

/-- All that `stripFor` can do: nothing where a forced entry stands at `x`, and rule 3 of R89 otherwise. -/
theorem stripFor_cases (s : State) (x : Int) :
    (∃ e, s.entryAt x = some e ∧ e.reasons.forced = true ∧ s.stripFor x = s)
    ∨ ((∀ e, s.entryAt x = some e → e.reasons.forced = false) ∧ s.stripFor x = s.stripTarget x) := by
  unfold State.stripFor
  cases s.entryAt x with
  | none => exact .inr ⟨by simp, rfl⟩
  | some e => cases h : e.reasons.forced <;> simp [h]

theorem steady_stripFor (s : State) (x : Int) : Steady s (s.stripFor x) := Steady.ite (Steady.refl s) (steady_stripTarget s x)

theorem steady_placeMissed (s : State) (r : Reasons) (origin x : Int) : Steady s (s.placeMissed r origin x) := by
  unfold State.placeMissed
  extract_lets upTo all t u v w
  split
  · split
    · exact Steady.refl s
    · exact (steady_setCut s _).trans (steady_entryMoved _ _ _ _)
  · have h1 : Steady s t := steady_stripFor s x
    have h2 : Steady t u := steady_setPlan t _
    have h3 : Steady u v := steady_setCut u _
    have h4 : Steady v w := (steady_entryMoved v _ _ _).trans
      (steady_foldl (fun s (e : PlanEntry) => steady_entryMoved s e.x x e.reasons.orderEnd) _ _)
    exact (((h1.trans h2).trans h3).trans h4).trans (Steady.ite (steady_countFrom w x) (Steady.refl w))

theorem steady_request (s : State) (kind : CutKind) (coordinate : Option Int) : Steady s (s.request kind coordinate) := by
  unfold State.request
  split
  · exact steady_takeAt s _ _ _
  · split
    · exact steady_takeAt s _ _ _
    · exact steady_setCut s _

theorem steady_joinReasons (s : State) (a : Int) (r : Reasons) : Steady s (s.joinReasons a r) :=
  Steady.ite (Steady.refl s) (Steady.ite (steady_setCut s _) (steady_setCut s _))

theorem steady_mergeReasons (s : State) (b a : Int) (e : PlanEntry) : Steady s (s.mergeReasons b a e) := by
  unfold State.mergeReasons
  extract_lets inside src keep src2 movesOn plan t u v
  have h1 : Steady s t := (steady_setPlan s _).trans (steady_joinReasons _ a movesOn)
  have h2 : Steady t u := Steady.ite (steady_report t _) (Steady.refl t)
  have h3 : Steady u v := steady_setCut u _
  refine (h1.trans h2).trans ?_
  split
  · split
    · exact h3.trans (steady_joinSegments v _ _ _)
    · exact Steady.refl u
  · exact Steady.refl u

theorem steady_mergeEntry (s : State) (b a x : Int) : Steady s (s.mergeEntry b a x) := by
  unfold State.mergeEntry
  split
  · exact Steady.refl s
  · exact Steady.ite (steady_mergeReasons s _ _ _) (Steady.refl s)

theorem steady_mergeRequest (s : State) (b a : Int) (q : CutRequest) : Steady s (s.mergeRequest b a q) := by
  unfold State.mergeRequest
  extract_lets g
  have h : Steady s (s.request q.kind q.coordinate) := steady_request s _ _
  split
  · refine Steady.ite h ?_
    split
    · exact Steady.ite (Steady.refl s) h
    · exact Steady.ite (steady_placeAt s _ _ _) h
    · exact Steady.ite (steady_placeAt s _ _ _) h
    · exact Steady.ite (steady_joinSegments s _ _ _) h
    · exact h
  · exact h

theorem steady_finishClose (s : State) (b a : Int) : Steady s (s.finishClose b a) := by
  unfold State.finishClose
  extract_lets joining t inside u v held w
  clear_value inside held
  have h1 : Steady s t := steady_setCut s _
  have h2 : Steady t u := Steady.ite (steady_moveCount t a) (Steady.refl t)
  have h3 : Steady u v := steady_foldl (fun s x => steady_mergeEntry s b a x) _ u
  have h4 : Steady v w := steady_setCut v _
  exact (((h1.trans h2).trans h3).trans h4).trans
    (steady_foldl (fun s (q : CutRequest) => steady_mergeRequest s b a q) _ w)

theorem steady_placeWaiting (s : State) (q : CutRequest) : Steady s (s.placeWaiting q) := by
  unfold State.placeWaiting
  split
  · exact steady_setCut s _
  · extract_lets t
    have h : Steady s t := steady_takeAt s _ _ _
    refine h.trans ?_
    clear_value t
    split
    · split
      · exact Steady.ite (steady_finishClose t _ _) (Steady.refl t)
      · exact Steady.refl t
    · exact Steady.refl t

theorem steady_closeSegment (s : State) (g : Segment) (a : Int) : Steady s (s.closeSegment g a) := by
  unfold State.closeSegment
  extract_lets t
  exact (steady_placeAt s _ _ _).trans (Steady.ite (Steady.refl t) (steady_finishClose t _ _))

theorem steady_closeAtEntry (s : State) (x : Int) : Steady s (s.closeAtEntry x) := by
  unfold State.closeAtEntry
  split
  · exact Steady.refl s
  · exact (steady_setCut s _).trans (steady_finishClose _ _ _)

theorem steady_spliceKnown (s : State) (u : UnitRec) (f : Int) : Steady s (s.spliceKnown u f) := by
  unfold State.spliceKnown
  split
  · split
    · exact steady_request s _ _
    · exact Steady.refl s
  · exact Steady.refl s

theorem steady_placeTarget (s : State) : Steady s s.placeTarget := Steady.ite (Steady.refl s) (steady_placeAt s _ _ _)

theorem steady_countUnit (s : State) (k : Int) (u : UnitRec) (b lFin : Int) : Steady s (s.countUnit k u b lFin) := by
  unfold State.countUnit
  extract_lets t
  have h : Steady s t := Steady.ite (steady_moveCount s b) (Steady.refl s)
  refine h.trans (Steady.ite (Steady.refl t) ?_)
  exact (steady_setCut t _).trans (Steady.ite (steady_placeTarget _) (Steady.refl _))

theorem steady_countStep (s t : State) (h : s.countStep = some t) : Steady s t := by
  unfold State.countStep at h
  split at h
  · cases h
  · split at h
    · cases h
    · split at h
      · rename_i g _
        cases hg : g.stop with
        | none => rw [hg] at h; cases h
        | some a => rw [hg] at h; cases h; exact steady_moveCount s a
      · split at h
        · cases h
        · split at h
          · split at h
            · cases h; exact steady_countUnit s _ _ _ _
            · cases h
          · cases h

end Sys2Proof.Machine
end

