-- ==== Sys2Proof/Laws/SteadyShade.lean ====
section
/-! SUPPORT. Each operation of the shade unit is `Steady`. -/

namespace Sys2Proof.Machine

theorem steady_setShade (s : State) (f : ShadeUnit → ShadeUnit) : Steady s (s.setShade f) := steady_shade s _

/-- A write into the batch mirror. -/
theorem steady_mirrorStore (s : State) (b : Nat) (bs : List Byte) : Steady s (s.partStore (mirrorAddr b) bs) :=
  steady_partStore s _ bs (.inr (by unfold mirrorAddr; omega))

theorem steady_setBatch (s : State) (b : Nat) (f : BatchRec → BatchRec) : Steady s (s.setBatch b f) := by
  unfold State.setBatch
  split
  · exact Steady.refl s
  · exact (steady_setShade s _).trans (steady_mirrorStore _ _ _)

theorem steady_zeroMirror (s : State) : Steady s s.zeroMirror := steady_mirrorStore s _ _

theorem steady_decideUnit (s : State) (c : Int) (v : Verdict) (b : Nat) (counted : Bool) :
    Steady s (s.decideUnit c v b counted) := by
  unfold State.decideUnit
  split
  · exact Steady.refl s
  · extract_lets body d t
    have h : Steady s t := steady_setUnit s _ _ (by intro _; rfl)
    exact h.trans (Steady.ite (Steady.refl t) (steady_setBatch t _ _))

theorem steady_decideOut (s : State) (b : Nat) (c : Int) : Steady s (s.decideOut b c) := by
  unfold State.decideOut
  split
  · exact Steady.refl s
  · exact steady_decideUnit s _ _ _ _

theorem steady_decideRun (s : State) : Steady s s.decideRun := by
  unfold State.decideRun
  exact (steady_foldl (fun s c => steady_decideOut s _ c) _ _).trans (steady_setShade _ _)

theorem steady_closeBatch (s : State) : Steady s s.closeBatch := by
  unfold State.closeBatch
  split
  · exact Steady.refl s
  · exact ((steady_setBatch s _ _).trans (steady_setShade _ _)).trans (steady_latch _ _)

theorem steady_storeRef (s : State) (k : OrderKey) (b : Nat) (ref : Reading) : Steady s (s.storeRef k b ref) :=
  steady_rolls s _ rfl

theorem steady_openNewBatch (s : State) (c : Int) (ref : Reading) : Steady s (s.openNewBatch c ref) := by
  unfold State.openNewBatch
  split
  · exact Steady.refl s
  · rename_i u _
    extract_lets t b run last r v w x y z
    have h1 : Steady s t := steady_closeBatch s
    have h2 : Steady t v := steady_setShade t _
    have h3 : Steady v w := steady_mirrorStore v _ _
    have h4 : Steady w x := steady_setUnit w _ _ (by intro _; rfl)
    have h5 : Steady x y := steady_foldl (fun s d => by
      cases s.unit? d with
      | none => exact Steady.refl s
      | some q => exact steady_decideUnit s _ _ _ _) run x
    have h6 : Steady y z := by
      dsimp only [z]
      split
      · exact steady_storeRef y _ _ _
      · exact Steady.refl y
    exact ((((((h1.trans h2).trans h3).trans h4).trans h5).trans h6).trans (steady_request z _ _)).trans (steady_latch _ _)

theorem steady_tableFullRun (s : State) : Steady s s.tableFullRun := by
  unfold State.tableFullRun
  extract_lets run t raised u
  have h1 : Steady s t := steady_foldl (fun s c => steady_decideOut s _ c) _ _
  have h2 : Steady t u := steady_setShade t _
  exact (h1.trans h2).trans (Steady.ite (Steady.refl u) (steady_raise u _ _))

theorem steady_shedRun (s : State) : Steady s s.shedRun := by
  unfold State.shedRun
  exact (steady_foldl (fun s c => steady_decideOut s _ c) _ _).trans (steady_setShade _ _)

theorem steady_testRun (s : State) (body : OrderBody) : Steady s (s.testRun body) := by
  unfold State.testRun
  refine Steady.ite (Steady.ite (Steady.ite (steady_tableFullRun s) ?_) (steady_shedRun s)) (Steady.refl s)
  split
  · exact steady_openNewBatch s _ _
  · exact Steady.refl s

theorem steady_changeClassifying (s : State) (k : OrderKey) : Steady s (s.changeClassifying k) := by
  unfold State.changeClassifying
  exact ((((steady_decideRun s).trans (steady_closeBatch _)).trans (steady_setShade _ _)).trans (steady_zeroMirror _)).trans
    (steady_latch _ _)

theorem steady_writeReading (s : State) (c : Int) (body : OrderBody) (r : Reading) :
    Steady s (s.writeReading c body r) := by
  unfold State.writeReading
  exact steady_setUnit s _ _ (by intro _; rfl)

theorem steady_joinRun (s : State) (c : Int) (body : OrderBody) : Steady s (s.joinRun c body) := by
  unfold State.joinRun
  extract_lets t
  have h : Steady s t := steady_setUnit s _ _ (by intro _; rfl)
  exact (h.trans (steady_setShade t _)).trans (steady_testRun _ _)

theorem steady_classifyRunning (s : State) (c : Int) (body : OrderBody) (result : Option Reading) :
    Steady s (s.classifyRunning c body result) := by
  unfold State.classifyRunning
  split
  · split
    · exact Steady.ite ((steady_decideRun s).trans (steady_decideUnit _ _ _ _ _)) (steady_joinRun s _ _)
    · exact steady_joinRun s _ _
  · exact Steady.ite (steady_decideUnit s _ _ _ _)
      ((steady_setUnit s _ _ (by intro _; rfl)).trans (steady_setShade _ _))

theorem steady_classify (s : State) (c : Int) (result : Option Reading) : Steady s (s.classify c result) := by
  unfold State.classify
  split
  · exact Steady.refl s
  · extract_lets body t k u
    have h1 : Steady s t := by
      dsimp only [t]
      split
      · exact steady_writeReading s _ _ _
      · exact Steady.refl s
    have h2 : Steady t u := Steady.ite (Steady.refl t) (steady_changeClassifying t k)
    exact (h1.trans h2).trans (Steady.ite (steady_decideUnit u _ _ _ _) (steady_classifyRunning u _ _ _))

theorem steady_shadeOrderDone (s : State) (k : OrderKey) : Steady s (s.shadeOrderDone k) :=
  Steady.ite ((steady_decideRun s).trans (steady_closeBatch _)) (Steady.refl s)

theorem steady_countRoll (s : State) (k : OrderKey) (b : Nat) (waste : Bool) : Steady s (s.countRoll k b waste) :=
  Steady.ite (steady_setBatch s _ _) (Steady.refl s)

theorem steady_shadeActivated (s : State) : Steady s s.shadeActivated := steady_setShade s _

/-! ## Requests -/

theorem steady_drainRequests (s : State) (n : Nat) : Steady s (s.drainRequests n) := by
  induction n generalizing s with
  | zero => exact Steady.refl s
  | succ n ih =>
    unfold State.drainRequests
    split
    · exact Steady.refl s
    · exact Steady.ite (((steady_setShade s _).trans (steady_classify _ _ _)).trans (ih _)) (Steady.refl s)

theorem steady_endRequests (s : State) (p : Request → Bool) : Steady s (s.endRequests p) := steady_setShade s _

theorem steady_classifyDone (s : State) : Steady s s.classifyDone := steady_drainRequests s 9

theorem steady_appendRequest (s : State) (q : Request) : Steady s (s.appendRequest q) := by
  unfold State.appendRequest
  exact (Steady.ite ((steady_setShade s _).trans (steady_classifyDone _)) (Steady.refl s)).trans (steady_setShade _ _)

theorem steady_shadeRequest (s : State) (u : UnitRec) : Steady s (s.shadeRequest u) := by
  unfold State.shadeRequest
  extract_lets t tag absent v
  have h : Steady s t := steady_setUnit s _ _ (by intro _; rfl)
  have h2 : Steady t v := (steady_appendRequest t _).trans (steady_endRequests _ _)
  exact h.trans (Steady.ite (Steady.refl t) (Steady.ite ((steady_appendRequest t _).trans (steady_classifyDone _))
    ((h2.trans (steady_hand v _ _)).trans (steady_classifyDone _))))

theorem steady_measureSent (s : State) (unit : Int) : Steady s (s.measureSent unit) := by
  unfold State.measureSent
  exact steady_setShade s _

theorem steady_headReported (s : State) (cal : Bool) (reading : Option (Nat × Reading)) :
    Steady s (s.headReported cal reading) := by
  unfold State.headReported
  extract_lets t
  have h : Steady s t := by
    dsimp only [t]
    split
    · exact steady_setShade s _
    · exact Steady.refl s
  exact (h.trans (steady_setShade t _)).trans (steady_classifyDone _)

theorem steady_countCycles (s : State) : Steady s s.countCycles := (steady_setShade s _).trans (steady_classifyDone _)

theorem steady_dropRequests (s : State) : Steady s s.dropRequests := by
  unfold State.dropRequests
  extract_lets t
  have h : Steady s t := by
    dsimp only [t]
    split
    · exact steady_setNode s _ _
    · exact Steady.refl s
  exact (h.trans (steady_endRequests t _)).trans (steady_classifyDone _)

theorem steady_shadeRestarted (s : State) : Steady s s.shadeRestarted := (steady_setShade s _).trans (steady_dropRequests _)

theorem steady_calibrateLost (s : State) (again : Bool) : Steady s (s.calibrateLost again) :=
  Steady.ite (Steady.refl s) (steady_setShade s _)

theorem steady_sendCalibrate (s : State) : Steady s s.sendCalibrate := by
  unfold State.sendCalibrate
  extract_lets again t
  have h : Steady s t := steady_setShade s _
  refine Steady.ite (h.trans ?_) (Steady.refl s)
  clear_value t
  grind [steady_hand, steady_calibrateLost, Steady.trans]

theorem steady_shadeCutDone (s : State) : Steady s s.shadeCutDone := by
  unfold State.shadeCutDone
  split
  · exact Steady.refl s
  · exact Steady.ite (Steady.refl s)
      (Steady.ite ((steady_setShade s _).trans (steady_sendCalibrate _)) (steady_setShade s _))

theorem steady_horizonReached (s : State) (u : UnitRec) : Steady s (s.horizonReached u) := by
  unfold State.horizonReached
  extract_lets t v
  have h : Steady s t := steady_setUnit s _ _ (by intro _; rfl)
  have h2 : Steady t v := steady_raise t _ _
  exact Steady.ite (Steady.ite ((steady_raise s _ _).trans (steady_decideRun _)) (Steady.refl s))
    (Steady.ite h ((h.trans h2).trans (Steady.ite ((steady_endRequests v _).trans (steady_classifyDone _))
      ((steady_setUnit v _ _ (by intro _; rfl)).trans (steady_classify _ _ _)))))

end Sys2Proof.Machine
end

