-- ==== Sys2Proof/Laws/SteadyTrack.lean ====
section
/-! SUPPORT. The law of the web track under a creation (R6, R7), and that each operation of Track.lean and Register.lean is
`Steady`. -/

namespace Sys2Proof.Machine

/-! ## A creation keeps the law of the track -/

theorem roundHalfAway_nonneg {n d : Int} (hn : 0 ≤ n) (hd : 0 < d) : 0 ≤ roundHalfAway n d := by
  unfold roundHalfAway
  rw [if_pos hn]
  exact Int.ediv_nonneg (by omega) (by omega)

theorem toCounts_nonneg {l p : Int} (hl : 0 ≤ l) (hp : 0 < p) : 0 ≤ toCounts l p :=
  roundHalfAway_nonneg (by omega) hp

/-- Under the track law every order copy, and what stands for a copy that is none, has a repeat that is not negative. -/
theorem body_nominal_nonneg {s : State} (h : s.TrackOk) (n : Nat) : 0 ≤ (s.body n).nominal := by
  unfold State.body
  cases hb : (s.order n).body with
  | none => simp [OrderBody.zero]
  | some b =>
    have hm : s.order n ∈ s.ord.orders ∨ s.order n = OrderRec.reset := by
      unfold State.order
      by_cases hn : n < s.ord.orders.length
      · left; rw [List.getD_eq_getElem _ _ hn]; exact List.getElem_mem hn
      · right; rw [List.getD_eq_default _ _ (by omega)]
    rcases hm with hm | hm
    · exact h.repeats _ hm b hb
    · rw [hm] at hb; cases hb

/-- R6 under the law: the coordinate of a granted creation lies above the previous one. -/
theorem coordinateOrder_gt {s : State} (h : s.TrackOk) {slot : Nat} {c p : Int} (hc : s.coordinateOrder slot c = true)
    (hp : s.track.prevC = some p) : p < c := by
  unfold State.coordinateOrder at hc
  rw [hp] at hc
  have h0 : 0 ≤ s.lNomPE (s.body slot) := toCounts_nonneg (body_nominal_nonneg h slot) h.pitch
  have h1 : 0 ≤ floorDiv (s.lNomPE (s.body slot)) 2 := by
    unfold floorDiv
    exact Int.fdiv_nonneg h0 (by decide)
  have h2 := of_decide_eq_true hc
  omega

/-- A record beyond every other is appended and becomes the previous record. -/
theorem steady_append (s : State) (tr : Track) (u : UnitRec) (hu : tr.units = s.track.units ++ [u])
    (hp : tr.prevC = some u.c) (hlen : s.track.units.length < 256)
    (hgt : s.TrackOk → ∀ p, s.track.prevC = some p → p < u.c) : Steady s { s with track := tr } where
  pending := rfl
  coord := rfl
  settings := rfl
  printer := rfl
  port := rfl
  notice := fun _ hi => hi
  host := fun _ _ => rfl
  memory := id
  stopPair := id
  header := id
  track := fun h => {
    room := by
      show tr.units.length ≤ 256
      rw [hu, List.length_append]; simp only [List.length_cons, List.length_nil]; omega
    rising := by
      show (tr.units.map UnitRec.c).Pairwise (fun a b => a < b)
      rw [hu, List.map_append, List.pairwise_append]
      refine ⟨h.rising, by simp, ?_⟩
      intro a ha b hb
      obtain ⟨v, hv, rfl⟩ := List.mem_map.mp ha
      simp only [List.map_cons, List.map_nil, List.mem_singleton] at hb
      subst hb
      obtain ⟨p, hp1, hp2⟩ := h.previous v hv
      exact Int.lt_of_le_of_lt hp2 (hgt h p hp1)
    previous := by
      intro v hv
      refine ⟨u.c, hp, ?_⟩
      have hv' : v ∈ s.track.units ++ [u] := hu ▸ hv
      rcases List.mem_append.mp hv' with hv | hv
      · obtain ⟨p, hp1, hp2⟩ := h.previous v hv
        exact Int.le_of_lt (Int.lt_of_le_of_lt hp2 (hgt h p hp1))
      · rw [List.mem_singleton.mp hv]
    pitch := h.pitch
    repeats := h.repeats }

theorem steady_addUnit (s : State) (slot : Nat) (c : Int) (synthetic : Bool) (hlen : s.track.units.length < 256)
    (hc : s.coordinateOrder slot c = true) : Steady s (s.addUnit slot c synthetic) := by
  unfold State.addUnit
  extract_lets u prev t xES src v w
  clear_value prev
  have h1 : Steady s t ∧ t.track.units.length = s.track.units.length ∧ t.track.prevC = s.track.prevC
      ∧ t.ord = s.ord ∧ t.settings = s.settings := by
    dsimp only [t]
    split
    · refine ⟨steady_setUnit s _ _ (fun _ => rfl), ?_, rfl, rfl, rfl⟩
      simp [State.setUnit]
    · exact ⟨Steady.refl s, rfl, rfl, rfl, rfl⟩
  obtain ⟨h1, hl, hp, ho, hs⟩ := h1
  have h2 : Steady t v := steady_append t _ u rfl rfl (by rw [hl]; exact hlen) (fun ht p htp => by
    refine coordinateOrder_gt (s := t) (slot := slot) ht ?_ htp
    show t.coordinateOrder slot c = true
    simpa [State.coordinateOrder, hp, State.lNomPE, State.peP, State.setting, hs, State.body, State.order, ho] using hc)
  have h3 : Steady v w := steady_setOrder v _ _ (fun o b hb => .inl hb)
  exact (((h1.trans h2).trans h3).trans (steady_endPulse w)).trans (steady_settle _)

theorem steady_create (s : State) (c : Int) (synthetic : Bool) : Steady s (s.create c synthetic).1 := by
  unfold State.create
  split
  · exact Steady.refl s
  · split
    · exact steady_raise s _ _
    · split
      · exact steady_addUnit s _ _ _ (by omega) (by assumption)
      · exact Steady.refl s

/-! ## Station loops -/

theorem steady_printTrimLost (s : State) (st : Nat) : Steady s (s.printTrimLost st) := steady_setLoop s _ _

theorem steady_correctStation (s : State) (st : Nat) : Steady s (s.correctStation st) := by
  unfold State.correctStation
  grind [steady_hand, steady_setLoop, steady_printTrimLost, Steady.trans, Steady.refl]

theorem steady_stationMisses (s : State) (st : Nat) : Steady s (s.stationMisses st) := by
  unfold State.stationMisses
  grind [steady_setLoop, steady_raise, Steady.trans, Steady.refl]

theorem steady_stationValid (s : State) (st : Nat) (e : Int) : Steady s (s.stationValid st e) := by
  unfold State.stationValid
  grind [steady_setLoop, steady_clear, steady_correctStation, Steady.trans, Steady.refl]

theorem steady_stationTolerance (s : State) (st : Nat) (unit e : Int) (counted : Bool) :
    Steady s (s.stationTolerance st unit e counted) := by
  unfold State.stationTolerance
  grind [steady_setLoop, steady_setUnit, steady_raise, steady_clear, Steady.trans, Steady.refl]

theorem steady_stationMissing (s : State) (st : Nat) : Steady s (s.stationMissing st) := by
  unfold State.stationMissing
  grind [steady_setLoop, steady_stationMisses, Steady.trans, Steady.refl]

theorem steady_stationMeasured (s : State) (st : Nat) (e : Int) : Steady s (s.stationMeasured st e) := steady_setLoop s _ _

theorem steady_stationResult (s : State) (st : Nat) (unit : Int) (result : Option Int) :
    Steady s (s.stationResult st unit result) := by
  unfold State.stationResult
  extract_lets before
  clear_value before
  split
  · exact steady_stationMissing s _
  · exact Steady.ite (Steady.refl s)
      ((Steady.ite (steady_stationMeasured s _ _) (steady_stationValid s _ _)).trans (steady_stationTolerance _ _ _ _ _))

/-! ## Mark blocks and the reference -/

theorem steady_placeMark (s : State) (b : Block) (m : Int) : Steady s (s.placeMark b m) := by
  unfold State.placeMark
  grind [steady_reg, Steady.refl]

theorem steady_closeBlock (s : State) : Steady s s.closeBlock := by
  unfold State.closeBlock
  split
  · exact Steady.refl s
  · rename_i b _
    extract_lets src t u
    have h1 : Steady s t := steady_reg s _
    have h2 : Steady t u := steady_setUnit t _ _ (fun _ => rfl)
    exact (h1.trans h2).trans (steady_foldl (fun v st => steady_stationResult v st b.r (b.result st)) _ _)

theorem steady_expireReference (s : State) : Steady s s.expireReference := by
  unfold State.expireReference
  split
  · exact Steady.refl s
  · rename_i cp _
    extract_lets c
    have h := steady_create s c true
    generalize s.create c true = r at h ⊢
    split
    extract_lets
    refine ((h.trans (Steady.ite (steady_reg _ _) (Steady.refl _))).trans (steady_reg _ _)).trans
      ((steady_raise _ _ _).trans (Steady.ite (steady_raise _ _ _) (Steady.refl _)))

theorem steady_expireBelow (s : State) (m : Int) (fuel : Nat) : Steady s (s.expireBelow m fuel) := by
  induction fuel generalizing s with
  | zero => exact Steady.refl s
  | succ fuel ih =>
    unfold State.expireBelow
    split
    · exact Steady.ite ((steady_expireReference s).trans (ih _)) (Steady.refl s)
    · exact Steady.refl s

theorem steady_acceptReference (s : State) (m : Int) : Steady s (s.acceptReference m) := by
  unfold State.acceptReference
  extract_lets prev
  clear_value prev
  have h := steady_create s m false
  split
  · rename_i heq
    rw [heq] at h
    exact h
  · rename_i heq
    rw [heq] at h
    extract_lets
    exact (h.trans (steady_reg _ _)).trans (steady_clear _ _ _)

theorem steady_judgeCandidate (s : State) (m : Int) : Steady s (s.judgeCandidate m) := by
  unfold State.judgeCandidate
  grind [steady_expireBelow, steady_acceptReference, Steady.trans, Steady.refl]

theorem steady_takeMark (s : State) (m : Int) : Steady s (s.takeMark m) := by
  unfold State.takeMark
  grind [steady_closeBlock, steady_placeMark, steady_judgeCandidate, steady_reg, Steady.trans, Steady.refl]

/-! ## The taking order -/

theorem steady_startLoop (s : State) (st : Nat) : Steady s (s.startLoop st) :=
  ((steady_setLoop s _ _).trans (steady_clear _ _ _)).trans (steady_clear _ _ _)

theorem steady_loopOff (s : State) (st : Nat) : Steady s (s.loopOff st) :=
  ((steady_setLoop s _ _).trans (steady_clear _ _ _)).trans (steady_clear _ _ _)

theorem steady_startLoops (s : State) (n : Nat) : Steady s (s.startLoops n) :=
  steady_foldl (fun s _ => Steady.ite (steady_startLoop s _) (steady_loopOff s _)) _ _

theorem steady_takingChanged (s : State) (old new : Option OrderBody) : Steady s (s.takingChanged old new) := by
  unfold State.takingChanged
  extract_lets kept geom src t u
  clear_value kept geom
  have h1 : Steady s t := steady_reg s _
  have h2 : Steady t u := by
    dsimp only [u]
    split
    · exact Steady.refl t
    · have hx (x : RegisterUnit) (k : Nat) :
          Steady t (State.clear { t with freeIdx := t.freeIdx + k, reg := x } referenceLost 0) :=
        ((steady_freeIdx t (t.freeIdx + k)).trans (steady_reg _ x)).trans (steady_clear _ _ _)
      split <;> exact hx _ _
  exact (h1.trans h2).trans (steady_startLoops _ _)

theorem steady_printRestarted (s : State) (st : Nat) : Steady s (s.printRestarted st) := steady_setLoop s _ _

theorem steady_openZone (s : State) (p : Int) : Steady s (s.openZone p) :=
  (steady_reg s _).trans (steady_loopsSettle _)

end Sys2Proof.Machine
end

