-- ==== Sys2Proof/Laws/SteadyWinder.lean ====
section
/-! SUPPORT. Each operation of the winder is `Steady`. -/

namespace Sys2Proof.Machine

theorem steady_setWinder (s : State) (f : Winder → Winder) : Steady s (s.setWinder f) := steady_winder s _

theorem steady_overlengthTest (s : State) : Steady s s.overlengthTest := by
  unfold State.overlengthTest
  split
  · split
    · exact Steady.ite (steady_raise s _ _) (Steady.refl s)
    · exact Steady.refl s
  · exact Steady.refl s

@[simp] theorem cutLeft_out (s : State) : s.cutLeft.winder.out = none := rfl
@[simp] theorem cutLeft_st (s : State) : s.cutLeft.winder.st = .winding := rfl
@[simp] theorem cutLeft_roll (s : State) : s.cutLeft.winder.roll = s.winder.roll := rfl
@[simp] theorem cutLeft_closing (s : State) : s.cutLeft.winder.closing = s.winder.closing := rfl
@[simp] theorem cutLeft_awaitBoundary (s : State) : s.cutLeft.winder.awaitBoundary = false := rfl
@[simp] theorem cutLeft_cut (s : State) : s.cutLeft.cut = s.cut := rfl
@[simp] theorem cutLeft_posHF (s : State) : s.cutLeft.posHF = s.posHF := rfl

/-- The end of an outstanding cut changes the winder alone. -/
theorem cutLeft_eq (s : State) : s.cutLeft = { s with winder := s.cutLeft.winder } := rfl

/-- All that the end of an outstanding cut does to the lead event: nothing without one, and else its threshold stays. -/
theorem cutLeft_lead (s : State) :
    (s.winder.lead = none ∧ s.cutLeft.winder.lead = none)
    ∨ ∃ l, s.winder.lead = some l
        ∧ s.cutLeft.winder.lead = some { l with fired := l.fired || decide (l.threshold ≤ s.posHF) } := by
  cases h : s.winder.lead <;> simp [State.cutLeft, State.setWinder, h]

theorem steady_cutLeft (s : State) : Steady s s.cutLeft := steady_setWinder s _

theorem steady_giveUpCut (s : State) : Steady s s.giveUpCut := by
  unfold State.giveUpCut
  split
  · exact Steady.refl s
  · exact ((steady_raise s _ _).trans (steady_cutLeft _)).trans (steady_setCut _ _)

theorem steady_cutInLost (s : State) (serial fuel : Nat) : Steady s (s.cutInLost serial fuel) := by
  induction fuel generalizing s with
  | zero => exact Steady.refl s
  | succ fuel ih =>
    unfold State.cutInLost
    split
    · exact Steady.refl s
    · extract_lets rem t
      have h : Steady s t := steady_setWinder s _
      refine Steady.ite (Steady.refl s) (Steady.ite (steady_giveUpCut s) (Steady.ite (h.trans ?_) (steady_giveUpCut s)))
      have h2 := steady_hand t .winder (.cutIn rem serial)
      split
      · rename_i heq; rw [heq] at h2; exact h2
      · rename_i heq; rw [heq] at h2; exact h2.trans (ih _)

theorem steady_commitCut (s : State) (e : PlanEntry) (rem : Int) : Steady s (s.commitCut e rem) := by
  unfold State.commitCut
  extract_lets t u v serial c w
  have h1 : Steady s t := steady_setPlan s _
  have h2 : Steady t u := steady_setCut t _
  have h3 : Steady u v := Steady.ite (steady_moveCount u _) (Steady.refl u)
  have h4 : Steady v w := steady_setWinder v _
  refine (((h1.trans h2).trans h3).trans h4).trans ?_
  have h5 := steady_hand w .winder (.cutIn rem serial)
  split
  · rename_i heq; rw [heq] at h5; exact h5
  · rename_i heq; rw [heq] at h5; exact h5.trans (steady_cutInLost _ _ _)

theorem steady_deferEntry (s : State) (e : PlanEntry) (y : Int) : Steady s (s.deferEntry e y) := by
  unfold State.deferEntry
  extract_lets plan t u
  have h1 : Steady s t := Steady.ite (steady_stripFor s y) (Steady.refl s)
  have h2 : Steady t u := (steady_setPlan t _).trans (steady_entryMoved _ _ _ _)
  exact (h1.trans h2).trans (Steady.ite (steady_countFrom u y) (Steady.refl u))

theorem steady_deferEarliest (s : State) : Steady s s.deferEarliest := by
  unfold State.deferEarliest
  split
  · exact Steady.refl s
  · split
    · exact (steady_deferEntry s _ _).trans (steady_setWinder _ _)
    · exact steady_setWinder s _

theorem steady_stall (s : State) (b : Blocked) : Steady s (s.stall b) := by
  unfold State.stall
  extract_lets entering t u
  have h1 : Steady s t := steady_setWinder s _
  have h2 : Steady t u := Steady.ite (steady_raise t _ _) (Steady.refl t)
  exact (h1.trans h2).trans (Steady.ite (steady_overlengthTest u) (Steady.refl u))

theorem steady_decideEntry (s : State) : Steady s s.decideEntry := by
  unfold State.decideEntry
  split
  · exact Steady.refl s
  · extract_lets t
    have h : Steady s t := steady_closeAtEntry s _
    refine h.trans ?_
    clear_value t
    split
    · exact Steady.refl t
    · exact Steady.ite (Steady.ite (steady_commitCut t _ _) (steady_deferEarliest t)) (steady_stall t _)

theorem steady_unstall (s : State) : Steady s s.unstall := Steady.ite (Steady.refl s) (steady_setWinder s _)

theorem steady_reassess (s : State) : Steady s s.reassess := by
  unfold State.reassess
  refine Steady.ite (Steady.refl s) ?_
  split
  · exact steady_unstall s
  · extract_lets t
    have h : Steady s t := steady_unstall s
    exact Steady.ite (h.trans (Steady.ite (steady_decideEntry t) (Steady.refl t))) (steady_stall s _)

theorem steady_armLead (s : State) : Steady s s.armLead.1 := by
  unfold State.armLead
  split
  · exact steady_winder s _
  · extract_lets armed t due
    split
    · exact Steady.refl s
    · exact steady_winder s _

theorem steady_openRoll (s : State) (x : Int) : Steady s (s.openRoll x) := by
  unfold State.openRoll
  extract_lets opening spindle t u
  have h1 : Steady s t := steady_setWinder s _
  have h2 : Steady t u := steady_setPlan t _
  refine Steady.ite (Steady.refl s) ((h1.trans h2).trans (Steady.ite ?_ (Steady.refl u)))
  split
  · exact steady_report u _
  · exact Steady.refl u

theorem steady_joinUnit (s : State) (u : UnitRec) : Steady s (s.joinUnit u) := by
  unfold State.joinUnit
  extract_lets b
  split
  · exact steady_setWinder s _
  · exact (steady_setWinder s _).trans (steady_overlengthTest _)

theorem steady_closeRoll (s : State) (c : OutstandingCut) (residual : Int) : Steady s (s.closeRoll c residual) := by
  unfold State.closeRoll
  extract_lets
  exact ((steady_cutLeft s).trans (steady_setWinder _ _)).trans (steady_clear _ _ _)

theorem steady_winderReported (s : State) (pair : SpindleState × SpindleState) : Steady s (s.winderReported pair) :=
  (steady_setWinder s _).trans (steady_reassess _)

theorem steady_winderRestarted (s : State) : Steady s s.winderRestarted :=
  ((steady_setWinder s _).trans (steady_giveUpCut _)).trans (steady_reassess _)

end Sys2Proof.Machine
end

