-- ==== Sys2Proof/Laws/SteadyOrder.lean ====
section
/-! SUPPORT. Each operation of the order unit, of Plan.lean, of the roll-record block and of Web.lean is `Steady`. -/

namespace Sys2Proof.Machine

/-! ## Order unit: part halves and posts -/

/-- A write into an order slot. -/
theorem steady_orderStore (s : State) (n k : Nat) (bs : List Byte) : Steady s (s.partStore (orderSlotAddr n + k) bs) :=
  steady_partStore s _ bs (.inr (by unfold orderSlotAddr; omega))

/-- A change of an order that leaves its copy. -/
theorem steady_keepBody (s : State) (n : Nat) (f : OrderRec → OrderRec) (h : ∀ o, (f o).body = o.body) :
    Steady s (s.setOrder n f) :=
  steady_setOrder s n f (fun o b hb => .inl (by rw [← h]; exact hb))

/-- A change of an order that leaves it no copy. -/
theorem steady_dropBody (s : State) (n : Nat) (f : OrderRec → OrderRec) (h : ∀ o, (f o).body = none) :
    Steady s (s.setOrder n f) :=
  steady_setOrder s n f (fun o b hb => by rw [h] at hb; cases hb)

theorem steady_nextSerial (s : State) (x : Nat) : Steady s { s with ord := { s.ord with nextSerial := x } } :=
  steady_ord s _ rfl
theorem steady_setActive (s : State) (x : Option Nat) : Steady s { s with ord := { s.ord with active := x } } :=
  steady_ord s _ rfl
theorem steady_setHold (s : State) (x : Bool) : Steady s { s with ord := { s.ord with hold := x } } :=
  steady_ord s _ rfl
theorem steady_setWaste (s : State) (x : Bool) : Steady s { s with ord := { s.ord with waste := x } } :=
  steady_ord s _ rfl

theorem steady_writeOrderState (s : State) (n : Nat) : Steady s (s.writeOrderState n) :=
  ((steady_orderStore s n _ _).trans (steady_tagWritten _)).trans (steady_latch _ _)

theorem steady_writeOrderCounts (s : State) (n : Nat) : Steady s (s.writeOrderCounts n) := steady_orderStore s n _ _

theorem steady_setOrderState (s : State) (n : Nat) (st : OrderState) : Steady s (s.setOrderState n st) := by
  unfold State.setOrderState
  exact (steady_keepBody s _ _ (by intro _; rfl)).trans (steady_writeOrderState _ _)

theorem steady_refuseBusy (s : State) (n : Nat) : Steady s (s.refuseBusy n) := by
  unfold State.refuseBusy
  extract_lets t u
  have h : Steady s u := steady_orderStore s n _ _
  exact Steady.ite (Steady.refl s) ((h.trans (steady_keepBody u _ _ (by intro _; rfl))).trans (steady_latch _ _))

/-- What a validated body says of its repeat (R126). -/
theorem nominal_of_checks {b : OrderBody} (h : b.badField = none) : 0 ≤ b.nominal := by
  unfold OrderBody.badField at h
  rw [Option.map_eq_none_iff, List.find?_eq_none] at h
  have h2 := h (10, within b.nominal 1000 20000) (by
    unfold OrderBody.checks
    refine List.mem_append_left _ ?_
    simp)
  unfold within at h2
  simp at h2
  omega

theorem steady_takePost (s : State) (n : Nat) (b : OrderBody) (hb : 0 ≤ b.nominal) : Steady s (s.takePost n b) := by
  unfold State.takePost
  extract_lets serial src0 t src u a v
  have h1 : Steady s t := steady_setOrder s _ _ (fun o c hc => .inr (by
    have h : b = c := by simpa using hc
    exact h ▸ hb))
  have h2 : Steady t u := steady_nextSerial t _
  have h3 : Steady u v := steady_orderStore u n _ _
  exact (((h1.trans h2).trans h3).trans (steady_orderStore v n _ _)).trans
    ((steady_tagWritten _).trans (steady_latch _ _))

theorem steady_refusePost (s : State) (n code field : Nat) : Steady s (s.refusePost n code field) := by
  unfold State.refusePost
  extract_lets serial src0 t src u a v
  have h1 : Steady s t := steady_dropBody s _ _ (by intro _; rfl)
  have h2 : Steady t u := steady_nextSerial t _
  have h3 : Steady u v := steady_orderStore u n _ _
  exact (((h1.trans h2).trans h3).trans (steady_orderStore v n _ _)).trans
    ((steady_tagWritten _).trans (steady_latch _ _))

theorem judgePost_badField {s : State} {n : Nat} {b : OrderBody} (h : (s.judgePost n b).1 = 0) : b.badField = none := by
  unfold State.judgePost at h
  split at h
  · simp at h
  · assumption

theorem steady_dealPost (s : State) (n : Nat) : Steady s (s.dealPost n) := by
  unfold State.dealPost
  extract_lets b
  refine Steady.ite (steady_refuseBusy s n) (Steady.ite (Steady.refl s) ?_)
  split
  · rename_i code field heq
    split
    · rename_i hc
      refine steady_takePost s n b (nominal_of_checks (judgePost_badField (s := s) (n := n) ?_))
      rw [heq]; exact hc
    · exact steady_refusePost s _ _ _

/-! ## Activation -/

theorem steady_lastNominal (s : State) (x : Int) : Steady s { s with track := { s.track with lastNominal := x } } :=
  steady_splices s _ x

theorem steady_activate (s : State) (n : Nat) : Steady s (s.activate n) := by
  unfold State.activate
  extract_lets old t u b src src2 v w
  have h1 : Steady s t := steady_keepBody s _ _ (by intro _; rfl)
  have h2 : Steady t u := (steady_writeOrderCounts t n).trans (steady_setOrderState _ _ _)
  have h3 : Steady u v := (steady_setActive u (some n)).trans (steady_lastNominal _ b.nominal)
  have h4 : Steady v w := steady_takingChanged v _ _
  exact ((((h1.trans h2).trans h3).trans h4).trans (steady_embossActivated w b)).trans
    ((steady_drawActivated _).trans (steady_shadeActivated _))

theorem steady_testActivation (s : State) : Steady s s.testActivation := by
  unfold State.testActivation
  split
  · split
    · exact steady_activate s _
    · exact Steady.refl s
  · exact Steady.refl s

/-! ## The end of an order -/

theorem steady_becomeStopped (s : State) (n : Nat) : Steady s (s.becomeStopped n) := by
  unfold State.becomeStopped
  extract_lets e phase beyond src t u src2
  have h1 : Steady s t := steady_units s _ (by
    rw [List.map_map]
    apply List.map_congr_left
    intro v _
    simp only [Function.comp]
    split <;> rfl)
  have h2 : Steady t u := steady_keepBody t _ _ (by intro _; rfl)
  exact (h1.trans h2).trans (steady_setWaste u true)

theorem reassign_c (old new : Nat) (c : Int) (k : Nat) (us : List UnitRec) :
    (reassign old new c k us).map UnitRec.c = us.map UnitRec.c := by
  induction us generalizing k with
  | nil => rfl
  | cons u us ih => unfold reassign; split <;> simp [ih]

/-- The count's order is the new one exactly when its first unit is among the units moved, and nothing else changes. -/
theorem countReassigned_eq (s : State) (m : Nat) (moved : List UnitRec) :
    s.countReassigned m moved = { s with cut := { s.cut with
      rollOrder := if moved.any (fun v => decide (s.cut.first = some v.c)) then m else s.cut.rollOrder } } := rfl

theorem steady_countReassigned (s : State) (m : Nat) (moved : List UnitRec) : Steady s (s.countReassigned m moved) :=
  steady_setCut s _

theorem steady_flyAt (s : State) (n m : Nat) (u : UnitRec) (e' : Int) : Steady s (s.flyAt n m u e') := by
  unfold State.flyAt
  extract_lets moved second e t v src w x src2 y
  have h1 : Steady s t := steady_keepBody s _ _ (by intro _; rfl)
  have h2 : Steady t v := steady_activate t m
  have h3 : Steady v w := steady_units v _ (reassign_c _ _ _ _ _)
  have h4 : Steady w x := steady_keepBody w _ _ (by intro _; rfl)
  have h5 : Steady x y := (steady_setWaste x false).trans (steady_countReassigned _ m moved)
  exact ((((h1.trans h2).trans h3).trans h4).trans h5).trans (Steady.ite (steady_request y _ _) (Steady.refl y))

theorem steady_tryFly (s : State) (n : Nat) : Steady s (s.tryFly n) := by
  unfold State.tryFly
  refine Steady.ite (Steady.refl s) ?_
  split
  · exact Steady.refl s
  · dsimp only
    split
    · exact Steady.refl s
    · split
      · exact steady_flyAt s _ _ _ _
      · exact steady_becomeStopped s _

theorem steady_fixEnd (s : State) (n : Nat) (x : Int) : Steady s (s.fixEnd n x) := by
  unfold State.fixEnd
  extract_lets t u
  have h1 : Steady s t := steady_keepBody s _ _ (by intro _; rfl)
  have h2 : Steady t u := steady_orderStore t n _ _
  refine (h1.trans h2).trans ?_
  clear_value u
  split
  · exact (steady_keepBody u _ _ (by intro _; rfl)).trans (steady_tryFly _ _)
  · exact steady_becomeStopped u _

theorem steady_finishOrder (s : State) (n reason : Nat) : Steady s (s.finishOrder n reason) := by
  unfold State.finishOrder
  extract_lets wasActive stopped k old t u v w src x y
  have h1 : Steady s t := steady_keepBody s _ _ (by intro _; rfl)
  have h2 : Steady t u := (steady_writeOrderCounts t n).trans (steady_orderStore _ n _ _)
  have h3 : Steady u v := steady_setOrderState u n _
  have h4 : Steady v w := steady_shadeOrderDone v k
  have h5 : Steady w x := steady_setActive w none
  have h6 : Steady x y := ((steady_takingChanged x old none).trans (steady_embossOrderEnded _)).trans (steady_followDrawLimit _)
  exact (((h1.trans h2).trans h3).trans h4).trans (Steady.ite ((h5.trans h6).trans
    (Steady.ite (((steady_setHold y true).trans (steady_enterStopped _)).trans (steady_settle _)) (Steady.refl y)))
    (Steady.refl w))

theorem steady_endOrders (s : State) (x : Int) : Steady s (s.endOrders x) := by
  unfold State.endOrders
  refine (steady_foldl (fun s n => ?_) _ s).trans (steady_testActivation _)
  split
  · exact Steady.ite (steady_finishOrder s n _) (Steady.refl s)
  · exact Steady.refl s

theorem steady_testRollCount (s : State) (x : Int) : Steady s (s.testRollCount x) := by
  unfold State.testRollCount
  split
  · exact Steady.refl s
  · extract_lets b
    split
    · exact Steady.ite ((steady_setOrderState s _ _).trans (steady_request _ _ _)) (Steady.refl s)
    · exact Steady.refl s

theorem steady_rollProduced (s : State) (n : Nat) : Steady s (s.rollProduced n) := by
  unfold State.rollProduced
  exact (steady_keepBody s _ _ (by intro _; rfl)).trans (steady_writeOrderCounts _ _)

theorem steady_takeReport (s : State) (r : PlanReport) : Steady s (s.takeReport r) := by
  unfold State.takeReport
  split
  · exact steady_testRollCount s _
  · extract_lets t u
    have h1 : Steady s t := steady_keepBody s _ _ (by intro _; rfl)
    have h2 : Steady t u := Steady.ite (steady_fixEnd t _ _) (Steady.refl t)
    exact (h1.trans h2).trans (Steady.ite (steady_endOrders u _) (Steady.refl u))
  · exact steady_mapOrders s _ (by intro o; split <;> rfl)

theorem steady_requestEnd (s : State) (n : Nat) : Steady s (s.requestEnd n) := by
  unfold State.requestEnd
  split <;> exact steady_request s _ _

theorem steady_orderSpanKnown (s : State) (n : Nat) (x : Int) : Steady s (s.orderSpanKnown n x) := by
  unfold State.orderSpanKnown
  extract_lets o t src u
  have h1 : Steady s t := steady_keepBody s _ _ (by intro _; rfl)
  have h2 : Steady s u := steady_keepBody s _ _ (by intro _; rfl)
  exact Steady.ite (h1.trans (Steady.ite ((steady_setWaste t false).trans (steady_request _ _ _)) (Steady.refl t)))
    (Steady.ite (h2.trans (Steady.ite ((steady_keepBody u _ _ (by intro _; rfl)).trans (steady_requestEnd _ _))
      (Steady.refl u))) (Steady.refl s))

theorem steady_withdraw (s : State) (n : Nat) : Steady s (s.withdraw n) := by
  unfold State.withdraw
  split
  · exact (steady_dropBody s _ _ (by intro _; rfl)).trans (steady_setOrderState _ _ _)
  · extract_lets known t
    have h : Steady s t := (steady_keepBody s _ _ (by intro _; rfl)).trans (steady_setOrderState _ _ _)
    exact Steady.ite (steady_finishOrder s _ _)
      (h.trans (Steady.ite (steady_requestEnd t _) (Steady.refl t)))
  all_goals exact Steady.refl s

theorem steady_withdrawAll (s : State) : Steady s s.withdrawAll := by
  unfold State.withdrawAll
  extract_lets t
  have h : Steady s t := steady_foldl (fun s n => steady_withdraw s n) _ s
  exact Steady.ite (h.trans (steady_testActivation t)) h

theorem steady_dropBusy (s : State) (n : Nat) : Steady s (s.dropBusy n) :=
  Steady.ite (steady_keepBody s _ _ (by intro _; rfl)) (Steady.refl s)

theorem steady_sweepOrders (s : State) : Steady s s.sweepOrders := by
  unfold State.sweepOrders
  extract_lets slots t posts u seqs sorted
  have h1 : Steady s t := steady_withdrawAll s
  have h2 : Steady t u := steady_foldl steady_dropBusy _ t
  exact ((h1.trans h2).trans (steady_foldl (fun s n => steady_dealPost s n) _ u)).trans (steady_testActivation _)

/-! ## What is due at once -/

theorem steady_reportStep (s t : State) (h : s.reportStep = some t) : Steady s t := by
  unfold State.reportStep at h
  split at h
  · cases h
  · cases h; exact (steady_setCut s _).trans (steady_takeReport _ _)

theorem steady_segmentStep (s t : State) (h : s.segmentStep = some t) : Steady s t := by
  unfold State.segmentStep at h
  split at h
  · cases h
  · obtain ⟨g, _, hg⟩ := List.exists_of_findSome?_eq_some h
    obtain ⟨a, _, rfl⟩ := Option.map_eq_some_iff.mp hg
    exact steady_closeSegment s g a

theorem steady_heldStep (s t : State) (h : s.heldStep = some t) : Steady s t := by
  unfold State.heldStep at h
  split at h
  · cases h
  · split at h
    · cases h
    · cases h; exact (steady_setCut s _).trans (steady_request _ _ _)

theorem steady_fullStep (s t : State) (h : s.fullStep = some t) : Steady s t := by
  unfold State.fullStep at h
  split at h
  · cases h
  · split at h
    · cases h
    · cases h; exact (steady_setCut s _).trans (steady_placeWaiting _ _)

theorem steady_awaitStep (s t : State) (h : s.awaitStep = some t) : Steady s t := by
  unfold State.awaitStep at h
  split at h
  · rename_i q rest x _ _
    have h1 (f : Planner → Planner) : Steady s (s.setCut f) := steady_setCut s f
    dsimp only at h
    split at h <;> cases h
    · exact (h1 _).trans (steady_placeMissed _ _ _ _)
    · exact (h1 _).trans (steady_placeWaiting _ _)
  · cases h

theorem steady_deferStep (s t : State) (h : s.deferStep = some t) : Steady s t := by
  unfold State.deferStep at h
  split at h
  · cases h
  · split at h
    · cases h; exact steady_deferEarliest s
    · cases h

theorem steady_leadStep (s t : State) (h : s.leadStep = some t) : Steady s t := by
  unfold State.leadStep at h
  dsimp only at h
  have h0 : Steady s (if s.leadEntryLeft then s.unstall else s) := Steady.ite (steady_unstall s) (Steady.refl s)
  have h1 := h0.trans (steady_armLead _)
  split at h
  · cases h
  · split at h
    · rename_i heq; rw [heq] at h1; cases h
      exact h1.trans (Steady.ite (steady_reassess _) (Steady.refl _))
    · rename_i heq; rw [heq] at h1; cases h
      exact (h1.trans (steady_decideEntry _)).trans (Steady.ite (steady_deferEarliest _) (Steady.refl _))

theorem steady_planStep (s t : State) (h : s.planStep = some t) : Steady s t := by
  unfold State.planStep at h
  simp only [Option.orElse_eq_some] at h
  rcases h with h | ⟨_, h | ⟨_, h | ⟨_, h | ⟨_, h | ⟨_, h | ⟨_, h | ⟨_, h⟩⟩⟩⟩⟩⟩⟩
  · exact steady_reportStep s t h
  · exact steady_segmentStep s t h
  · exact steady_heldStep s t h
  · exact steady_fullStep s t h
  · exact steady_awaitStep s t h
  · exact steady_countStep s t h
  · exact steady_deferStep s t h
  · exact steady_leadStep s t h

theorem steady_planLoop (s : State) (n : Nat) : Steady s (s.planLoop n) := by
  induction n generalizing s with
  | zero => exact Steady.refl s
  | succ n ih =>
    unfold State.planLoop
    split
    · rename_i t h
      exact (steady_planStep s t h).trans (ih t)
    · exact Steady.refl s

theorem steady_discardCopies (s : State) : Steady s s.discardCopies :=
  steady_foldl (fun s n => Steady.ite (steady_dropBody s n _ (by intro _; rfl)) (Steady.refl s)) _ s

theorem steady_settlePlan (s : State) : Steady s s.settlePlan := (steady_planLoop s 4096).trans (steady_discardCopies _)

/-! ## Roll records and the label line -/

/-- A change of the roll-record block that leaves the printer report. -/
theorem steady_setRolls (s : State) (f : RollUnit → RollUnit) (h : ∀ r, (f r).printer = r.printer) :
    Steady s (s.setRolls f) := steady_rolls s _ (h s.rolls)

theorem steady_setRecord (s : State) (seq : Nat) (f : RollRec → RollRec) : Steady s (s.setRecord seq f) :=
  steady_rolls s _ rfl

theorem steady_compose (s : State) (c : ClosingRoll) : Steady s (s.compose c) := by
  unfold State.compose
  extract_lets k seq number r body t u
  have h1 : Steady s t := Steady.ite (steady_keepBody s _ _ (by intro _; rfl))
    (Steady.ite (Steady.refl s) (steady_freeIdx s _))
  have h2 : Steady t u := steady_setRolls t _ (by intro _; rfl)
  exact (h1.trans h2).trans (steady_countRoll u _ _ _)

/-- A change of a batch leaves the roll-record block alone. -/
theorem setBatch_rolls (s : State) (b : Nat) (f : BatchRec → BatchRec) : (s.setBatch b f).rolls = s.rolls := by
  unfold State.setBatch
  split
  · rfl
  · simp

/-- Counting a roll with its batch leaves the roll-record block alone. -/
theorem countRoll_rolls (s : State) (k : OrderKey) (b : Nat) (waste : Bool) : (s.countRoll k b waste).rolls = s.rolls := by
  unfold State.countRoll
  split
  · exact setBatch_rolls _ _ _
  · rfl

/-- What a composed roll adds: one record at the tail of the holding queue, and its sequence number (R108, R109). -/
theorem compose_rolls (s : State) (c : ClosingRoll) :
    (s.compose c).rolls = { s.rolls with
      queue := s.rolls.queue ++ [s.rollRecord c (nextCyclic 4294967295 s.rolls.seq) (s.recordNumber c)],
      seq := nextCyclic 4294967295 s.rolls.seq, lastOrder := s.rollOrder c,
      lastComposed := some { number := s.recordNumber c, body := s.recordBody c } } := by
  unfold State.compose
  rw [countRoll_rolls]
  by_cases h : s.copyHeld c = true <;> by_cases h2 : s.rolls.lastComposed.isSome = true <;>
    simp only [h, h2, if_true] <;> rfl

theorem steady_failLabel (s : State) (seq : Nat) : Steady s (s.failLabel seq) :=
  (steady_setRecord s _ _).trans (steady_raise _ _ _)

theorem steady_startJob (s : State) (r : RollRec) (lines : List (List Byte)) : Steady s (s.startJob r lines) := by
  unfold State.startJob
  extract_lets n t
  exact (steady_setRecord s _ _).trans (steady_setRolls t _ (by intro _; rfl))

theorem steady_labelTest (s : State) (n : Nat) : Steady s (s.labelTest n) := by
  induction n generalizing s with
  | zero => exact Steady.refl s
  | succ n ih =>
    unfold State.labelTest
    split
    · exact steady_setRolls s _ (by intro _; rfl)
    · split
      · exact steady_setRolls s _ (by intro _; rfl)
      · split
        · split
          · exact steady_startJob s _ _
          · exact (steady_failLabel s _).trans (ih _)
        · exact steady_setRolls s _ (by intro _; rfl)

theorem steady_labelNext (s : State) : Steady s s.labelNext := steady_labelTest s 8

theorem steady_endJob (s : State) : Steady s s.endJob :=
  (steady_setRolls s _ (by intro _; rfl)).trans (steady_labelNext _)

theorem steady_labelRejected (s : State) : Steady s s.labelRejected := steady_rolls s _ rfl

theorem steady_labelAcked (s : State) (n : Nat) : Steady s (s.labelAcked n) := by
  unfold State.labelAcked
  split
  · exact Steady.ite ((steady_setRecord s _ _).trans (steady_endJob _)) (Steady.refl s)
  · exact Steady.refl s

theorem steady_labelNaked (s : State) (n : Nat) : Steady s (s.labelNaked n) := by
  unfold State.labelNaked
  split
  · exact Steady.ite ((steady_failLabel s _).trans (steady_endJob _)) (Steady.refl s)
  · exact Steady.refl s

theorem steady_labelReplyExpired (s : State) : Steady s s.labelReplyExpired := by
  unfold State.labelReplyExpired
  split
  · exact Steady.ite ((steady_failLabel s _).trans (steady_endJob _)) (Steady.refl s)
  · exact Steady.refl s

theorem steady_labelWaitExpired (s : State) : Steady s s.labelWaitExpired := by
  unfold State.labelWaitExpired
  split
  · split
    · exact ((steady_setRolls s _ (by intro _; rfl)).trans (steady_failLabel _ _)).trans (steady_labelNext _)
    · exact Steady.refl s
  · exact Steady.refl s

theorem steady_rollRemoved (s : State) (sp : Spindle) : Steady s (s.rollRemoved sp) := by
  unfold State.rollRemoved
  split
  · exact steady_setRecord s _ _
  · exact steady_setWinder s _

/-- A write into a roll slot. -/
theorem steady_rollStore (s : State) (n k : Nat) (bs : List Byte) : Steady s (s.partStore (rollSlotAddr n + k) bs) :=
  steady_partStore s _ bs (.inr (by unfold rollSlotAddr; omega))

theorem steady_moveRecord (s : State) (r : RollRec) (n : Nat) : Steady s (s.moveRecord r n) := by
  unfold State.moveRecord
  extract_lets a t tag u v
  have h1 : Steady s t := steady_rollStore s n 4 _
  have h2 : Steady t u := (steady_rollStore t n 0 _).trans (steady_tagWritten _)
  have h3 : Steady u v := (steady_setRolls u _ (by intro _; rfl)).trans (steady_latch _ _)
  exact ((h1.trans h2).trans h3).trans ((steady_clear v _ _).trans (steady_reassess _))

theorem steady_moveRecords (s : State) (l : List Nat) : Steady s (s.moveRecords l) := by
  induction l generalizing s with
  | nil => exact Steady.refl s
  | cons n l ih =>
    unfold State.moveRecords
    split
    · exact Steady.refl s
    · exact Steady.ite ((steady_moveRecord s _ _).trans (ih _)) (Steady.refl s)

/-! ## From the register head to the finished web -/

theorem steady_sampleStrain (s : State) (a b : Int) : Steady s (s.sampleStrain a b) := steady_emb s _

/-- A change of the splice list. -/
theorem steady_setSplices (s : State) (x : List SpliceRec) : Steady s { s with track := { s.track with splices := x } } :=
  steady_splices s x _

theorem steady_spliceCoordinates (s : State) (u : UnitRec) (g lFin lRh : Int) :
    Steady s (s.spliceCoordinates u g lFin lRh) := by
  unfold State.spliceCoordinates
  refine steady_foldl (fun s e => ?_) _ s
  extract_lets f leave src t
  exact ((steady_setSplices s _).trans (steady_openGuard t _ _)).trans (steady_spliceKnown _ _ _)

theorem steady_finalize (s : State) (u v : UnitRec) : Steady s (s.finalize u v) := by
  unfold State.finalize
  split
  · extract_lets lFin lRh same measured leave t w x y
    have h1 : Steady s t := steady_setUnit s _ _ (by intro _; rfl)
    have h2 : Steady t w := Steady.ite (steady_judgeMatch t _ _ _) (Steady.refl t)
    have h3 : Steady w x := steady_drawFinal w _ _ _
    have h4 : Steady x y := Steady.ite (steady_sampleStrain x _ _) (Steady.refl x)
    exact (((h1.trans h2).trans h3).trans h4).trans (steady_spliceCoordinates y _ _ _ _)
  · exact Steady.refl s

theorem steady_armUnit (s : State) (u : UnitRec) (g : Int) (estimated : Bool) : Steady s (s.armUnit u g estimated) := by
  unfold State.armUnit
  exact steady_setUnit s _ _ (by intro _; rfl)

theorem steady_finalizeAround (s : State) (c : Int) : Steady s (s.finalizeAround c) := by
  unfold State.finalizeAround
  have key (a : State) (p n : Option UnitRec) (q r : UnitRec → UnitRec → State → State)
      (hq : ∀ x y s, Steady s (q x y s)) :
      Steady a (match p, n with
        | some p, some u => q p u a
        | _, _ => a) := by
    split
    · exact hq _ _ _
    · exact Steady.refl a
  split
  extract_lets t
  have h1 : Steady s t := key s _ _ (fun p u s => s.finalize p u) (fun _ _ s => s) (fun x y s => steady_finalize s x y)
  refine h1.trans ?_
  clear_value t
  split
  split
  · exact Steady.ite (steady_finalize t _ _) (Steady.refl t)
  · exact Steady.refl t

theorem steady_orderHears (s : State) (slot : Nat) (start : Int) : Steady s (s.orderHears slot start) := by
  unfold State.orderHears
  extract_lets t
  refine (steady_orderSpanKnown s slot start).trans ?_
  split
  · exact steady_tryFly _ _
  · exact Steady.refl _

theorem steady_overdueChecks (s : State) (c : Int) : Steady s (s.overdueChecks c) := by
  unfold State.overdueChecks
  split
  · exact Steady.refl s
  · exact (Steady.ite (steady_checkNip s c) (Steady.refl s)).trans (Steady.ite (steady_horizonReached _ _) (Steady.refl _))

theorem steady_setG (s : State) (c g : Int) (estimated : Bool) : Steady s (s.setG c g estimated) := by
  unfold State.setG
  split
  · exact Steady.refl s
  · extract_lets start t u v w x
    have h1 : Steady s t := steady_armUnit s _ _ _
    have h2 : Steady t u := steady_openRoll t _
    have h3 : Steady u v := Steady.ite (steady_moveCount u _) (Steady.refl u)
    have h4 : Steady v w := steady_finalizeAround v c
    have h5 : Steady w x := (steady_overdueChecks w c).trans (steady_settlePlan _)
    exact ((((h1.trans h2).trans h3).trans h4).trans h5).trans ((steady_orderHears x _ _).trans (steady_settlePlan _))

theorem steady_expireUnit (s : State) (c : Int) : Steady s (s.expireUnit c) := by
  unfold State.expireUnit
  split
  · exact Steady.refl s
  · extract_lets t n src u
    have h1 : Steady s t := steady_setG s _ _ _
    have h2 : Steady t u := steady_emb t _
    exact Steady.ite ((h1.trans h2).trans (Steady.ite (steady_raise u _ _) (Steady.refl u))) (Steady.refl s)

theorem steady_expireThrough (s : State) (c : Int) : Steady s (s.expireThrough c) :=
  steady_foldl (fun s (u : UnitRec) => steady_expireUnit s u.c) _ s

theorem steady_matchUnit (s : State) (u : UnitRec) (sW sF : Int) : Steady s (s.matchUnit u sW sF) := by
  unfold State.matchUnit
  extract_lets d delta before raised g src t v w
  have h1 : Steady s t := steady_emb s _
  have h2 : Steady t v := steady_clear t _ _
  have h3 : Steady v w := Steady.ite (Steady.refl v) (steady_pendPhase v _)
  exact ((h1.trans h2).trans h3).trans (steady_setG w _ _ _)

theorem steady_chargeSpurious (s : State) (sW : Int) : Steady s (s.chargeSpurious sW) := by
  unfold State.chargeSpurious
  split
  · exact Steady.refl s
  · extract_lets n t
    have h : Steady s t := steady_setUnit s _ _ (by intro _; rfl)
    exact h.trans (Steady.ite (steady_raise t _ _) (Steady.refl t))

theorem steady_takeEmark (s : State) (sW sF : Int) : Steady s (s.takeEmark sW sF) := by
  unfold State.takeEmark
  extract_lets overdue t
  have h : Steady s t := steady_foldl (fun s (u : UnitRec) => steady_expireThrough s u.c) _ s
  refine h.trans ?_
  clear_value t
  split
  · exact steady_matchUnit t _ _ _
  · exact steady_chargeSpurious t _

theorem steady_takeSplice (s : State) : Steady s s.takeSplice := by
  unfold State.takeSplice
  extract_lets p
  exact Steady.ite (Steady.refl s) (Steady.ite (steady_raise s _ _)
    ((steady_setSplices s _).trans (steady_openZone _ p)))

theorem steady_dropSplice (s : State) (p : Int) : Steady s (s.dropSplice p) :=
  (steady_setSplices s _).trans (steady_clear _ _ _)

/-- Units leave and the others stay in order. -/
theorem steady_fewerUnits (s : State) (p : UnitRec → Bool) :
    Steady s { s with track := { s.track with units := s.track.units.filter p } } where
  pending := rfl
  coord := rfl
  settings := rfl
  printer := rfl
  port := rfl
  notice := fun _ hi => hi
  host := fun _ _ => rfl
  memory := id
  stopPair := id
  header := id
  track := fun h => {
    room := Nat.le_trans (List.length_filter_le _ _) h.room
    rising := by
      have hs : ((s.track.units.filter p).map UnitRec.c).Sublist (s.track.units.map UnitRec.c) :=
        List.filter_sublist.map _
      exact h.rising.sublist hs
    previous := fun u hu => h.previous u (List.mem_of_mem_filter hu)
    pitch := h.pitch
    repeats := h.repeats }

theorem steady_unitLeaves (s : State) (u : UnitRec) : Steady s (s.unitLeaves u) := by
  unfold State.unitLeaves
  extract_lets src src2 t v
  have h1 : Steady s t := (steady_fewerUnits s _).trans (steady_emb _ _)
  have h2 : Steady t v := steady_joinUnit t u
  exact (h1.trans h2).trans (Steady.ite (steady_clear v _ _) (Steady.refl v))

end Sys2Proof.Machine
end

