-- ==== Sys2Proof/Laws/SteadyLink.lean ====
section
/-! SUPPORT. Each operation of the station link is `Steady`, but for the building of the node table, which writes the part
phase and starts the sweep timer; and what the operations of the exchange port do. -/

namespace Sys2Proof.Machine

/-! ## Station link -/

theorem steady_tellSent (s : State) (c : SlotCmd) : Steady s (s.tellSent c) := by
  unfold State.tellSent
  split
  · exact steady_measureSent s _
  · exact Steady.refl s

theorem steady_changeLink (s : State) (f : Link → Link) : Steady s (s.setLink f) := steady_link s _

theorem steady_sendFrame (s : State) : Steady s s.sendFrame := by
  unfold State.sendFrame
  extract_lets enumerate slots bytes t
  exact (steady_changeLink s _).trans (steady_foldl (fun s (x : SentSlot) => steady_tellSent s x.carries) _ t)

theorem steady_cmdLost (s : State) (i : Nat) (c : LinkCmd) : Steady s (s.cmdLost i c) := by
  unfold State.cmdLost
  split
  · exact steady_printTrimLost s _
  · exact steady_embossTrimLost s
  · exact steady_engageLost s
  · exact steady_liftLost s
  · exact steady_drawResend s
  · exact (steady_calibrateLost s _).trans (steady_sendCalibrate _)
  · exact steady_cutInLost s _ _
  · exact Steady.refl s

theorem steady_slotLost (s : State) (i : Nat) (c : SlotCmd) : Steady s (s.slotLost i c) := by
  unfold State.slotLost
  split
  · exact steady_cmdLost s _ _
  all_goals exact Steady.refl s

theorem steady_nodeStateSeen (s : State) : Steady s s.nodeStateSeen :=
  ((steady_latch s _).trans (steady_settle _)).trans (steady_reassess _)

theorem steady_leavePresent (s : State) (i : Nat) (st : NodeState) : Steady s (s.leavePresent i st) := by
  unfold State.leavePresent
  split
  · exact Steady.refl s
  · extract_lets t u v
    have h1 : Steady s t := steady_setNode s _ _
    have h2 : Steady t u := steady_nodeStateSeen t
    have h3 : Steady u v := steady_foldl (fun s c => steady_cmdLost s _ c) _ u
    exact ((h1.trans h2).trans h3).trans (Steady.ite (steady_dropRequests v) (Steady.refl v))

theorem steady_nodeTo (s : State) (i : Nat) (st : NodeState) : Steady s (s.nodeTo i st) := by
  unfold State.nodeTo
  split
  · exact Steady.refl s
  · exact Steady.ite (Steady.refl s) (Steady.ite (steady_leavePresent s _ _)
      ((steady_setNode s _ _).trans (steady_nodeStateSeen _)))

theorem steady_nodePresents (s : State) (i : Nat) : Steady s (s.nodePresents i) := by
  unfold State.nodePresents
  extract_lets t
  have h : Steady s t := (steady_setNode s _ _).trans (steady_nodeStateSeen _)
  refine h.trans ?_
  clear_value t
  split
  · exact steady_drawPresent t
  · exact steady_sendCalibrate t
  · exact Steady.refl t

theorem steady_nodeUnheard (s : State) (i : Nat) : Steady s (s.nodeUnheard i) := by
  unfold State.nodeUnheard
  split
  · exact Steady.refl s
  · extract_lets count t u
    have h1 : Steady s t := steady_setNode s _ _
    have h2 : Steady t u := steady_setNode t _ _
    exact h1.trans (Steady.ite ((h2.trans (steady_nodeTo u _ _)).trans (steady_raise _ _ _)) (Steady.refl t))

theorem steady_slotUnanswered (s : State) (i : Nat) (c : SlotCmd) : Steady s (s.slotUnanswered i c) := by
  unfold State.slotUnanswered
  extract_lets t u
  exact ((steady_slotLost s i c).trans (Steady.ite (Steady.refl t) (steady_setNode t _ _))).trans (steady_nodeUnheard u i)

theorem steady_badFrame (s : State) : Steady s s.badFrame :=
  Steady.ite ((steady_changeLink s _).trans (steady_raise _ _ _)) (steady_changeLink s _)

theorem steady_allUnanswered (s : State) (i : Nat) (l : List SentSlot) : Steady s (s.allUnanswered i l) := by
  induction l generalizing s i with
  | nil => exact Steady.refl s
  | cons x l ih => exact (steady_slotUnanswered s i _).trans (ih _ _)

theorem steady_frameFailed (s : State) (returned : Bool) : Steady s (s.frameFailed returned) := by
  unfold State.frameFailed
  split
  · exact Steady.refl s
  · extract_lets t u
    have h : Steady s t := steady_changeLink s _
    have h2 : Steady t u := (steady_allUnanswered t _ _).trans (steady_badFrame _)
    exact h.trans (Steady.ite (steady_changeLink t _)
      (h2.trans ((Steady.ite (steady_countCycles u) (Steady.refl u)).trans (steady_settlePlan _))))

theorem steady_cutDone (s : State) (residual : Int) : Steady s (s.cutDone residual) := by
  unfold State.cutDone
  split
  · exact Steady.refl s
  · extract_lets t
    exact (((steady_closeRoll s _ _).trans (steady_shadeCutDone _)).trans
      (Steady.ite (steady_endOrders t _) (Steady.refl t))).trans (steady_settlePlan _)

theorem steady_winderEvent (s : State) (i event number : Nat) (residual : Int) :
    Steady s (s.winderEvent i event number residual) := by
  unfold State.winderEvent
  split
  · exact Steady.refl s
  · extract_lets t
    have h : Steady s t := steady_setNode s _ _
    exact Steady.ite (Steady.refl s) (h.trans (Steady.ite (steady_cutDone t _)
      (Steady.ite (steady_rollRemoved t _) (Steady.ite (steady_rollRemoved t _) (Steady.refl t)))))

theorem steady_deliver (s : State) (i : Nat) (l : List Byte) : Steady s (s.deliver i l) := by
  unfold State.deliver
  extract_lets b bit int
  split
  · exact steady_setLoop s _ _
  · exact steady_embossReported s _
  · exact steady_drawReported s _
  · exact (steady_headReported s _ _).trans (steady_settlePlan _)
  · exact ((steady_winderReported s _).trans (steady_winderEvent _ _ _ _ _)).trans (steady_settlePlan _)
  · exact Steady.refl s

theorem steady_raiseArrangement (s : State) (p : Nat) (already : Bool) : Steady s (s.raiseArrangement p already) :=
  Steady.ite (steady_raise s _ _) (Steady.refl s)

theorem steady_mismatch (s : State) (i : Nat) (c : SlotCmd) : Steady s (s.mismatch i c) := by
  unfold State.mismatch
  extract_lets t u
  have h1 : Steady s t := (steady_changeLink s _).trans (steady_slotLost _ _ _)
  have h2 : Steady t u := (steady_nodeTo t _ _).trans (steady_clear _ _ _)
  exact (h1.trans h2).trans (steady_raiseArrangement u _ _)

theorem steady_tellRestart (s : State) (i : Nat) : Steady s (s.tellRestart i) := by
  unfold State.tellRestart
  split
  · exact steady_printRestarted s _
  · exact steady_embossRestarted s
  · exact steady_drawResend s
  · exact steady_shadeRestarted s
  · exact steady_winderRestarted s
  · exact Steady.refl s

theorem steady_restarted (s : State) (i : Nat) (c : SlotCmd) : Steady s (s.restarted i c) := by
  unfold State.restarted
  extract_lets t u v w x
  have h1 : Steady s t := steady_raise s _ _
  have h2 : Steady t u := steady_setNode t _ _
  have h3 : Steady v w := (steady_nodeTo v _ _).trans (steady_slotLost _ _ _)
  have h4 : Steady w x := steady_clear w _ _
  exact (((h1.trans h2).trans (steady_tellRestart u i)).trans (h3.trans h4)).trans (steady_setNode x _ _)

theorem steady_judgeCounter (s : State) (i : Nat) (n : Node) (c : SlotCmd) (q counter : Nat) :
    Steady s (s.judgeCounter i n c q counter) := by
  unfold State.judgeCounter
  extract_lets settle
  have h (t : State) : Steady t (settle t) := steady_setNode t _ _
  exact Steady.ite (Steady.ite (h s) (Steady.ite (Steady.refl s) ((h s).trans (steady_raise _ _ _))))
    (Steady.ite (h s) (((steady_slotLost s _ _).trans (steady_raise _ _ _)).trans (h _)))

theorem steady_afterJudging (s : State) (i : Nat) (n : Node) (c : SlotCmd) (executed : Bool) :
    Steady s (s.afterJudging i n c executed) := by
  unfold State.afterJudging
  split
  · exact Steady.ite (steady_nodePresents s _) (Steady.refl s)
  · exact (Steady.ite (steady_nodeTo s _ _) (steady_nodePresents s _)).trans (steady_clear _ _ _)
  · exact Steady.refl s
  · exact Steady.refl s

theorem steady_judgeReply (s : State) (i : Nat) (sent : SentSlot) (l : List Byte) : Steady s (s.judgeReply i sent l) := by
  unfold State.judgeReply
  extract_lets t
  have h : Steady s t := steady_setNode s _ _
  refine h.trans ?_
  clear_value t
  split
  · exact Steady.refl t
  · refine Steady.ite (Steady.ite (Steady.refl t) (steady_mismatch t _ _)) ?_
    exact (Steady.ite (steady_restarted t _ _)
      ((steady_judgeCounter t _ _ _ _ _).trans (steady_afterJudging _ _ _ _ _))).trans
      (Steady.ite (Steady.refl _) (steady_deliver _ _ _))

theorem steady_judgeSlots (s : State) (i : Nat) (l : List SentSlot) (back : List Slot) :
    Steady s (s.judgeSlots i l back) := by
  induction l generalizing s i back with
  | nil => exact Steady.refl s
  | cons x l ih =>
    unfold State.judgeSlots
    extract_lets t
    have h : Steady s t := by
      dsimp only [t]
      split
      · exact steady_slotUnanswered s _ _
      · exact Steady.ite (steady_slotUnanswered s _ _) (steady_judgeReply s _ _ _)
    exact h.trans (ih _ _ _)

theorem steady_clearArrangement (s : State) (p : Option Nat) : Steady s (s.clearArrangement p) :=
  steady_foldl (fun s _ => steady_clear s _ _) _ s

theorem steady_compareArrangement (s : State) : Steady s s.compareArrangement := by
  unfold State.compareArrangement
  extract_lets d t
  refine (steady_clearArrangement s d).trans ?_
  clear_value d
  split
  · exact steady_raise _ _ _
  · exact Steady.refl _

/-! ## Exchange port -/

theorem steady_sweepFault (s : State) (n : Nat) : Steady s (s.sweepFault n) :=
  steady_faults s _ ⟨rfl, rfl, rfl⟩

theorem steady_sweepPass (s : State) : Steady s s.sweepPass := by
  unfold State.sweepPass
  extract_lets t free u v
  have h1 : Steady s t := (steady_sweepOrders s).trans (steady_settlePlan _)
  have h2 : Steady t u := steady_setRolls t _ (by intro _; rfl)
  have h3 : Steady u v := (steady_moveRecords u _).trans (steady_settlePlan _)
  exact ((h1.trans h2).trans h3).trans (steady_foldl (fun s n => steady_sweepFault s n) _ v)

theorem steady_settingsStatus (s : State) (status field : Nat) : Steady s (s.settingsStatus status field) :=
  steady_partStore s _ _ (.inl (by simp))

theorem steady_acceptHeader (s : State) : Steady s s.acceptHeader := by
  unfold State.acceptHeader
  exact ((steady_settingsStatus s 1 0).trans (steady_partStore _ _ _ (.inl (by simp)))).trans (steady_tagWritten _)

theorem steady_leaveFaultConfig (s : State) : Steady s s.leaveFaultConfig := steady_stopHigh s _ ⟨rfl, rfl, rfl⟩

theorem steady_judgeFaultState (s : State) : Steady s s.judgeFaultState :=
  Steady.ite (steady_enterStopped s) (steady_faultSettle s)

theorem steady_resume (s : State) : Steady s s.resume := by
  unfold State.resume
  extract_lets t held src u
  have h1 : Steady s t := (steady_faultToRunning s).trans (steady_settle _)
  have h2 : Steady t u := steady_setHold t false
  exact Steady.ite ((h1.trans h2).trans ((Steady.ite (steady_testActivation u) (Steady.refl u)).trans (steady_settlePlan _)))
    (Steady.refl s)

theorem steady_composeReported (s : State) (c : ClosingRoll) : Steady s (s.composeReported c) := by
  unfold State.composeReported
  extract_lets slot held t
  exact (steady_compose s c).trans (Steady.ite (steady_rollProduced t slot) (Steady.refl t))

theorem steady_composeAll (s : State) : Steady s s.composeAll := by
  unfold State.composeAll
  exact (steady_foldl (fun s c => steady_composeReported s c) _ s).trans (steady_setWinder _ _)

theorem steady_clearEntries (s : State) : Steady s s.clearEntries :=
  steady_foldl (fun s _ => Steady.ite (steady_clearEntry s _ _ _) (Steady.refl s)) _ s

theorem steady_resetOrders (s : State) : Steady s s.resetOrders := by
  unfold State.resetOrders
  refine steady_foldl (fun s n => ?_) _ s
  extract_lets o a t u
  have h1 : Steady s t := steady_orderStore s n _ _
  have h2 : Steady t u := steady_orderStore t n _ _
  exact Steady.ite ((h1.trans h2).trans (steady_keepBody u _ _ (by intro _; rfl))) (Steady.refl s)

theorem steady_resetCounts (s : State) : Steady s s.resetCounts := by
  unfold State.resetCounts
  exact (steady_headerCount s 0x0E _ (by decide)).trans (steady_headerCount _ 0x10 _ (by decide))

end Sys2Proof.Machine
end

