-- ==== Sys2Proof/Laws/Lawful.lean ====
section
/-! SUPPORT. The operations that are not `Steady`: positions, settings, part phase, exchange port and LINE RESET. Each keeps
the four laws of Safety.lean. -/

namespace Sys2Proof.Machine

/-- From `s` to `t` the four laws are kept, and the queue of waiting commands is as it was. -/
structure Lawful (s t : State) : Prop where
  pending : t.pending = s.pending
  memory : s.memoryOk → t.memoryOk
  stopPair : s.stopPairOk → t.stopPairOk
  header : s.headerOk → t.headerOk
  track : s.TrackOk → t.TrackOk

theorem Steady.lawful {s t : State} (h : Steady s t) : Lawful s t := ⟨h.pending, h.memory, h.stopPair, h.header, h.track⟩

theorem Lawful.refl (s : State) : Lawful s s := (Steady.refl s).lawful

theorem Lawful.trans {s t u : State} (h : Lawful s t) (k : Lawful t u) : Lawful s u where
  pending := k.pending.trans h.pending
  memory := fun hs => k.memory (h.memory hs)
  stopPair := fun hs => k.stopPair (h.stopPair hs)
  header := fun hs => k.header (h.header hs)
  track := fun hs => k.track (h.track hs)

theorem Lawful.ite {c : Prop} [Decidable c] {a t u : State} (h1 : Lawful a t) (h2 : Lawful a u) :
    Lawful a (if c then t else u) := by
  split
  · exact h1
  · exact h2

theorem lawful_coord (s : State) (x : Coord) : Lawful s { s with coord := x } where
  pending := rfl
  memory := id
  stopPair := id
  header := id
  track := TrackOk.of_same rfl rfl rfl id

/-- A change of the exchange port that leaves part phase and counter. -/
theorem lawful_port (s : State) (x : Port) (h : x.phase = s.port.phase ∧ x.counter = s.port.counter) :
    Lawful s { s with port := x } where
  pending := rfl
  memory := id
  stopPair := id
  header := fun hs => by
    unfold State.headerOk at hs ⊢
    show State.readByte s 4 = byte x.phase.code ∧ State.readByte s 10 = byte x.counter ∧ x.counter ≤ 255
    rw [h.1, h.2]
    exact hs
  track := TrackOk.of_same rfl rfl rfl id

/-- A new printer report. -/
theorem lawful_rolls (s : State) (x : RollUnit) : Lawful s { s with rolls := x } where
  pending := rfl
  memory := id
  stopPair := id
  header := id
  track := TrackOk.of_same rfl rfl rfl id

/-- The part phase changes in STATUS and in the header (R168). -/
theorem lawful_setPhase (s : State) (p : Phase) : Lawful s (s.setPhase p) where
  pending := by simp [State.setPhase, State.header]
  memory := fun h => partStore_memoryOk _ _ _ h
  stopPair := fun h => by simpa [State.stopPairOk, State.setPhase, State.header] using h
  header := fun hs => by
    obtain ⟨_, h2, h3⟩ := hs
    refine ⟨?_, ?_, ?_⟩
    · simp only [State.setPhase, State.header, partStore_port]
      rw [partStore_inside _ 4 (natBytes 1 _) (x := 4) (by rw [natBytes_length]; decide)
        (by rw [natBytes_length]; decide) (Nat.le_refl _) (by rw [natBytes_length]; decide)]
      rfl
    · simp only [State.setPhase, State.header, partStore_port]
      rw [partStore_outside _ _ _ (.inr (by rw [natBytes_length]; decide))]
      exact h2
    · simpa [State.setPhase, State.header] using h3
  track := TrackOk.of_same (by simp [State.setPhase, State.header]) (by simp [State.setPhase, State.header])
    (by simp [State.setPhase, State.header])
    (fun hs => by simpa [State.RepeatsOk, State.setPhase, State.header] using hs)

/-! ## The coordinate unit -/

theorem lawful_positions (s : State) (x : Coord) (k : Nat) : Lawful s { s with coord := x, freeIdx := k } :=
  (lawful_coord s x).trans (steady_freeIdx _ k).lawful

/-! ## The station link -/

theorem lawful_buildTable (s : State) (c : Chain) : Lawful s (s.buildTable c) := by
  unfold State.buildTable
  extract_lets t src u
  have h1 : Lawful s t := (steady_changeLink s _).lawful
  have h2 : Lawful t u := lawful_port t _ ⟨rfl, rfl⟩
  exact ((h1.trans h2).trans (steady_latch u _).lawful).trans ((lawful_setPhase _ _).trans (steady_settle _).lawful)

theorem lawful_enumerateReturned (s : State) (c : Chain) : Lawful s (s.enumerateReturned c) := by
  unfold State.enumerateReturned
  split
  · exact Lawful.ite (lawful_buildTable s c) (steady_changeLink s _).lawful
  · exact (steady_changeLink s _).lawful

theorem lawful_frameReturned (s : State) (hop : Nat) (slots : List Slot) : Lawful s (s.frameReturned hop slots) := by
  unfold State.frameReturned
  split
  · exact Lawful.refl s
  · extract_lets t u v
    have h1 : Lawful s t := (steady_changeLink s _).lawful
    have h2 : Lawful t u := (steady_changeLink t _).lawful
    have h3 : Lawful u v := Lawful.ite (Lawful.refl u)
      ((steady_changeLink u _).trans (steady_raiseArrangement _ _ _)).lawful
    exact h1.trans (Lawful.ite (lawful_enumerateReturned t _) ((h2.trans h3).trans
      (((steady_judgeSlots v _ _ _).trans (steady_countCycles _)).trans (steady_settlePlan _)).lawful))

/-! ## Settings and phases -/

theorem steady_leaveRest (s : State) : Steady s s.compareArrangement.leaveFaultConfig.judgeFaultState :=
  ((steady_compareArrangement s).trans (steady_leaveFaultConfig _)).trans (steady_judgeFaultState _)

/-- A settings record whose first field is in its range gives a positive PE pitch. -/
theorem workingSettings_first (s : State) : s.workingSettings.getD 0 0 = s.settingsField 1 := by
  unfold State.workingSettings
  rw [List.getD_eq_getElem _ _ (by rw [List.length_map, List.length_range]; omega), List.getElem_map, List.getElem_range]

theorem field1_ok (s : State) (h : s.badSetting = none) : fieldOk s.settingsField 1 = true := by
  unfold State.badSetting at h
  rw [List.find?_eq_none] at h
  have := h 1 (List.mem_map.mpr ⟨0, List.mem_range.mpr (by omega), rfl⟩)
  simpa using this

theorem field1_range {f : Nat → Int} (h : fieldOk f 1 = true) : 1000 ≤ f 1 ∧ f 1 ≤ 40000 := by
  unfold fieldOk at h
  rw [if_pos (by omega)] at h
  simp only [settingRanges, List.cons_append, Nat.sub_self, List.getD_cons_zero, within, Bool.and_eq_true,
    decide_eq_true_eq] at h
  exact h.1

/-- A settings record whose first field is in its range gives a positive PE pitch. -/
theorem lawful_workingSettings (s : State) (h : s.badSetting = none) : Lawful s { s with settings := s.workingSettings } where
  pending := rfl
  memory := id
  stopPair := id
  header := id
  track := fun hs => {
    room := hs.room
    rising := hs.rising
    previous := hs.previous
    pitch := by
      show 0 < s.workingSettings.getD 0 0
      rw [workingSettings_first]
      have := field1_range (field1_ok s h)
      omega
    repeats := hs.repeats }

theorem lawful_leaveConfig (s : State) : Lawful s s.leaveConfig := by
  unfold State.leaveConfig
  split
  · exact Lawful.refl s
  · split
    · exact (steady_settingsStatus s _ _).lawful
    · rename_i h
      unfold State.acceptSettings
      extract_lets t u v
      have h1 : Lawful s t := lawful_workingSettings s h
      have h2 : Lawful t u := (steady_acceptHeader t).lawful.trans (lawful_setPhase _ _)
      have h3 : Lawful u v := (steady_leaveRest u).lawful
      exact ((h1.trans h2).trans h3).trans
        (((steady_settle v).trans (steady_testActivation _)).trans (steady_settlePlan _)).lawful

theorem lawful_enterConfig (s : State) : Lawful s s.enterConfig := by
  unfold State.enterConfig
  extract_lets t src u
  have h1 : Lawful s t := (lawful_setPhase s _).trans (steady_faultToConfig _).lawful
  have h2 : Lawful t u := (steady_setHold t false).lawful
  exact Lawful.ite (Lawful.refl s) (Lawful.ite (steady_settingsStatus s _ _).lawful
    ((h1.trans h2).trans ((steady_settingsStatus u _ _).trans (steady_settle _)).lawful))

/-! ## Sweeps, live image, host writes -/

theorem lawful_setPort (s : State) (f : Port → Port)
    (h : ∀ p, (f p).phase = p.phase ∧ (f p).counter = p.counter) : Lawful s (s.setPort f) := lawful_port s _ (h s.port)

theorem lawful_askSweep (s : State) : Lawful s s.askSweep :=
  lawful_setPort s _ (by intro p; split <;> exact ⟨rfl, rfl⟩)

theorem lawful_endSweep (s : State) : Lawful s s.endSweep := by
  unfold State.endSweep
  exact Lawful.ite ((steady_sweepPass s).lawful.trans (lawful_setPort _ _ (by intro p; exact ⟨rfl, rfl⟩))) (Lawful.refl s)

theorem lawful_setFreeze (s : State) (f : Freeze) : Lawful s (s.setFreeze f) :=
  (lawful_port s { s.port with freeze := f } ⟨rfl, rfl⟩).trans (steady_partStore _ 0x1BFC _ (.inr (by decide))).lawful

theorem lawful_freezeImage (s : State) : Lawful s s.freezeImage := (lawful_setFreeze s _).trans (steady_latch _ _).lawful

theorem lawful_freezeCommand (s : State) : Lawful s s.freezeCommand :=
  Lawful.ite (Lawful.refl s) (Lawful.ite (lawful_setFreeze s _) (lawful_freezeImage s))

theorem lawful_thawCommand (s : State) : Lawful s s.thawCommand := Lawful.ite (Lawful.refl s) (lawful_setFreeze s _)

theorem lawful_attention (s : State) : Lawful s s.attention := Lawful.ite (Lawful.refl s) (lawful_askSweep s)

theorem lawful_refreshStart (s : State) : Lawful s s.refreshStart := by
  unfold State.refreshStart
  extract_lets n src t
  have h : Lawful s t := lawful_port s _ ⟨rfl, rfl⟩
  exact Lawful.ite (h.trans (steady_partStore t imageBase _ (.inr (by decide))).lawful) (Lawful.refl s)

theorem lawful_refreshFinish (s : State) : Lawful s s.refreshFinish := by
  unfold State.refreshFinish
  extract_lets src t u
  have h1 : Lawful s t := lawful_port s _ ⟨rfl, rfl⟩
  have h2 : Lawful t u := (steady_partStore t 0x1BFC _ (.inr (by decide))).lawful
  exact Lawful.ite ((h1.trans h2).trans (Lawful.ite (lawful_freezeImage u) (Lawful.refl u))) (Lawful.refl s)

/-- A host write leaves the header: its words are owned by the part. -/
theorem lawful_hostWriteWord (s : State) (a : BitVec 13) (v : Word) : Lawful s (s.hostWriteWord a v) where
  pending := by unfold State.hostWriteWord; dsimp only; split <;> rfl
  memory := hostWriteWord_memoryOk s a v
  stopPair := fun h => by unfold State.hostWriteWord; dsimp only; split <;> exact h
  header := fun h => by
    unfold State.hostWriteWord
    dsimp only
    split
    · rename_i hw
      have h64 : 64 ≤ 2 * (a.toNat / 2) := by
        by_contra hc
        unfold hostOwned at hw
        rw [if_pos (by omega)] at hw
        cases hw
      unfold State.headerOk at h ⊢
      show memRead _ 4 = _ ∧ memRead _ 10 = _ ∧ _
      rw [memRead_memStore_outside (.inl (by omega)), memRead_memStore_outside (.inl (by omega))]
      exact h
    · exact h
  track := fun h => by
    unfold State.hostWriteWord
    dsimp only
    split
    · exact ⟨h.room, h.rising, h.previous, h.pitch, h.repeats⟩
    · exact h

/-! ## LINE RESET -/

theorem lawful_lineReset (s : State) : Lawful s s.lineReset := by
  unfold State.lineReset
  split
  · exact Lawful.refl s
  · extract_lets t u v w
    have h1 : Steady s t := ((steady_composeAll s).trans (steady_clearEntries _)).trans (steady_resetOrders _)
    have h2 : Steady t u := (steady_resetCounts t).trans (steady_zeroMirror _)
    have h3 : Steady u v := steady_partStore u _ _ (.inr (by decide))
    have hv : Lawful s v := ((h1.trans h2).trans h3).lawful
    clear_value v
    refine hv.trans ?_
    have hp : w.port = { Port.reset with route := v.port.route } := rfl
    exact {
      pending := by simp [State.header, w, State.blocksReset]
      memory := fun h => partStore_memoryOk _ _ _ (partStore_memoryOk _ _ _ h)
      stopPair := fun _ => by simp [State.stopPairOk, State.header, w, State.blocksReset]
      header := fun _ => by
        refine ⟨?_, ?_, ?_⟩
        · simp only [State.header, partStore_port]
          rw [partStore_inside _ 4 (natBytes 1 _) (x := 4) (by rw [natBytes_length]; decide)
            (by rw [natBytes_length]; decide) (Nat.le_refl _) (by rw [natBytes_length]; decide), hp]
          rfl
        · simp only [State.header, partStore_port]
          rw [partStore_outside _ 4 _ (.inr (by rw [natBytes_length]; decide)),
            partStore_inside _ 10 (natBytes 1 _) (x := 10) (by rw [natBytes_length]; decide)
            (by rw [natBytes_length]; decide) (Nat.le_refl _) (by rw [natBytes_length]; decide), hp]
          rfl
        · simp only [State.header, partStore_port, hp]
          decide
      track := fun h => {
        room := by simp [State.header, w, State.blocksReset, Track.reset]
        rising := by simp [State.header, w, State.blocksReset, Track.reset]
        previous := by simp [State.header, w, State.blocksReset, Track.reset]
        pitch := by
          have := h.pitch
          simpa [State.header, w, State.blocksReset, State.peP, State.setting] using this
        repeats := by
          intro o ho b hb
          simp only [State.header, partStore_ord] at ho
          obtain ⟨p, _, rfl⟩ := List.mem_map.mp (show o ∈ v.ord.orders.map OrderRec.afterReset from ho)
          cases hb } }

end Sys2Proof.Machine
end

