-- ==== Sys2Proof/Laws/Events.lean ====
section
/-! SUPPORT. What each command's own operation is: `Steady` for most, `Lawful` for the ones that move positions, settings,
part phase, printer report or exchange port. A proof over all commands is a case split that cites one of these for each. -/

namespace Sys2Proof.Machine

/-! ## Coordinates -/

theorem lawful_transition (s : State) (enc : Encoder) (sense : Sense) : Lawful s (s.transition enc sense) := by
  unfold State.transition
  split
  · unfold State.peForward
    exact (lawful_positions s _ _).trans (Lawful.ite (steady_clear _ _ _).lawful (Lawful.refl _))
  · unfold State.peReverse
    exact Lawful.ite (Lawful.refl s)
      ((lawful_coord s _).trans (Lawful.ite (steady_raise _ _ _).lawful (Lawful.refl _)))
  · exact lawful_positions s _ _
  · exact lawful_coord s _
  · exact Lawful.refl s
  · exact Lawful.refl s

theorem lawful_measureSpeed (s : State) : Lawful s s.measureSpeed := by
  unfold State.measureSpeed
  have h (x : Coord) (y : RegisterUnit) : Lawful s { s with coord := x, reg := y } :=
    (lawful_coord s x).trans (steady_reg { s with coord := x } y).lawful
  exact (h _ _).trans (steady_loopsSettle _).lawful

/-! ## Position events -/

theorem steady_blockEvent (s : State) : Steady s s.blockEvent := by
  unfold State.blockEvent
  split
  · exact Steady.ite (steady_closeBlock s) (Steady.refl s)
  · exact Steady.refl s

theorem steady_windowEvent (s : State) : Steady s s.windowEvent := by
  unfold State.windowEvent
  split
  · exact Steady.ite (steady_expireReference s) (Steady.refl s)
  · exact Steady.refl s

theorem steady_embossWindowEvent (s : State) (c : Int) : Steady s (s.embossWindowEvent c) := by
  unfold State.embossWindowEvent
  split
  · exact Steady.ite (steady_expireThrough s c) (Steady.refl s)
  · exact Steady.refl s

theorem steady_leaveEvent (s : State) : Steady s s.leaveEvent := by
  unfold State.leaveEvent
  split
  · exact (steady_unitLeaves s _).trans (steady_settlePlan _)
  · exact Steady.refl s

theorem steady_spliceLeaveEvent (s : State) (p : Int) : Steady s (s.spliceLeaveEvent p) := by
  unfold State.spliceLeaveEvent
  split
  · exact Steady.ite (steady_dropSplice s p) (Steady.refl s)
  · exact Steady.refl s

theorem steady_zoneStart (s : State) (p : Int) : Steady s (s.zoneStart p) :=
  (steady_reg s _).trans (steady_loopsSettle _)

theorem steady_zoneEnd (s : State) (p : Int) : Steady s (s.zoneEnd p) :=
  (steady_reg s _).trans (steady_loopsSettle _)

theorem steady_guardStart (s : State) (p : Int) : Steady s (s.guardStart p) :=
  (steady_emb s _).trans (steady_embossSettle _)

theorem steady_guardEnd (s : State) (p : Int) : Steady s (s.guardEnd p) :=
  (steady_emb s _).trans (steady_embossSettle _)

theorem steady_nipEvent (s : State) (c : Int) : Steady s (s.nipEvent c) := by
  unfold State.nipEvent
  split
  · exact Steady.ite (steady_checkNip s c) (Steady.refl s)
  · exact Steady.refl s

theorem steady_shadeEvent (s : State) (c : Int) : Steady s (s.shadeEvent c) := by
  unfold State.shadeEvent
  split
  · exact Steady.ite ((steady_shadeRequest s _).trans (steady_settlePlan _)) (Steady.refl s)
  · exact Steady.refl s

theorem steady_horizonEvent (s : State) (c : Int) : Steady s (s.horizonEvent c) := by
  unfold State.horizonEvent
  split
  · exact Steady.ite ((steady_horizonReached s _).trans (steady_settlePlan _)) (Steady.refl s)
  · exact Steady.refl s

theorem steady_leadEvent (s : State) : Steady s s.leadEvent := by
  unfold State.leadEvent
  split
  · exact ((steady_setWinder s _).trans (steady_decideEntry _)).trans (steady_settlePlan _)
  · exact Steady.refl s

theorem steady_leadPassedEvent (s : State) : Steady s s.leadPassedEvent :=
  Steady.ite ((steady_deferEarliest s).trans (steady_settlePlan _)) (Steady.refl s)

theorem steady_missEvent (s : State) : Steady s s.missEvent := by
  unfold State.missEvent
  split
  · exact Steady.ite ((steady_giveUpCut s).trans (steady_settlePlan _)) (Steady.refl s)
  · exact Steady.refl s

theorem steady_handOver (s : State) (c : ClosingRoll) : Steady s (s.handOver c) := by
  unfold State.handOver
  exact ((((steady_setWinder s _).trans (steady_composeReported _ _)).trans (steady_labelNext _)).trans
    (steady_reassess _)).trans (steady_settlePlan _)

theorem steady_handoverEvent (s : State) : Steady s s.handoverEvent := by
  unfold State.handoverEvent
  split
  · exact steady_handOver s _
  · exact Steady.refl s

/-! ## Link, label line, host -/

theorem steady_linkTick (s : State) : Steady s s.linkTick := (steady_frameFailed s false).trans (steady_sendFrame _)

theorem lawful_labelStatus (s : State) (body : List Byte) : Lawful s (s.labelStatus body) := by
  unfold State.labelStatus
  split
  · exact (lawful_rolls s _).trans (steady_labelNext _).lawful
  · exact (steady_labelRejected s).lawful

theorem steady_labelAck (s : State) (body : List Byte) : Steady s (s.labelAck body) := by
  unfold State.labelAck
  split
  · exact steady_labelAcked s _
  · exact steady_labelRejected s

theorem steady_labelNak (s : State) (body : List Byte) : Steady s (s.labelNak body) := by
  unfold State.labelNak
  split
  · exact steady_labelNaked s _
  · exact steady_labelRejected s

theorem steady_jobSent (s : State) : Steady s s.jobSent := steady_rolls s _ rfl

theorem lawful_clearNotices (s : State) (v : Word) : Lawful s (s.clearNotices v) := lawful_port s _ ⟨rfl, rfl⟩

theorem lawful_setRoute (s : State) (v : Word) : Lawful s (s.setRoute v) := lawful_port s _ ⟨rfl, rfl⟩

theorem lawful_control (s : State) (v : Word) : Lawful s (s.control v) := by
  unfold State.control
  exact Lawful.ite (Lawful.refl s) (Lawful.ite (lawful_attention s) (Lawful.ite (lawful_freezeCommand s)
    (Lawful.ite (lawful_thawCommand s) (Lawful.ite (steady_resume s).lawful (Lawful.ite (lawful_enterConfig s)
      (Lawful.ite (lawful_leaveConfig s) (Lawful.ite (lawful_lineReset s) (Lawful.refl s))))))))

/-- Both lines invert together (R161). -/
theorem steady_toggleStop (s : State) : Steady s s.toggleStop := by
  unfold State.toggleStop
  split
  · rename_i h
    refine steady_stopState s _ (fun hs => ?_)
    unfold State.stopPairOk at hs ⊢
    rcases h with h | h <;> (rw [h] at hs; simp only [h, hs])
  · exact Steady.refl s

end Sys2Proof.Machine
end

