-- ==== Sys2Proof/Laws/FaultReach.lean ====
section
/-! SUPPORT. How far a raise and a clear reach (`State.faultReach`), what the fault unit shows after them, and that every
`Steady` operation leaves the inputs. -/

namespace Sys2Proof.Machine

theorem Steady.leavesInputs {s t : State} (h : Steady s t) : s.leavesInputs t :=
  ⟨h.coord, h.settings, h.printer, h.port, h.notice, h.host⟩

theorem State.leavesInputs.refl (s : State) : s.leavesInputs s := (Steady.refl s).leavesInputs

theorem State.leavesInputs.trans {s t u : State} (h : s.leavesInputs t) (k : t.leavesInputs u) : s.leavesInputs u where
  coord := k.coord.trans h.coord
  settings := k.settings.trans h.settings
  printer := k.printer.trans h.printer
  port := by rw [k.port, h.port]
  notice := fun i hi => k.notice i (h.notice i hi)
  host := fun a ha => (k.host a ha).trans (h.host a ha)

theorem State.faultReach.refl (s : State) : s.faultReach s :=
  ⟨rfl, State.leavesInputs.refl s, rfl, rfl, rfl, rfl, rfl, rfl, rfl, rfl, rfl, rfl, rfl, fun _ _ => rfl⟩

theorem State.faultReach.trans {s t u : State} (h : s.faultReach t) (k : t.faultReach u) : s.faultReach u where
  pending := k.pending.trans h.pending
  inputs := h.inputs.trans k.inputs
  track := k.track.trans h.track
  register := by rw [k.register, h.register]
  draw := k.draw.trans h.draw
  shade := k.shade.trans h.shade
  cut := k.cut.trans h.cut
  winder := k.winder.trans h.winder
  rolls := k.rolls.trans h.rolls
  orders := k.orders.trans h.orders
  freeIdx := k.freeIdx.trans h.freeIdx
  link := by rw [k.link, h.link]
  nodes := k.nodes.trans h.nodes
  bytes := fun a ha => (k.bytes a ha).trans (h.bytes a ha)

theorem State.faultReach.ite {c : Prop} [Decidable c] {a t u : State} (h1 : a.faultReach t) (h2 : a.faultReach u) :
    a.faultReach (if c then t else u) := by
  split
  · exact h1
  · exact h2

/-! ## Primitive updates -/

theorem map_modifyAt {α β : Type} {f : α → α} (g : α → β) (h : ∀ a, g (f a) = g a) (i : Nat) (l : List α) :
    (modifyAt f i l).map g = l.map g := by
  induction l generalizing i with
  | nil => cases i <;> rfl
  | cons a l ih => cases i with
    | zero => simp [modifyAt, h]
    | succ i => simp [modifyAt, ih]


theorem reach_fault (s : State) (x : FaultUnit) : s.faultReach { s with fault := x } :=
  ⟨rfl, ⟨rfl, rfl, rfl, rfl, fun _ h => h, fun _ _ => rfl⟩, rfl, rfl, rfl, rfl, rfl, rfl, rfl, rfl, rfl, rfl, rfl, fun _ _ => rfl⟩

theorem reach_emb (s : State) (x : EmbossUnit) : s.faultReach { s with emb := x } :=
  ⟨rfl, ⟨rfl, rfl, rfl, rfl, fun _ h => h, fun _ _ => rfl⟩, rfl, rfl, rfl, rfl, rfl, rfl, rfl, rfl, rfl, rfl, rfl, fun _ _ => rfl⟩

theorem reach_setNode (s : State) (i : Nat) (f : Node → Node) (h : ∀ n, { f n with waiting := [] } = { n with waiting := [] }) :
    s.faultReach (s.setNode i f) :=
  ⟨rfl, ⟨rfl, rfl, rfl, rfl, fun _ h => h, fun _ _ => rfl⟩, rfl, rfl, rfl, rfl, rfl, rfl, rfl, rfl, rfl, rfl,
    map_modifyAt _ h i _, fun _ _ => rfl⟩

theorem reach_loops (s : State) (x : List Loop) : s.faultReach { s with reg := { s.reg with loops := x } } :=
  ⟨rfl, ⟨rfl, rfl, rfl, rfl, fun _ h => h, fun _ _ => rfl⟩, rfl, rfl, rfl, rfl, rfl, rfl, rfl, rfl, rfl, rfl, rfl, fun _ _ => rfl⟩

theorem reach_latch (s : State) (f : Factor) : s.faultReach (s.latch f) :=
  ⟨rfl, (steady_latch s f).leavesInputs, rfl, rfl, rfl, rfl, rfl, rfl, rfl, rfl, rfl, rfl, rfl, fun _ _ => rfl⟩

/-- A write by the part outside the words from 0x0040 to 0x14FF, and beside the phase and counter bytes. -/
theorem reach_partStore (s : State) (a : Nat) (bs : List Byte) (h : a + bs.length ≤ 0x40 ∨ 0x1500 ≤ a)
    (h2 : 10 < a) : s.faultReach (s.partStore a bs) where
  pending := by simp
  inputs := (steady_partStore s a bs (.inr h2)).leavesInputs
  track := by simp
  register := by simp
  draw := by simp
  shade := by simp
  cut := by simp
  winder := by simp
  rolls := by simp
  orders := by simp
  freeIdx := by simp
  link := by simp
  nodes := by simp
  bytes := fun x hx => partStore_outside s a bs (by omega)

theorem reach_tagWritten (s : State) : s.faultReach s.tagWritten where
  pending := by simp [State.tagWritten, State.header]
  inputs := (steady_tagWritten s).leavesInputs
  track := by simp [State.tagWritten, State.header]
  register := by simp [State.tagWritten, State.header]
  draw := by simp [State.tagWritten, State.header]
  shade := by simp [State.tagWritten, State.header]
  cut := by simp [State.tagWritten, State.header]
  winder := by simp [State.tagWritten, State.header]
  rolls := by simp [State.tagWritten, State.header]
  orders := by simp [State.tagWritten, State.header]
  freeIdx := by simp [State.tagWritten, State.header]
  link := by simp [State.tagWritten, State.header]
  nodes := by simp [State.tagWritten, State.header]
  bytes := fun x hx => by
    simp only [State.tagWritten, State.header]
    exact partStore_outside _ _ _ (by rw [natBytes_length]; omega)

/-! ## The fault unit -/

theorem reach_faultSettle (s : State) : s.faultReach s.faultSettle := by
  unfold State.faultSettle
  split
  · exact State.faultReach.refl s
  · exact State.faultReach.refl s
  · exact reach_fault s _
  · exact reach_fault s _

theorem reach_enterStopped (s : State) : s.faultReach s.enterStopped :=
  State.faultReach.ite ((reach_fault s _).trans (reach_latch _ _)) (State.faultReach.refl s)

theorem reach_faultStore (s : State) (n k : Nat) (bs : List Byte) : s.faultReach (s.partStore (faultSlotAddr n + k) bs) :=
  reach_partStore s _ bs (.inr (by unfold faultSlotAddr; omega)) (by unfold faultSlotAddr; omega)

theorem reach_faultTagStore (s : State) (n : Nat) (bs : List Byte) : s.faultReach (s.partStore (faultSlotAddr n) bs) :=
  reach_faultStore s n 0 bs

theorem reach_writeFaultTag (s : State) (n : Nat) (advance : Bool) : s.faultReach (s.writeFaultTag n advance) := by
  unfold State.writeFaultTag
  extract_lets t u src v
  have h : s.faultReach v := (reach_faultTagStore s n _).trans (reach_fault u _)
  exact State.faultReach.ite (h.trans (reach_tagWritten _)) h

theorem reach_headerCount (s : State) (k v : Nat) (h : 10 < k ∧ k ≤ 62) : s.faultReach (s.header k 2 v) :=
  reach_partStore s k _ (.inl (by rw [natBytes_length]; omega)) h.1

theorem reach_newEntry (s : State) (code subject : Nat) : s.faultReach (s.newEntry code subject) := by
  unfold State.newEntry
  extract_lets q a t
  have h : s.faultReach t := reach_fault s _
  split
  · exact h.trans (reach_headerCount _ _ _ (by decide))
  · extract_lets
    exact (((h.trans (reach_faultStore t _ _ _)).trans (reach_fault _ _)).trans (reach_writeFaultTag _ _ _)).trans
      (reach_latch _ _)

theorem reach_countEntry (s : State) (n code : Nat) : s.faultReach (s.countEntry n code) := by
  unfold State.countEntry
  extract_lets
  exact (((reach_faultStore s n _ _).trans (reach_faultStore _ n _ _)).trans
    (State.faultReach.ite (reach_faultStore _ n _ _) (State.faultReach.refl _))).trans (reach_writeFaultTag _ _ _)

theorem reach_clearEntry (s : State) (n code : Nat) (advance : Bool) : s.faultReach (s.clearEntry n code advance) := by
  unfold State.clearEntry
  exact ((reach_faultStore s n _ _).trans (reach_faultStore _ n _ _)).trans (reach_writeFaultTag _ _ _)

theorem reach_listRaise (s : State) (code subject : Nat) : s.faultReach (s.listRaise code subject) := by
  unfold State.listRaise
  split
  · split
    · exact reach_countEntry s _ _
    · exact reach_newEntry s _ _
  · split
    · split
      · exact reach_countEntry s _ _
      · exact reach_newEntry s _ _
    · exact reach_newEntry s _ _

theorem reach_raiseCore (s : State) (code subject : Nat) : s.faultReach (s.raiseCore code subject) := by
  unfold State.raiseCore
  extract_lets
  exact (((reach_listRaise s _ _).trans (State.faultReach.ite (State.faultReach.ite (reach_fault _ _) (State.faultReach.refl _))
    (State.faultReach.ite (State.faultReach.refl _) (reach_fault _ _)))).trans
    (State.faultReach.ite (reach_enterStopped _) (State.faultReach.refl _))).trans (reach_faultSettle _)

theorem reach_clearCore (s : State) (code subject : Nat) : s.faultReach (s.clearCore code subject) := by
  unfold State.clearCore
  split
  · extract_lets t
    have h1 : s.faultReach t := by
      dsimp only [t]
      split
      · exact (reach_clearEntry s _ _ _).trans (reach_latch _ _)
      · exact State.faultReach.refl s
    exact (h1.trans (reach_fault t _)).trans (reach_faultSettle _)
  · exact State.faultReach.refl s

theorem reach_endPulse (s : State) : s.faultReach s.endPulse := (reach_fault s _).trans (reach_faultSettle _)

/-! ## Loops and their causes -/

theorem reach_hand (s : State) (t : Target) (c : LinkCmd) : s.faultReach (s.hand t c).1 := by
  unfold State.hand
  split
  · exact State.faultReach.refl s
  · split
    · exact State.faultReach.refl s
    · split
      · exact State.faultReach.refl s
      · split
        · exact reach_setNode s _ _ (fun _ => rfl)
        · split
          · exact State.faultReach.refl s
          · exact reach_setNode s _ _ (fun _ => rfl)

theorem reach_loopsSettle (s : State) : s.faultReach s.loopsSettle := reach_loops s _

theorem reach_sendLift (s : State) : s.faultReach s.sendLift := by
  unfold State.sendLift
  extract_lets src t
  have h : s.faultReach t := reach_emb s _
  clear_value t
  have h2 := reach_hand t .emboss .lift
  split
  · rename_i heq; rw [heq] at h2; exact h.trans h2
  · rename_i heq; rw [heq] at h2; exact ((h.trans h2).trans (reach_emb _ _)).trans (reach_hand _ _ _)

theorem reach_enterSyncing (s : State) : s.faultReach s.enterSyncing := reach_emb s _

theorem reach_enterLifted (s : State) : s.faultReach s.enterLifted := by
  unfold State.enterLifted
  extract_lets src t u
  have h1 : s.faultReach t := reach_emb s _
  have h2 : t.faultReach u := (reach_clearCore _ _ _).trans (reach_clearCore _ _ _)
  exact (h1.trans h2).trans (State.faultReach.ite (reach_emb u _)
    (State.faultReach.ite (State.faultReach.refl u) (reach_enterSyncing u)))

theorem reach_embossSettle (s : State) : s.faultReach s.embossSettle := by
  unfold State.embossSettle
  split
  · exact State.faultReach.refl s
  · exact State.faultReach.ite (reach_enterSyncing s) (State.faultReach.refl s)
  · exact State.faultReach.ite (reach_enterLifted s) (State.faultReach.refl s)
  · exact State.faultReach.ite (reach_emb s _) (State.faultReach.refl s)
  · exact State.faultReach.ite (reach_sendLift s) (State.faultReach.refl s)
  · exact State.faultReach.refl s

theorem reach_settle (s : State) : s.faultReach s.settle := (reach_loopsSettle s).trans (reach_embossSettle _)

theorem reach_raise (s : State) (code subject : Nat) : s.faultReach (s.raise code subject) :=
  (reach_raiseCore s code subject).trans (reach_settle _)

theorem reach_clear (s : State) (code subject : Nat) : s.faultReach (s.clear code subject) :=
  (reach_clearCore s code subject).trans (reach_settle _)

end Sys2Proof.Machine
end

