-- ==== Sys2Proof/Laws/Kept.lean ====
section
/-! SUPPORT. The relation `Kept s t`: from `s` to `t` the unit records are the same up to what the shade unit, the order unit
and the checks write, and the winder's rolls and the holding queue are untouched. Raising and clearing faults, the loops'
reactions, the planner coming to rest and the order unit's acts all have it. -/

namespace Sys2Proof.Machine

/-- A unit record without what the order unit, the shade unit and the checks of a unit write. -/
def UnitRec.core (u : UnitRec) : UnitRec :=
  { u with
    order := 0, number := 0, phi := none, reading := none, verdict := .waiting, batch := 0, flags := { UnitFlags.none with synthetic := u.flags.synthetic, estimated := u.flags.estimated },
    dev := none, shadeD := none, nipAt := none, shadeAt := none, horizonAt := none }

/-- What only a CUT DONE, a unit that leaves and a report of the winder drive change: the roll in progress but for its
opening reasons, the closing rolls, the spindles and the residual. -/
def Winder.core (w : Winder) : Option Roll × List ClosingRoll × Option (SpindleState × SpindleState) × Spindle × Int :=
  (w.roll.map (fun r => { r with opening := Reasons.none }), w.closing, w.spindles, w.active, w.residual)

/-- See the head of this file. -/
structure Kept (s t : State) : Prop where
  units : t.track.units.map UnitRec.core = s.track.units.map UnitRec.core
  prevC : t.track.prevC = s.track.prevC
  winder : t.winder.core = s.winder.core
  queue : t.rolls.queue = s.rolls.queue
  job : t.rolls.job = s.rolls.job
  link : t.link = { s.link with nodes := t.link.nodes }
  nodes : t.link.nodes.map (fun n => { n with waiting := [] }) = s.link.nodes.map (fun n => { n with waiting := [] })

theorem Kept.refl (s : State) : Kept s s := ⟨rfl, rfl, rfl, rfl, rfl, rfl, rfl⟩

theorem Kept.trans {s t u : State} (h : Kept s t) (k : Kept t u) : Kept s u :=
  ⟨k.units.trans h.units, k.prevC.trans h.prevC, k.winder.trans h.winder, k.queue.trans h.queue, k.job.trans h.job,
    by rw [k.link, h.link], k.nodes.trans h.nodes⟩

theorem Kept.coordinates {s t : State} (h : Kept s t) :
    t.track.units.map (fun u => (u.c, u.g)) = s.track.units.map (fun u => (u.c, u.g)) := by
  have := congrArg (List.map (fun u : UnitRec => (u.c, u.g))) h.units
  rw [List.map_map, List.map_map] at this
  exact this

/-! ## Primitive updates -/

theorem kept_reg (s : State) (x) : Kept s { s with reg := x } := ⟨rfl, rfl, rfl, rfl, rfl, rfl, rfl⟩
theorem kept_emb (s : State) (x) : Kept s { s with emb := x } := ⟨rfl, rfl, rfl, rfl, rfl, rfl, rfl⟩
theorem kept_draw (s : State) (x) : Kept s { s with draw := x } := ⟨rfl, rfl, rfl, rfl, rfl, rfl, rfl⟩
theorem kept_shade (s : State) (x) : Kept s { s with shade := x } := ⟨rfl, rfl, rfl, rfl, rfl, rfl, rfl⟩
theorem kept_cut (s : State) (x) : Kept s { s with cut := x } := ⟨rfl, rfl, rfl, rfl, rfl, rfl, rfl⟩
theorem kept_winder (s : State) (x : Winder) (h : x.core = s.winder.core := by rfl) : Kept s { s with winder := x } :=
  ⟨rfl, rfl, h, rfl, rfl, rfl, rfl⟩
theorem kept_setNode (s : State) (i : Nat) (f : Node → Node)
    (h : ∀ n, { f n with waiting := [] } = { n with waiting := [] } := by intro _; rfl) : Kept s (s.setNode i f) :=
  ⟨rfl, rfl, rfl, rfl, rfl, rfl, map_modifyAt _ h i _⟩
theorem kept_ord (s : State) (x) : Kept s { s with ord := x } := ⟨rfl, rfl, rfl, rfl, rfl, rfl, rfl⟩
theorem kept_fault (s : State) (x) : Kept s { s with fault := x } := ⟨rfl, rfl, rfl, rfl, rfl, rfl, rfl⟩
theorem kept_freeIdx (s : State) (x) : Kept s { s with freeIdx := x } := ⟨rfl, rfl, rfl, rfl, rfl, rfl, rfl⟩
theorem kept_rolls (s : State) (x : RollUnit) (h : x.queue = s.rolls.queue ∧ x.job = s.rolls.job) :
    Kept s { s with rolls := x } := ⟨rfl, rfl, rfl, h.1, h.2, rfl, rfl⟩
theorem kept_splices (s : State) (x) (y) : Kept s { s with track := { s.track with splices := x, lastNominal := y } } :=
  ⟨rfl, rfl, rfl, rfl, rfl, rfl, rfl⟩
theorem kept_setOrder (s : State) (n : Nat) (f : OrderRec → OrderRec) : Kept s (s.setOrder n f) := kept_ord s _
theorem kept_keepBody (s : State) (n : Nat) (f : OrderRec → OrderRec) : Kept s (s.setOrder n f) := kept_ord s _
theorem kept_mapOrders (s : State) (f : OrderRec → OrderRec) :
    Kept s { s with ord := { s.ord with orders := s.ord.orders.map f } } := kept_ord s _

theorem kept_units (s : State) (us : List UnitRec) (h : us.map UnitRec.core = s.track.units.map UnitRec.core) :
    Kept s { s with track := { s.track with units := us } } := ⟨h, rfl, rfl, rfl, rfl, rfl, rfl⟩

theorem kept_setUnit (s : State) (c : Int) (f : UnitRec → UnitRec) (h : ∀ u, (f u).core = u.core) : Kept s (s.setUnit c f) :=
  kept_units s _ (by
    rw [List.map_map]
    apply List.map_congr_left
    intro u _
    simp only [Function.comp]
    split
    · exact h u
    · rfl)

theorem kept_latch (s : State) (f : Factor) : Kept s (s.latch f) := ⟨rfl, rfl, rfl, rfl, rfl, rfl, rfl⟩

theorem kept_partStore (s : State) (a : Nat) (bs : List Byte) : Kept s (s.partStore a bs) := by
  constructor <;> simp

theorem kept_header (s : State) (offset len v : Nat) : Kept s (s.header offset len v) := kept_partStore s _ _

theorem kept_tagWritten (s : State) : Kept s s.tagWritten := by
  constructor <;> simp [State.tagWritten, State.header]

theorem Kept.ite {c : Prop} [Decidable c] {a t u : State} (h1 : Kept a t) (h2 : Kept a u) : Kept a (if c then t else u) := by
  split
  · exact h1
  · exact h2

theorem kept_foldl {α : Type} {f : State → α → State} (h : ∀ s a, Kept s (f s a)) (l : List α) (s : State) :
    Kept s (l.foldl f s) := by
  induction l generalizing s with
  | nil => exact Kept.refl s
  | cons a l ih => exact (h s a).trans (ih (f s a))

/-! ## The fault unit -/

theorem kept_faultSettle (s : State) : Kept s s.faultSettle := by
  unfold State.faultSettle
  split <;> first | exact Kept.refl s | exact kept_fault s _

theorem kept_enterStopped (s : State) : Kept s s.enterStopped :=
  Kept.ite ((kept_fault s _).trans (kept_latch _ _)) (Kept.refl s)

theorem reassign_core (old new : Nat) (c : Int) (k : Nat) (us : List UnitRec) :
    (reassign old new c k us).map UnitRec.core = us.map UnitRec.core := by
  induction us generalizing k with
  | nil => rfl
  | cons u us ih => unfold reassign; split <;> simp [ih, UnitRec.core]

theorem kept_acked (s : State) (x : List Bool) : Kept s { s with fault := { s.fault with acked := x } } := kept_fault s _
theorem kept_free (s : State) (x : List Bool) : Kept s { s with fault := { s.fault with free := x } } := kept_fault s _
theorem kept_entrySeq (s : State) (x : Nat) : Kept s { s with fault := { s.fault with entrySeq := x } } := kept_fault s _
theorem kept_pulse (s : State) (x : Reaction) : Kept s { s with fault := { s.fault with pulse := x } } := kept_fault s _
theorem kept_active (s : State) (x : List FaultId) : Kept s { s with fault := { s.fault with active := x } } := kept_fault s _

theorem kept_setWinder (s : State) (f : Winder → Winder) (h : (f s.winder).core = s.winder.core := by rfl) :
    Kept s (s.setWinder f) := kept_winder s _ h

/-- A write by the part into a fault slot. -/
theorem kept_faultStore (s : State) (n k : Nat) (bs : List Byte) : Kept s (s.partStore (faultSlotAddr n + k) bs) :=
  kept_partStore s _ bs

theorem kept_faultTagStore (s : State) (n : Nat) (bs : List Byte) : Kept s (s.partStore (faultSlotAddr n) bs) :=
  kept_faultStore s n 0 bs

theorem kept_writeFaultTag (s : State) (n : Nat) (advance : Bool) : Kept s (s.writeFaultTag n advance) := by
  unfold State.writeFaultTag
  extract_lets
  have h := (kept_faultTagStore s n [byte (nextTag (s.faultTag n) (s.faultAck n)), 0]).trans
    (kept_acked _ (s.fault.acked.set n false))
  rw [← partStore_fault s (faultSlotAddr n) [byte (nextTag (s.faultTag n) (s.faultAck n)), 0]] at h
  exact Kept.ite (h.trans (kept_tagWritten _)) h

/-- A count in the header. -/
theorem kept_headerCount (s : State) (k v : Nat) (_ : 10 < k) : Kept s (s.header k 2 v) := kept_header s k 2 v

theorem kept_newEntry (s : State) (code subject : Nat) : Kept s (s.newEntry code subject) := by
  unfold State.newEntry
  extract_lets q a t
  have h : Kept s t := kept_entrySeq s _
  split
  · exact h.trans (kept_headerCount _ _ _ (by decide))
  · extract_lets
    exact (((h.trans (kept_faultStore t _ _ _)).trans (kept_free _ _)).trans (kept_writeFaultTag _ _ _)).trans
      (kept_latch _ _)

theorem kept_countEntry (s : State) (n code : Nat) : Kept s (s.countEntry n code) := by
  unfold State.countEntry
  extract_lets
  exact (((kept_faultStore s n _ _).trans (kept_faultStore _ n _ _)).trans
    (Kept.ite (kept_faultStore _ n _ _) (Kept.refl _))).trans (kept_writeFaultTag _ _ _)

theorem kept_clearEntry (s : State) (n code : Nat) (advance : Bool) : Kept s (s.clearEntry n code advance) := by
  unfold State.clearEntry
  exact ((kept_faultStore s n _ _).trans (kept_faultStore _ n _ _)).trans (kept_writeFaultTag _ _ _)

theorem kept_listRaise (s : State) (code subject : Nat) : Kept s (s.listRaise code subject) := by
  unfold State.listRaise
  grind [kept_newEntry, kept_countEntry]

theorem kept_raiseCore (s : State) (code subject : Nat) : Kept s (s.raiseCore code subject) := by
  unfold State.raiseCore
  extract_lets
  exact (((kept_listRaise s _ _).trans (Kept.ite (Kept.ite (kept_pulse _ _) (Kept.refl _))
    (Kept.ite (Kept.refl _) (kept_active _ _)))).trans
    (Kept.ite (kept_enterStopped _) (Kept.refl _))).trans (kept_faultSettle _)

theorem kept_clearCore (s : State) (code subject : Nat) : Kept s (s.clearCore code subject) := by
  unfold State.clearCore
  split
  · extract_lets t
    have h1 : Kept s t := by
      dsimp only [t]
      split
      · exact (kept_clearEntry s _ _ _).trans (kept_latch _ _)
      · exact Kept.refl s
    exact (h1.trans (kept_active t _)).trans (kept_faultSettle _)
  · exact Kept.refl s

theorem kept_endPulse (s : State) : Kept s s.endPulse := (kept_pulse s _).trans (kept_faultSettle _)

theorem kept_hand (s : State) (t : Target) (c : LinkCmd) : Kept s (s.hand t c).1 := by
  unfold State.hand
  split
  · exact Kept.refl s
  · split
    · exact Kept.refl s
    · split
      · exact Kept.refl s
      · split
        · exact kept_setNode s _ _
        · split
          · exact Kept.refl s
          · exact kept_setNode s _ _

theorem kept_setLoop (s : State) (st : Nat) (f : Loop → Loop) : Kept s (s.setLoop st f) := kept_reg s _

theorem kept_loopsSettle (s : State) : Kept s s.loopsSettle := kept_reg s _

theorem kept_sendLift (s : State) : Kept s s.sendLift := by
  unfold State.sendLift
  grind [kept_hand, kept_emb, Kept.trans, Kept.refl]

theorem kept_enterSyncing (s : State) : Kept s s.enterSyncing := kept_emb s _

theorem kept_enterLifted (s : State) : Kept s s.enterLifted := by
  unfold State.enterLifted
  grind [kept_emb, kept_clearCore, kept_enterSyncing, Kept.trans, Kept.refl]

theorem kept_embossSettle (s : State) : Kept s s.embossSettle := by
  unfold State.embossSettle
  grind [kept_emb, kept_enterSyncing, kept_enterLifted, kept_sendLift, Kept.refl]

theorem kept_settle (s : State) : Kept s s.settle := (kept_loopsSettle s).trans (kept_embossSettle _)

theorem kept_raise (s : State) (code subject : Nat) : Kept s (s.raise code subject) :=
  (kept_raiseCore s code subject).trans (kept_settle _)

theorem kept_clear (s : State) (code subject : Nat) : Kept s (s.clear code subject) :=
  (kept_clearCore s code subject).trans (kept_settle _)

theorem kept_follow (s : State) (code subject : Nat) (c : Bool) : Kept s (s.follow code subject c) := by
  unfold State.follow
  grind [kept_raise, kept_clear, Kept.refl]




theorem kept_followCold (s : State) : Kept s s.followCold := kept_follow s _ _ _

theorem kept_embossTrimLost (s : State) : Kept s s.embossTrimLost := by
  unfold State.embossTrimLost
  exact Kept.ite (kept_emb s _) (Kept.refl s)

theorem kept_engageLost (s : State) : Kept s s.engageLost := by
  unfold State.engageLost
  grind [kept_hand, kept_emb, kept_enterLifted, Kept.trans, Kept.refl]

theorem kept_liftLost (s : State) : Kept s s.liftLost := by
  unfold State.liftLost
  exact Kept.ite ((kept_emb s _).trans (kept_hand _ _ _)) (Kept.refl s)

theorem kept_embossRestarted (s : State) : Kept s s.embossRestarted := by
  unfold State.embossRestarted
  extract_lets
  exact ((kept_emb s _).trans (Kept.ite (Kept.refl _) ((kept_emb _ _).trans (kept_enterLifted _)))).trans
    (kept_followCold _)

theorem kept_embossPosition (s : State) (p : EmbossPosition) : Kept s (s.embossPosition p) := by
  unfold State.embossPosition
  grind [kept_emb, kept_sendLift, kept_enterLifted, Kept.refl]

theorem kept_embossReported (s : State) (r : EmbossReport) : Kept s (s.embossReported r) := by
  unfold State.embossReported
  exact (((kept_emb s _).trans (kept_followCold _)).trans (kept_settle _)).trans (kept_embossPosition _ _)

theorem kept_correctEmboss (s : State) : Kept s s.correctEmboss := by
  unfold State.correctEmboss
  grind [kept_hand, kept_emb, kept_embossTrimLost, Kept.trans, Kept.refl]

theorem kept_sendEngage (s : State) : Kept s s.sendEngage := by
  unfold State.sendEngage
  grind [kept_hand, kept_emb, kept_engageLost, Kept.trans, Kept.refl]

theorem kept_lockTest (s : State) : Kept s s.lockTest := by
  unfold State.lockTest
  exact (kept_emb s _).trans (Kept.ite (kept_sendEngage _) (kept_correctEmboss _))

theorem kept_lossTest (s : State) (phi : Int) : Kept s (s.lossTest phi) := by
  unfold State.lossTest
  exact (kept_emb s _).trans (Kept.ite (kept_raise _ _ _) (Kept.refl _))

theorem kept_filterPhase (s : State) (phi : Int) : Kept s (s.filterPhase phi) := kept_emb s _

theorem kept_settlePhase (s : State) : Kept s s.settlePhase := kept_emb s _

theorem kept_measurePhase (s : State) (phi : Int) : Kept s (s.measurePhase phi) := by
  unfold State.measurePhase
  extract_lets src t settling
  have h : Kept s t := kept_emb s _
  clear_value settling t
  grind [kept_settlePhase, kept_filterPhase, kept_lockTest, kept_correctEmboss, kept_lossTest, Kept.trans,
    Kept.refl]

theorem kept_resolvePhase (s : State) (c i : Int) : Kept s (s.resolvePhase c i) := by
  unfold State.resolvePhase
  split
  · exact Kept.refl s
  · split
    · exact Kept.refl s
    · exact Kept.ite ((kept_setUnit s _ _ (by intro _; rfl)).trans (kept_measurePhase _ _)) (Kept.refl s)

theorem kept_takeIndex (s : State) (i : Int) : Kept s (s.takeIndex i) := by
  unfold State.takeIndex
  extract_lets due last src t u
  clear_value last due
  have h1 : Kept s t := kept_emb s _
  have h2 : Kept t u := by
    dsimp only [u]
    split
    · exact Kept.refl t
    · exact kept_foldl (fun v c => kept_resolvePhase v c _) _ _
  exact (h1.trans h2).trans (kept_emb u _)

theorem kept_pendPhase (s : State) (c : Int) : Kept s (s.pendPhase c) := by
  unfold State.pendPhase
  exact Kept.ite (Kept.refl s) (kept_emb s _)

theorem kept_driveTimeout (s : State) : Kept s s.driveTimeout := by
  unfold State.driveTimeout
  exact Kept.ite ((kept_raise s _ _).trans (kept_sendLift _)) (Kept.refl s)

theorem kept_checkNip (s : State) (c : Int) : Kept s (s.checkNip c) := by
  unfold State.checkNip
  split
  · exact Kept.refl s
  · exact kept_setUnit s _ _ (fun _ => rfl)

theorem kept_openGuard (s : State) (p f : Int) : Kept s (s.openGuard p f) := by
  unfold State.openGuard
  exact Kept.ite (Kept.refl s) ((kept_emb s _).trans (kept_embossSettle _))

theorem kept_judgeMatch (s : State) (c lFin : Int) (slot : Nat) : Kept s (s.judgeMatch c lFin slot) := by
  unfold State.judgeMatch
  extract_lets b dev flagged t m n src u
  have h1 : Kept s t := kept_setUnit s _ _ (fun _ => rfl)
  have h2 : Kept t u := kept_emb t _
  exact (h1.trans h2).trans (Kept.ite (kept_raise u _ _) (Kept.ite (kept_clear u _ _) (Kept.refl u)))

theorem kept_embossActivated (s : State) (b : OrderBody) : Kept s (s.embossActivated b) := by
  unfold State.embossActivated
  extract_lets
  refine ((kept_emb s _).trans (kept_clear _ _ _)).trans (Kept.ite ?_ ((kept_followCold _).trans (kept_embossSettle _)))
  exact ((kept_emb _ _).trans (kept_followCold _)).trans (Kept.ite (kept_enterLifted _) (kept_embossSettle _))

theorem kept_embossOrderEnded (s : State) : Kept s s.embossOrderEnded :=
  (kept_followCold s).trans (kept_embossSettle _)

theorem kept_followDrawLimit (s : State) : Kept s s.followDrawLimit := kept_follow s _ _ _

theorem kept_sendDraw (s : State) : Kept s s.sendDraw := kept_hand s _ _

theorem kept_drawResend (s : State) : Kept s s.drawResend := (kept_draw s _).trans (kept_sendDraw _)

theorem kept_computeDraw (s : State) : Kept s s.computeDraw := by
  unfold State.computeDraw
  extract_lets
  exact ((kept_draw s _).trans (Kept.ite (kept_drawResend _) (Kept.refl _))).trans (kept_followDrawLimit _)

theorem kept_gatherDraw (s : State) (a b : Bool) (l : Int) : Kept s (s.gatherDraw a b l) := by
  unfold State.gatherDraw
  extract_lets
  exact Kept.ite (kept_draw s _)
    (Kept.ite ((kept_draw s _).trans (Kept.ite (kept_computeDraw _) (Kept.refl _))) (Kept.refl s))

theorem kept_drawFinal (s : State) (slot : Nat) (m : Bool) (l : Int) : Kept s (s.drawFinal slot m l) := by
  unfold State.drawFinal
  extract_lets
  exact (Kept.ite (kept_draw s _) (Kept.refl s)).trans (Kept.ite (kept_gatherDraw _ _ _ _) (Kept.refl _))

theorem kept_drawReported (s : State) (r : DrawReport) : Kept s (s.drawReported r) := by
  unfold State.drawReported
  extract_lets newly src t
  exact ((kept_draw s _).trans (Kept.ite (kept_sendDraw t) (Kept.refl t))).trans (kept_followDrawLimit _)

theorem kept_drawPresent (s : State) : Kept s s.drawPresent := by
  unfold State.drawPresent
  exact Kept.ite (kept_drawResend s) ((kept_draw s _).trans (kept_sendDraw _))

theorem kept_drawActivated (s : State) : Kept s s.drawActivated := by
  unfold State.drawActivated
  extract_lets
  exact ((kept_draw s _).trans (Kept.ite (kept_drawResend _) (Kept.refl _))).trans (kept_followDrawLimit _)




theorem kept_setCut (s : State) (f : Planner → Planner) : Kept s (s.setCut f) := kept_cut s _

theorem kept_setPlan (s : State) (plan : List PlanEntry) : Kept s (s.setPlan plan) := by
  unfold State.setPlan
  extract_lets
  exact (kept_setCut s _).trans (Kept.ite (kept_clear _ _ _) (Kept.refl _))

theorem kept_report (s : State) (r : PlanReport) : Kept s (s.report r) := kept_setCut s _

theorem kept_moveCount (s : State) (x : Int) : Kept s (s.moveCount x) := kept_setCut s _

theorem kept_countFrom (s : State) (x : Int) : Kept s (s.countFrom x) := by
  unfold State.countFrom
  split
  · exact Kept.refl s
  · exact Kept.ite (kept_setCut s _) (Kept.refl s)

theorem kept_stripTarget (s : State) (x : Int) : Kept s (s.stripTarget x) := kept_setPlan s _

theorem kept_placed (s : State) (kind : CutKind) (x : Int) (opening : Bool) : Kept s (s.placed kind x opening) := by
  unfold State.placed
  extract_lets t
  have h : Kept s t := by
    dsimp only [t]
    split
    · exact (kept_setCut s _).trans (kept_report _ _)
    · exact kept_setCut s _
    · exact kept_report s _
    all_goals exact Kept.refl s
  exact h.trans (Kept.ite (kept_countFrom t x) (Kept.refl t))

theorem kept_planFull (s : State) (kind : CutKind) (x : Int) : Kept s (s.planFull kind x) := by
  unfold State.planFull
  extract_lets t
  have h : Kept s t := Kept.ite (Kept.refl s) (kept_raise s _ _)
  clear_value t
  cases kind <;> first | exact h.trans (kept_setCut t _) | exact h

theorem kept_joinOpening {s : State} {x : Int} {roll : Roll} (h : s.rollAt x = some roll) (r : Reasons) :
    Kept s (s.joinOpening roll r) := by
  have hr : s.winder.roll = some roll := (Option.filter_eq_some_iff.mp h).1
  exact kept_winder s _ (by simp only [Winder.core, hr, Option.map_some])

theorem kept_placeAt (s : State) (kind : CutKind) (x : Int) (waiting : Bool) : Kept s (s.placeAt kind x waiting) := by
  unfold State.placeAt
  extract_lets r late t
  split
  · rename_i roll heq
    exact (kept_joinOpening heq r).trans (kept_placed _ _ _ _)
  · refine Kept.ite ((kept_setCut s _).trans (kept_placed _ _ _ _)) ?_
    have h : Kept s t := Kept.ite (kept_stripTarget s x) (Kept.refl s)
    exact h.trans (Kept.ite (kept_planFull t kind x) ((kept_setCut t _).trans (kept_placed _ _ _ _)))

theorem kept_joinSegments (s : State) (g : Segment) (tail : Int) (stop : Option Int) :
    Kept s (s.joinSegments g tail stop) := by
  unfold State.joinSegments
  extract_lets plan t
  exact (kept_setPlan s _).trans (kept_setCut t _)

theorem kept_landAt (s : State) (kind : CutKind) (x : Int) (waiting : Bool) {merged : State → State}
    (hm : ∀ t, Kept t (merged t)) : Kept s (s.landAt kind x waiting merged) := by
  unfold State.landAt
  extract_lets t
  split
  · rename_i roll h
    split
    · exact (kept_joinOpening h _).trans (hm _)
    · exact kept_placeAt s _ _ _
  · exact Kept.ite (hm s) ((kept_stripTarget s x).trans
      (Kept.ite (kept_planFull t kind x) ((kept_clear t _ _).trans (hm _))))

theorem kept_takeAt (s : State) (kind : CutKind) (x : Int) (waiting : Bool) : Kept s (s.takeAt kind x waiting) := by
  unfold State.takeAt
  refine Kept.ite (kept_setCut s _) ?_
  split
  · exact Kept.ite (kept_landAt s _ _ _ Kept.refl) (kept_placeAt s _ _ _)
  · split
    · exact kept_landAt s _ _ _ (fun t => kept_placeAt t _ _ _)
    · exact kept_placeAt s _ _ _
  · split
    · exact kept_landAt s _ _ _ (fun t => kept_placeAt t _ _ _)
    · exact kept_placeAt s _ _ _
  · split
    · exact kept_landAt s _ _ _ (fun t => kept_joinSegments t _ _ _)
    · exact kept_placeAt s _ _ _
  · exact kept_placeAt s _ _ _
  · exact kept_placeAt s _ _ _
  · exact Kept.refl s

theorem kept_entryMoved (s : State) (x y : Int) (e : Bool) : Kept s (s.entryMoved x y e) := by
  unfold State.entryMoved
  extract_lets f t
  exact (kept_setCut s _).trans (Kept.ite (kept_report t _) (Kept.refl t))

theorem kept_stripFor (s : State) (x : Int) : Kept s (s.stripFor x) := Kept.ite (Kept.refl s) (kept_stripTarget s x)

theorem kept_placeMissed (s : State) (r : Reasons) (origin x : Int) : Kept s (s.placeMissed r origin x) := by
  unfold State.placeMissed
  extract_lets upTo all t u v w
  split
  · split
    · exact Kept.refl s
    · exact (kept_setCut s _).trans (kept_entryMoved _ _ _ _)
  · have h1 : Kept s t := kept_stripFor s x
    have h2 : Kept t u := kept_setPlan t _
    have h3 : Kept u v := kept_setCut u _
    have h4 : Kept v w := (kept_entryMoved v _ _ _).trans
      (kept_foldl (fun s (e : PlanEntry) => kept_entryMoved s e.x x e.reasons.orderEnd) _ _)
    exact (((h1.trans h2).trans h3).trans h4).trans (Kept.ite (kept_countFrom w x) (Kept.refl w))

theorem kept_request (s : State) (kind : CutKind) (coordinate : Option Int) : Kept s (s.request kind coordinate) := by
  unfold State.request
  split
  · exact kept_takeAt s _ _ _
  · split
    · exact kept_takeAt s _ _ _
    · exact kept_setCut s _

theorem kept_joinReasons (s : State) (a : Int) (r : Reasons) : Kept s (s.joinReasons a r) :=
  Kept.ite (Kept.refl s) (Kept.ite (kept_setCut s _) (kept_setCut s _))

theorem kept_mergeReasons (s : State) (b a : Int) (e : PlanEntry) : Kept s (s.mergeReasons b a e) := by
  unfold State.mergeReasons
  extract_lets inside src keep src2 movesOn plan t u v
  have h1 : Kept s t := (kept_setPlan s _).trans (kept_joinReasons _ a movesOn)
  have h2 : Kept t u := Kept.ite (kept_report t _) (Kept.refl t)
  have h3 : Kept u v := kept_setCut u _
  refine (h1.trans h2).trans ?_
  split
  · split
    · exact h3.trans (kept_joinSegments v _ _ _)
    · exact Kept.refl u
  · exact Kept.refl u

theorem kept_mergeEntry (s : State) (b a x : Int) : Kept s (s.mergeEntry b a x) := by
  unfold State.mergeEntry
  split
  · exact Kept.refl s
  · exact Kept.ite (kept_mergeReasons s _ _ _) (Kept.refl s)

theorem kept_mergeRequest (s : State) (b a : Int) (q : CutRequest) : Kept s (s.mergeRequest b a q) := by
  unfold State.mergeRequest
  extract_lets g
  have h : Kept s (s.request q.kind q.coordinate) := kept_request s _ _
  split
  · refine Kept.ite h ?_
    split
    · exact Kept.ite (Kept.refl s) h
    · exact Kept.ite (kept_placeAt s _ _ _) h
    · exact Kept.ite (kept_placeAt s _ _ _) h
    · exact Kept.ite (kept_joinSegments s _ _ _) h
    · exact h
  · exact h

theorem kept_finishClose (s : State) (b a : Int) : Kept s (s.finishClose b a) := by
  unfold State.finishClose
  extract_lets joining t inside u v held w
  clear_value inside held
  have h1 : Kept s t := kept_setCut s _
  have h2 : Kept t u := Kept.ite (kept_moveCount t a) (Kept.refl t)
  have h3 : Kept u v := kept_foldl (fun s x => kept_mergeEntry s b a x) _ u
  have h4 : Kept v w := kept_setCut v _
  exact (((h1.trans h2).trans h3).trans h4).trans
    (kept_foldl (fun s (q : CutRequest) => kept_mergeRequest s b a q) _ w)

theorem kept_placeWaiting (s : State) (q : CutRequest) : Kept s (s.placeWaiting q) := by
  unfold State.placeWaiting
  split
  · exact kept_setCut s _
  · extract_lets t
    have h : Kept s t := kept_takeAt s _ _ _
    refine h.trans ?_
    clear_value t
    split
    · split
      · exact Kept.ite (kept_finishClose t _ _) (Kept.refl t)
      · exact Kept.refl t
    · exact Kept.refl t

theorem kept_closeSegment (s : State) (g : Segment) (a : Int) : Kept s (s.closeSegment g a) := by
  unfold State.closeSegment
  extract_lets t
  exact (kept_placeAt s _ _ _).trans (Kept.ite (Kept.refl t) (kept_finishClose t _ _))

theorem kept_closeAtEntry (s : State) (x : Int) : Kept s (s.closeAtEntry x) := by
  unfold State.closeAtEntry
  split
  · exact Kept.refl s
  · exact (kept_setCut s _).trans (kept_finishClose _ _ _)

theorem kept_spliceKnown (s : State) (u : UnitRec) (f : Int) : Kept s (s.spliceKnown u f) := by
  unfold State.spliceKnown
  split
  · split
    · exact kept_request s _ _
    · exact Kept.refl s
  · exact Kept.refl s

theorem kept_placeTarget (s : State) : Kept s s.placeTarget := Kept.ite (Kept.refl s) (kept_placeAt s _ _ _)

theorem kept_countUnit (s : State) (k : Int) (u : UnitRec) (b lFin : Int) : Kept s (s.countUnit k u b lFin) := by
  unfold State.countUnit
  extract_lets t
  have h : Kept s t := Kept.ite (kept_moveCount s b) (Kept.refl s)
  refine h.trans (Kept.ite (Kept.refl t) ?_)
  exact (kept_setCut t _).trans (Kept.ite (kept_placeTarget _) (Kept.refl _))

theorem kept_countStep (s t : State) (h : s.countStep = some t) : Kept s t := by
  unfold State.countStep at h
  split at h
  · cases h
  · split at h
    · cases h
    · split at h
      · rename_i g _
        cases hg : g.stop with
        | none => rw [hg] at h; cases h
        | some a => rw [hg] at h; cases h; exact kept_moveCount s a
      · split at h
        · cases h
        · split at h
          · split at h
            · cases h; exact kept_countUnit s _ _ _ _
            · cases h
          · cases h




theorem kept_setShade (s : State) (f : ShadeUnit → ShadeUnit) : Kept s (s.setShade f) := kept_shade s _

/-- A write into the batch mirror. -/
theorem kept_mirrorStore (s : State) (b : Nat) (bs : List Byte) : Kept s (s.partStore (mirrorAddr b) bs) :=
  kept_partStore s _ bs

theorem kept_setBatch (s : State) (b : Nat) (f : BatchRec → BatchRec) : Kept s (s.setBatch b f) := by
  unfold State.setBatch
  split
  · exact Kept.refl s
  · exact (kept_setShade s _).trans (kept_mirrorStore _ _ _)

theorem kept_zeroMirror (s : State) : Kept s s.zeroMirror := kept_mirrorStore s _ _

theorem kept_decideUnit (s : State) (c : Int) (v : Verdict) (b : Nat) (counted : Bool) :
    Kept s (s.decideUnit c v b counted) := by
  unfold State.decideUnit
  split
  · exact Kept.refl s
  · extract_lets body d t
    have h : Kept s t := kept_setUnit s _ _ (by intro _; rfl)
    exact h.trans (Kept.ite (Kept.refl t) (kept_setBatch t _ _))

theorem kept_decideOut (s : State) (b : Nat) (c : Int) : Kept s (s.decideOut b c) := by
  unfold State.decideOut
  split
  · exact Kept.refl s
  · exact kept_decideUnit s _ _ _ _

theorem kept_decideRun (s : State) : Kept s s.decideRun := by
  unfold State.decideRun
  exact (kept_foldl (fun s c => kept_decideOut s _ c) _ _).trans (kept_setShade _ _)

theorem kept_closeBatch (s : State) : Kept s s.closeBatch := by
  unfold State.closeBatch
  split
  · exact Kept.refl s
  · exact ((kept_setBatch s _ _).trans (kept_setShade _ _)).trans (kept_latch _ _)

theorem kept_storeRef (s : State) (k : OrderKey) (b : Nat) (ref : Reading) : Kept s (s.storeRef k b ref) :=
  kept_rolls s _ ⟨rfl, rfl⟩

theorem kept_openNewBatch (s : State) (c : Int) (ref : Reading) : Kept s (s.openNewBatch c ref) := by
  unfold State.openNewBatch
  split
  · exact Kept.refl s
  · rename_i u _
    extract_lets t b run last r v w x y z
    have h1 : Kept s t := kept_closeBatch s
    have h2 : Kept t v := kept_setShade t _
    have h3 : Kept v w := kept_mirrorStore v _ _
    have h4 : Kept w x := kept_setUnit w _ _ (by intro _; rfl)
    have h5 : Kept x y := kept_foldl (fun s d => by
      cases s.unit? d with
      | none => exact Kept.refl s
      | some q => exact kept_decideUnit s _ _ _ _) run x
    have h6 : Kept y z := by
      dsimp only [z]
      split
      · exact kept_storeRef y _ _ _
      · exact Kept.refl y
    exact ((((((h1.trans h2).trans h3).trans h4).trans h5).trans h6).trans (kept_request z _ _)).trans (kept_latch _ _)

theorem kept_tableFullRun (s : State) : Kept s s.tableFullRun := by
  unfold State.tableFullRun
  extract_lets run t raised u
  have h1 : Kept s t := kept_foldl (fun s c => kept_decideOut s _ c) _ _
  have h2 : Kept t u := kept_setShade t _
  exact (h1.trans h2).trans (Kept.ite (Kept.refl u) (kept_raise u _ _))

theorem kept_shedRun (s : State) : Kept s s.shedRun := by
  unfold State.shedRun
  exact (kept_foldl (fun s c => kept_decideOut s _ c) _ _).trans (kept_setShade _ _)

theorem kept_testRun (s : State) (body : OrderBody) : Kept s (s.testRun body) := by
  unfold State.testRun
  refine Kept.ite (Kept.ite (Kept.ite (kept_tableFullRun s) ?_) (kept_shedRun s)) (Kept.refl s)
  split
  · exact kept_openNewBatch s _ _
  · exact Kept.refl s

theorem kept_changeClassifying (s : State) (k : OrderKey) : Kept s (s.changeClassifying k) := by
  unfold State.changeClassifying
  exact ((((kept_decideRun s).trans (kept_closeBatch _)).trans (kept_setShade _ _)).trans (kept_zeroMirror _)).trans
    (kept_latch _ _)

theorem kept_writeReading (s : State) (c : Int) (body : OrderBody) (r : Reading) :
    Kept s (s.writeReading c body r) := by
  unfold State.writeReading
  exact kept_setUnit s _ _ (by intro _; rfl)

theorem kept_joinRun (s : State) (c : Int) (body : OrderBody) : Kept s (s.joinRun c body) := by
  unfold State.joinRun
  extract_lets t
  have h : Kept s t := kept_setUnit s _ _ (by intro _; rfl)
  exact (h.trans (kept_setShade t _)).trans (kept_testRun _ _)

theorem kept_classifyRunning (s : State) (c : Int) (body : OrderBody) (result : Option Reading) :
    Kept s (s.classifyRunning c body result) := by
  unfold State.classifyRunning
  split
  · split
    · exact Kept.ite ((kept_decideRun s).trans (kept_decideUnit _ _ _ _ _)) (kept_joinRun s _ _)
    · exact kept_joinRun s _ _
  · exact Kept.ite (kept_decideUnit s _ _ _ _)
      ((kept_setUnit s _ _ (by intro _; rfl)).trans (kept_setShade _ _))

theorem kept_classify (s : State) (c : Int) (result : Option Reading) : Kept s (s.classify c result) := by
  unfold State.classify
  split
  · exact Kept.refl s
  · extract_lets body t k u
    have h1 : Kept s t := by
      dsimp only [t]
      split
      · exact kept_writeReading s _ _ _
      · exact Kept.refl s
    have h2 : Kept t u := Kept.ite (Kept.refl t) (kept_changeClassifying t k)
    exact (h1.trans h2).trans (Kept.ite (kept_decideUnit u _ _ _ _) (kept_classifyRunning u _ _ _))

theorem kept_shadeOrderDone (s : State) (k : OrderKey) : Kept s (s.shadeOrderDone k) :=
  Kept.ite ((kept_decideRun s).trans (kept_closeBatch _)) (Kept.refl s)

theorem kept_countRoll (s : State) (k : OrderKey) (b : Nat) (waste : Bool) : Kept s (s.countRoll k b waste) :=
  Kept.ite (kept_setBatch s _ _) (Kept.refl s)

theorem kept_shadeActivated (s : State) : Kept s s.shadeActivated := kept_setShade s _

theorem kept_drainRequests (s : State) (n : Nat) : Kept s (s.drainRequests n) := by
  induction n generalizing s with
  | zero => exact Kept.refl s
  | succ n ih =>
    unfold State.drainRequests
    split
    · exact Kept.refl s
    · exact Kept.ite (((kept_setShade s _).trans (kept_classify _ _ _)).trans (ih _)) (Kept.refl s)

theorem kept_endRequests (s : State) (p : Request → Bool) : Kept s (s.endRequests p) := kept_setShade s _

theorem kept_classifyDone (s : State) : Kept s s.classifyDone := kept_drainRequests s 9

theorem kept_appendRequest (s : State) (q : Request) : Kept s (s.appendRequest q) := by
  unfold State.appendRequest
  exact (Kept.ite ((kept_setShade s _).trans (kept_classifyDone _)) (Kept.refl s)).trans (kept_setShade _ _)

theorem kept_shadeRequest (s : State) (u : UnitRec) : Kept s (s.shadeRequest u) := by
  unfold State.shadeRequest
  extract_lets t tag absent v
  have h : Kept s t := kept_setUnit s _ _ (by intro _; rfl)
  have h2 : Kept t v := (kept_appendRequest t _).trans (kept_endRequests _ _)
  exact h.trans (Kept.ite (Kept.refl t) (Kept.ite ((kept_appendRequest t _).trans (kept_classifyDone _))
    ((h2.trans (kept_hand v _ _)).trans (kept_classifyDone _))))

theorem kept_measureSent (s : State) (unit : Int) : Kept s (s.measureSent unit) := by
  unfold State.measureSent
  exact kept_setShade s _

theorem kept_headReported (s : State) (cal : Bool) (reading : Option (Nat × Reading)) :
    Kept s (s.headReported cal reading) := by
  unfold State.headReported
  extract_lets t
  have h : Kept s t := by
    dsimp only [t]
    split
    · exact kept_setShade s _
    · exact Kept.refl s
  exact (h.trans (kept_setShade t _)).trans (kept_classifyDone _)

theorem kept_countCycles (s : State) : Kept s s.countCycles := (kept_setShade s _).trans (kept_classifyDone _)

theorem kept_dropRequests (s : State) : Kept s s.dropRequests := by
  unfold State.dropRequests
  extract_lets t
  have h : Kept s t := by
    dsimp only [t]
    split
    · exact kept_setNode s _ _
    · exact Kept.refl s
  exact (h.trans (kept_endRequests t _)).trans (kept_classifyDone _)

theorem kept_shadeRestarted (s : State) : Kept s s.shadeRestarted := (kept_setShade s _).trans (kept_dropRequests _)

theorem kept_calibrateLost (s : State) (again : Bool) : Kept s (s.calibrateLost again) :=
  Kept.ite (Kept.refl s) (kept_setShade s _)

theorem kept_sendCalibrate (s : State) : Kept s s.sendCalibrate := by
  unfold State.sendCalibrate
  extract_lets again t
  have h : Kept s t := kept_setShade s _
  refine Kept.ite (h.trans ?_) (Kept.refl s)
  clear_value t
  grind [kept_hand, kept_calibrateLost, Kept.trans]

theorem kept_shadeCutDone (s : State) : Kept s s.shadeCutDone := by
  unfold State.shadeCutDone
  split
  · exact Kept.refl s
  · exact Kept.ite (Kept.refl s)
      (Kept.ite ((kept_setShade s _).trans (kept_sendCalibrate _)) (kept_setShade s _))

theorem kept_horizonReached (s : State) (u : UnitRec) : Kept s (s.horizonReached u) := by
  unfold State.horizonReached
  extract_lets t v
  have h : Kept s t := kept_setUnit s _ _ (by intro _; rfl)
  have h2 : Kept t v := kept_raise t _ _
  exact Kept.ite (Kept.ite ((kept_raise s _ _).trans (kept_decideRun _)) (Kept.refl s))
    (Kept.ite h ((h.trans h2).trans (Kept.ite ((kept_endRequests v _).trans (kept_classifyDone _))
      ((kept_setUnit v _ _ (by intro _; rfl)).trans (kept_classify _ _ _)))))




theorem kept_overlengthTest (s : State) : Kept s s.overlengthTest := by
  unfold State.overlengthTest
  split
  · split
    · exact Kept.ite (kept_raise s _ _) (Kept.refl s)
    · exact Kept.refl s
  · exact Kept.refl s

theorem kept_cutLeft (s : State) : Kept s s.cutLeft := kept_setWinder s _

theorem kept_giveUpCut (s : State) : Kept s s.giveUpCut := by
  unfold State.giveUpCut
  split
  · exact Kept.refl s
  · exact ((kept_raise s _ _).trans (kept_cutLeft _)).trans (kept_setCut _ _)

theorem kept_cutInLost (s : State) (serial fuel : Nat) : Kept s (s.cutInLost serial fuel) := by
  induction fuel generalizing s with
  | zero => exact Kept.refl s
  | succ fuel ih =>
    unfold State.cutInLost
    split
    · exact Kept.refl s
    · extract_lets rem t
      have h : Kept s t := kept_setWinder s _
      refine Kept.ite (Kept.refl s) (Kept.ite (kept_giveUpCut s) (Kept.ite (h.trans ?_) (kept_giveUpCut s)))
      have h2 := kept_hand t .winder (.cutIn rem serial)
      split
      · rename_i heq; rw [heq] at h2; exact h2
      · rename_i heq; rw [heq] at h2; exact h2.trans (ih _)

theorem kept_commitCut (s : State) (e : PlanEntry) (rem : Int) : Kept s (s.commitCut e rem) := by
  unfold State.commitCut
  extract_lets t u v serial c w
  have h1 : Kept s t := kept_setPlan s _
  have h2 : Kept t u := kept_setCut t _
  have h3 : Kept u v := Kept.ite (kept_moveCount u _) (Kept.refl u)
  have h4 : Kept v w := kept_setWinder v _
  refine (((h1.trans h2).trans h3).trans h4).trans ?_
  have h5 := kept_hand w .winder (.cutIn rem serial)
  split
  · rename_i heq; rw [heq] at h5; exact h5
  · rename_i heq; rw [heq] at h5; exact h5.trans (kept_cutInLost _ _ _)

theorem kept_deferEntry (s : State) (e : PlanEntry) (y : Int) : Kept s (s.deferEntry e y) := by
  unfold State.deferEntry
  extract_lets plan t u
  have h1 : Kept s t := Kept.ite (kept_stripFor s y) (Kept.refl s)
  have h2 : Kept t u := (kept_setPlan t _).trans (kept_entryMoved _ _ _ _)
  exact (h1.trans h2).trans (Kept.ite (kept_countFrom u y) (Kept.refl u))

theorem kept_deferEarliest (s : State) : Kept s s.deferEarliest := by
  unfold State.deferEarliest
  split
  · exact Kept.refl s
  · split
    · exact (kept_deferEntry s _ _).trans (kept_setWinder _ _)
    · exact kept_setWinder s _

theorem kept_stall (s : State) (b : Blocked) : Kept s (s.stall b) := by
  unfold State.stall
  extract_lets entering t u
  have h1 : Kept s t := kept_setWinder s _
  have h2 : Kept t u := Kept.ite (kept_raise t _ _) (Kept.refl t)
  exact (h1.trans h2).trans (Kept.ite (kept_overlengthTest u) (Kept.refl u))

theorem kept_decideEntry (s : State) : Kept s s.decideEntry := by
  unfold State.decideEntry
  split
  · exact Kept.refl s
  · extract_lets t
    have h : Kept s t := kept_closeAtEntry s _
    refine h.trans ?_
    clear_value t
    split
    · exact Kept.refl t
    · exact Kept.ite (Kept.ite (kept_commitCut t _ _) (kept_deferEarliest t)) (kept_stall t _)

theorem kept_unstall (s : State) : Kept s s.unstall := Kept.ite (Kept.refl s) (kept_setWinder s _)

theorem kept_reassess (s : State) : Kept s s.reassess := by
  unfold State.reassess
  refine Kept.ite (Kept.refl s) ?_
  split
  · exact kept_unstall s
  · extract_lets t
    have h : Kept s t := kept_unstall s
    exact Kept.ite (h.trans (Kept.ite (kept_decideEntry t) (Kept.refl t))) (kept_stall s _)

theorem kept_armLead (s : State) : Kept s s.armLead.1 := by
  unfold State.armLead
  split
  · exact kept_winder s _
  · extract_lets armed t due
    split
    · exact Kept.refl s
    · exact kept_winder s _




theorem kept_printTrimLost (s : State) (st : Nat) : Kept s (s.printTrimLost st) := kept_setLoop s _ _

theorem kept_correctStation (s : State) (st : Nat) : Kept s (s.correctStation st) := by
  unfold State.correctStation
  grind [kept_hand, kept_setLoop, kept_printTrimLost, Kept.trans, Kept.refl]

theorem kept_stationMisses (s : State) (st : Nat) : Kept s (s.stationMisses st) := by
  unfold State.stationMisses
  grind [kept_setLoop, kept_raise, Kept.trans, Kept.refl]

theorem kept_stationValid (s : State) (st : Nat) (e : Int) : Kept s (s.stationValid st e) := by
  unfold State.stationValid
  grind [kept_setLoop, kept_clear, kept_correctStation, Kept.trans, Kept.refl]

theorem kept_startLoop (s : State) (st : Nat) : Kept s (s.startLoop st) :=
  ((kept_setLoop s _ _).trans (kept_clear _ _ _)).trans (kept_clear _ _ _)

theorem kept_loopOff (s : State) (st : Nat) : Kept s (s.loopOff st) :=
  ((kept_setLoop s _ _).trans (kept_clear _ _ _)).trans (kept_clear _ _ _)

theorem kept_startLoops (s : State) (n : Nat) : Kept s (s.startLoops n) :=
  kept_foldl (fun s _ => Kept.ite (kept_startLoop s _) (kept_loopOff s _)) _ _

theorem kept_takingChanged (s : State) (old new : Option OrderBody) : Kept s (s.takingChanged old new) := by
  unfold State.takingChanged
  extract_lets kept geom src t u
  clear_value kept geom
  have h1 : Kept s t := kept_reg s _
  have h2 : Kept t u := by
    dsimp only [u]
    split
    · exact Kept.refl t
    · have hx (x : RegisterUnit) (k : Nat) :
          Kept t (State.clear { t with freeIdx := t.freeIdx + k, reg := x } referenceLost 0) :=
        ((kept_freeIdx t (t.freeIdx + k)).trans (kept_reg _ x)).trans (kept_clear _ _ _)
      split <;> exact hx _ _
  exact (h1.trans h2).trans (kept_startLoops _ _)

theorem kept_printRestarted (s : State) (st : Nat) : Kept s (s.printRestarted st) := kept_setLoop s _ _

theorem kept_openZone (s : State) (p : Int) : Kept s (s.openZone p) :=
  (kept_reg s _).trans (kept_loopsSettle _)




/-- A write into an order slot. -/
theorem kept_orderStore (s : State) (n k : Nat) (bs : List Byte) : Kept s (s.partStore (orderSlotAddr n + k) bs) :=
  kept_partStore s _ bs

theorem kept_nextSerial (s : State) (x : Nat) : Kept s { s with ord := { s.ord with nextSerial := x } } :=
  kept_ord s _

theorem kept_setActive (s : State) (x : Option Nat) : Kept s { s with ord := { s.ord with active := x } } :=
  kept_ord s _

theorem kept_setHold (s : State) (x : Bool) : Kept s { s with ord := { s.ord with hold := x } } :=
  kept_ord s _

theorem kept_setWaste (s : State) (x : Bool) : Kept s { s with ord := { s.ord with waste := x } } :=
  kept_ord s _

theorem kept_writeOrderState (s : State) (n : Nat) : Kept s (s.writeOrderState n) :=
  ((kept_orderStore s n _ _).trans (kept_tagWritten _)).trans (kept_latch _ _)

theorem kept_writeOrderCounts (s : State) (n : Nat) : Kept s (s.writeOrderCounts n) := kept_orderStore s n _ _

theorem kept_setOrderState (s : State) (n : Nat) (st : OrderState) : Kept s (s.setOrderState n st) := by
  unfold State.setOrderState
  exact (kept_keepBody s _ _).trans (kept_writeOrderState _ _)

theorem kept_lastNominal (s : State) (x : Int) : Kept s { s with track := { s.track with lastNominal := x } } :=
  kept_splices s _ x

theorem kept_activate (s : State) (n : Nat) : Kept s (s.activate n) := by
  unfold State.activate
  extract_lets old t u b src src2 v w
  have h1 : Kept s t := kept_keepBody s _ _
  have h2 : Kept t u := (kept_writeOrderCounts t n).trans (kept_setOrderState _ _ _)
  have h3 : Kept u v := (kept_setActive u (some n)).trans (kept_lastNominal _ b.nominal)
  have h4 : Kept v w := kept_takingChanged v _ _
  exact ((((h1.trans h2).trans h3).trans h4).trans (kept_embossActivated w b)).trans
    ((kept_drawActivated _).trans (kept_shadeActivated _))

theorem kept_testActivation (s : State) : Kept s s.testActivation := by
  unfold State.testActivation
  split
  · split
    · exact kept_activate s _
    · exact Kept.refl s
  · exact Kept.refl s

theorem kept_becomeStopped (s : State) (n : Nat) : Kept s (s.becomeStopped n) := by
  unfold State.becomeStopped
  extract_lets e phase beyond src t u src2
  have h1 : Kept s t := kept_units s _ (by
    rw [List.map_map]
    apply List.map_congr_left
    intro v _
    simp only [Function.comp]
    split <;> rfl)
  have h2 : Kept t u := kept_keepBody t _ _
  exact (h1.trans h2).trans (kept_setWaste u true)

theorem kept_countReassigned (s : State) (m : Nat) (moved : List UnitRec) : Kept s (s.countReassigned m moved) :=
  kept_setCut s _

theorem kept_flyAt (s : State) (n m : Nat) (u : UnitRec) (e' : Int) : Kept s (s.flyAt n m u e') := by
  unfold State.flyAt
  extract_lets moved second e t v src w x src2 y
  have h1 : Kept s t := kept_keepBody s _ _
  have h2 : Kept t v := kept_activate t m
  have h3 : Kept v w := kept_units v _ (reassign_core _ _ _ _ _)
  have h4 : Kept w x := kept_keepBody w _ _
  have h5 : Kept x y := (kept_setWaste x false).trans (kept_countReassigned _ m moved)
  exact ((((h1.trans h2).trans h3).trans h4).trans h5).trans (Kept.ite (kept_request y _ _) (Kept.refl y))

theorem kept_tryFly (s : State) (n : Nat) : Kept s (s.tryFly n) := by
  unfold State.tryFly
  refine Kept.ite (Kept.refl s) ?_
  split
  · exact Kept.refl s
  · dsimp only
    split
    · exact Kept.refl s
    · split
      · exact kept_flyAt s _ _ _ _
      · exact kept_becomeStopped s _

theorem kept_fixEnd (s : State) (n : Nat) (x : Int) : Kept s (s.fixEnd n x) := by
  unfold State.fixEnd
  extract_lets t u
  have h1 : Kept s t := kept_keepBody s _ _
  have h2 : Kept t u := kept_orderStore t n _ _
  refine (h1.trans h2).trans ?_
  clear_value u
  split
  · exact (kept_keepBody u _ _).trans (kept_tryFly _ _)
  · exact kept_becomeStopped u _

theorem kept_finishOrder (s : State) (n reason : Nat) : Kept s (s.finishOrder n reason) := by
  unfold State.finishOrder
  extract_lets wasActive stopped k old t u v w src x y
  have h1 : Kept s t := kept_keepBody s _ _
  have h2 : Kept t u := (kept_writeOrderCounts t n).trans (kept_orderStore _ n _ _)
  have h3 : Kept u v := kept_setOrderState u n _
  have h4 : Kept v w := kept_shadeOrderDone v k
  have h5 : Kept w x := kept_setActive w none
  have h6 : Kept x y := ((kept_takingChanged x old none).trans (kept_embossOrderEnded _)).trans (kept_followDrawLimit _)
  exact (((h1.trans h2).trans h3).trans h4).trans (Kept.ite ((h5.trans h6).trans
    (Kept.ite (((kept_setHold y true).trans (kept_enterStopped _)).trans (kept_settle _)) (Kept.refl y)))
    (Kept.refl w))

theorem kept_endOrders (s : State) (x : Int) : Kept s (s.endOrders x) := by
  unfold State.endOrders
  refine (kept_foldl (fun s n => ?_) _ s).trans (kept_testActivation _)
  split
  · exact Kept.ite (kept_finishOrder s n _) (Kept.refl s)
  · exact Kept.refl s

theorem kept_testRollCount (s : State) (x : Int) : Kept s (s.testRollCount x) := by
  unfold State.testRollCount
  split
  · exact Kept.refl s
  · extract_lets b
    split
    · exact Kept.ite ((kept_setOrderState s _ _).trans (kept_request _ _ _)) (Kept.refl s)
    · exact Kept.refl s

theorem kept_takeReport (s : State) (r : PlanReport) : Kept s (s.takeReport r) := by
  unfold State.takeReport
  split
  · exact kept_testRollCount s _
  · extract_lets t u
    have h1 : Kept s t := kept_keepBody s _ _
    have h2 : Kept t u := Kept.ite (kept_fixEnd t _ _) (Kept.refl t)
    exact (h1.trans h2).trans (Kept.ite (kept_endOrders u _) (Kept.refl u))
  · exact kept_mapOrders s _

theorem kept_requestEnd (s : State) (n : Nat) : Kept s (s.requestEnd n) := by
  unfold State.requestEnd
  split <;> exact kept_request s _ _

theorem kept_orderSpanKnown (s : State) (n : Nat) (x : Int) : Kept s (s.orderSpanKnown n x) := by
  unfold State.orderSpanKnown
  extract_lets o t src u
  have h1 : Kept s t := kept_keepBody s _ _
  have h2 : Kept s u := kept_keepBody s _ _
  exact Kept.ite (h1.trans (Kept.ite ((kept_setWaste t false).trans (kept_request _ _ _)) (Kept.refl t)))
    (Kept.ite (h2.trans (Kept.ite ((kept_keepBody u _ _).trans (kept_requestEnd _ _))
      (Kept.refl u))) (Kept.refl s))

theorem kept_reportStep (s t : State) (h : s.reportStep = some t) : Kept s t := by
  unfold State.reportStep at h
  split at h
  · cases h
  · cases h; exact (kept_setCut s _).trans (kept_takeReport _ _)

theorem kept_segmentStep (s t : State) (h : s.segmentStep = some t) : Kept s t := by
  unfold State.segmentStep at h
  split at h
  · cases h
  · obtain ⟨g, _, hg⟩ := List.exists_of_findSome?_eq_some h
    obtain ⟨a, _, rfl⟩ := Option.map_eq_some_iff.mp hg
    exact kept_closeSegment s g a

theorem kept_heldStep (s t : State) (h : s.heldStep = some t) : Kept s t := by
  unfold State.heldStep at h
  split at h
  · cases h
  · split at h
    · cases h
    · cases h; exact (kept_setCut s _).trans (kept_request _ _ _)

theorem kept_fullStep (s t : State) (h : s.fullStep = some t) : Kept s t := by
  unfold State.fullStep at h
  split at h
  · cases h
  · split at h
    · cases h
    · cases h; exact (kept_setCut s _).trans (kept_placeWaiting _ _)

theorem kept_awaitStep (s t : State) (h : s.awaitStep = some t) : Kept s t := by
  unfold State.awaitStep at h
  split at h
  · rename_i q rest x _ _
    have h1 (f : Planner → Planner) : Kept s (s.setCut f) := kept_setCut s f
    dsimp only at h
    split at h <;> cases h
    · exact (h1 _).trans (kept_placeMissed _ _ _ _)
    · exact (h1 _).trans (kept_placeWaiting _ _)
  · cases h

theorem kept_deferStep (s t : State) (h : s.deferStep = some t) : Kept s t := by
  unfold State.deferStep at h
  split at h
  · cases h
  · split at h
    · cases h; exact kept_deferEarliest s
    · cases h

theorem kept_leadStep (s t : State) (h : s.leadStep = some t) : Kept s t := by
  unfold State.leadStep at h
  dsimp only at h
  have h0 : Kept s (if s.leadEntryLeft then s.unstall else s) := Kept.ite (kept_unstall s) (Kept.refl s)
  have h1 := h0.trans (kept_armLead _)
  split at h
  · cases h
  · split at h
    · rename_i heq; rw [heq] at h1; cases h
      exact h1.trans (Kept.ite (kept_reassess _) (Kept.refl _))
    · rename_i heq; rw [heq] at h1; cases h
      exact (h1.trans (kept_decideEntry _)).trans (Kept.ite (kept_deferEarliest _) (Kept.refl _))

theorem kept_planStep (s t : State) (h : s.planStep = some t) : Kept s t := by
  unfold State.planStep at h
  simp only [Option.orElse_eq_some] at h
  rcases h with h | ⟨_, h | ⟨_, h | ⟨_, h | ⟨_, h | ⟨_, h | ⟨_, h | ⟨_, h⟩⟩⟩⟩⟩⟩⟩
  · exact kept_reportStep s t h
  · exact kept_segmentStep s t h
  · exact kept_heldStep s t h
  · exact kept_fullStep s t h
  · exact kept_awaitStep s t h
  · exact kept_countStep s t h
  · exact kept_deferStep s t h
  · exact kept_leadStep s t h

theorem kept_planLoop (s : State) (n : Nat) : Kept s (s.planLoop n) := by
  induction n generalizing s with
  | zero => exact Kept.refl s
  | succ n ih =>
    unfold State.planLoop
    split
    · rename_i t h
      exact (kept_planStep s t h).trans (ih t)
    · exact Kept.refl s

theorem kept_discardCopies (s : State) : Kept s s.discardCopies :=
  kept_foldl (fun s n => Kept.ite (kept_setOrder s n _) (Kept.refl s)) _ s

theorem kept_settlePlan (s : State) : Kept s s.settlePlan := (kept_planLoop s 4096).trans (kept_discardCopies _)

/-- A write into a roll slot. -/
theorem kept_rollStore (s : State) (n k : Nat) (bs : List Byte) : Kept s (s.partStore (rollSlotAddr n + k) bs) :=
  kept_partStore s _ bs

theorem kept_sampleStrain (s : State) (a b : Int) : Kept s (s.sampleStrain a b) := kept_emb s _

/-- A change of the splice list. -/
theorem kept_setSplices (s : State) (x : List SpliceRec) : Kept s { s with track := { s.track with splices := x } } :=
  kept_splices s x _

theorem kept_spliceCoordinates (s : State) (u : UnitRec) (g lFin lRh : Int) :
    Kept s (s.spliceCoordinates u g lFin lRh) := by
  unfold State.spliceCoordinates
  refine kept_foldl (fun s e => ?_) _ s
  extract_lets f leave src t
  exact ((kept_setSplices s _).trans (kept_openGuard t _ _)).trans (kept_spliceKnown _ _ _)

theorem kept_orderHears (s : State) (slot : Nat) (start : Int) : Kept s (s.orderHears slot start) := by
  unfold State.orderHears
  extract_lets t
  refine (kept_orderSpanKnown s slot start).trans ?_
  split
  · exact kept_tryFly _ _
  · exact Kept.refl _

theorem kept_overdueChecks (s : State) (c : Int) : Kept s (s.overdueChecks c) := by
  unfold State.overdueChecks
  split
  · exact Kept.refl s
  · exact (Kept.ite (kept_checkNip s c) (Kept.refl s)).trans (Kept.ite (kept_horizonReached _ _) (Kept.refl _))


end Sys2Proof.Machine
end

