-- ==== Sys2Proof/WellFormed.lean ====
section
/-! DEFINITION. Which commands the outside world can give: the checks on operands alone. A meaning does not rest on them
(it is total on every operand); they say what a sender that follows the spec sends. -/

namespace Sys2Proof

/-- A PE coordinate is a 48-bit unsigned number (00_scope 5.1). -/
def coordinateOk (x : Int) : Bool := decide (0 ≤ x) && decide (x < 2 ^ 48)

/-- A message body of the label line has at most 302 bytes (6.2.1); a longer one is a LABEL_FRAME_ERROR (R115). -/
def bodyOk (body : List Byte) : Bool := decide (body.length ≤ 302)

/-- A frame carries a slot for each position 1…n (R139), and n is a hop count, which the header holds in one byte (8.1.1). -/
def slotsOk (slots : List Slot) : Bool := decide (slots.length ≤ 255)

/-- The operand checks of each command. -/
def Instr.wellFormed : Instr → Bool
  | .embossWindowExpiry u => coordinateOk u
  | .spliceEntryLeaves p => coordinateOk p
  | .spliceZoneStart p => coordinateOk p
  | .spliceZoneEnd p => coordinateOk p
  | .spliceGuardStart p => coordinateOk p
  | .spliceGuardEnd p => coordinateOk p
  | .nipCheck u => coordinateOk u
  | .shadeEvent u => coordinateOk u
  | .shadeHorizon u => coordinateOk u
  | .frameReturn _ slots => slotsOk slots
  | .labelStatus body => bodyOk body
  | .labelAck body => bodyOk body
  | .labelNak body => bodyOk body
  | .powerOn => true
  | .resetPin => true
  | .encoderTransition _ _ => true
  | .speedMeasurement => true
  | .markEdge => true
  | .spliceEdge => true
  | .emarkEdge => true
  | .eindexEdge => true
  | .blockClose => true
  | .referenceWindowExpiry => true
  | .unitLeavesTrack => true
  | .leadPoint => true
  | .leadPointPassed => true
  | .cutMissedThreshold => true
  | .rollHandover => true
  | .linkCycle => true
  | .frameReturnBad => true
  | .driveTimerExpiry => true
  | .labelFrameError _ => true
  | .labelGapTimeout => true
  | .labelJobSent => true
  | .labelReplyTimeout => true
  | .labelWaitTimeout => true
  | .exchangeWrite _ _ => true
  | .noticeWrite _ => true
  | .routeWrite _ => true
  | .registerWrite _ _ => true
  | .attention => true
  | .freeze => true
  | .thaw => true
  | .resume => true
  | .enterConfig => true
  | .leaveConfig => true
  | .lineReset => true
  | .sweepTimer => true
  | .sweepEnd => true
  | .refreshTick => true
  | .refreshEnd => true
  | .lineStopToggle => true

end Sys2Proof
end

