-- ==== Sys2Proof/Laws/PerInstr.lean ====
section
/-! SUPPORT. The family `Operands`, made per command: the well-formedness check of a command is exactly what the spec says of
its operands. A coordinate is a 48-bit unsigned number (00_scope 5.1), a message body has at most 302 bytes (6.2.1, R115),
and a frame carries at most 255 slots (R139, a hop count of one byte); a command without such an operand is always well formed. -/

namespace Sys2Proof.Laws

/-- The PE coordinate that names the unit or the splice entry of a position event. -/
def coordinateOperand : Instr → Option Int
  | .powerOn => none
  | .resetPin => none
  | .encoderTransition _ _ => none
  | .speedMeasurement => none
  | .markEdge => none
  | .spliceEdge => none
  | .emarkEdge => none
  | .eindexEdge => none
  | .blockClose => none
  | .referenceWindowExpiry => none
  | .embossWindowExpiry unit => some unit
  | .unitLeavesTrack => none
  | .spliceEntryLeaves entry => some entry
  | .spliceZoneStart entry => some entry
  | .spliceZoneEnd entry => some entry
  | .spliceGuardStart entry => some entry
  | .spliceGuardEnd entry => some entry
  | .nipCheck unit => some unit
  | .shadeEvent unit => some unit
  | .shadeHorizon unit => some unit
  | .leadPoint => none
  | .leadPointPassed => none
  | .cutMissedThreshold => none
  | .rollHandover => none
  | .linkCycle => none
  | .frameReturn _ _ => none
  | .frameReturnBad => none
  | .driveTimerExpiry => none
  | .labelStatus _ => none
  | .labelAck _ => none
  | .labelNak _ => none
  | .labelFrameError _ => none
  | .labelGapTimeout => none
  | .labelJobSent => none
  | .labelReplyTimeout => none
  | .labelWaitTimeout => none
  | .exchangeWrite _ _ => none
  | .noticeWrite _ => none
  | .routeWrite _ => none
  | .registerWrite _ _ => none
  | .attention => none
  | .freeze => none
  | .thaw => none
  | .resume => none
  | .enterConfig => none
  | .leaveConfig => none
  | .lineReset => none
  | .sweepTimer => none
  | .sweepEnd => none
  | .refreshTick => none
  | .refreshEnd => none
  | .lineStopToggle => none

/-- The body of a label-line message. -/
def bodyOperand : Instr → Option (List Byte)
  | .powerOn => none
  | .resetPin => none
  | .encoderTransition _ _ => none
  | .speedMeasurement => none
  | .markEdge => none
  | .spliceEdge => none
  | .emarkEdge => none
  | .eindexEdge => none
  | .blockClose => none
  | .referenceWindowExpiry => none
  | .embossWindowExpiry _ => none
  | .unitLeavesTrack => none
  | .spliceEntryLeaves _ => none
  | .spliceZoneStart _ => none
  | .spliceZoneEnd _ => none
  | .spliceGuardStart _ => none
  | .spliceGuardEnd _ => none
  | .nipCheck _ => none
  | .shadeEvent _ => none
  | .shadeHorizon _ => none
  | .leadPoint => none
  | .leadPointPassed => none
  | .cutMissedThreshold => none
  | .rollHandover => none
  | .linkCycle => none
  | .frameReturn _ _ => none
  | .frameReturnBad => none
  | .driveTimerExpiry => none
  | .labelStatus body => some body
  | .labelAck body => some body
  | .labelNak body => some body
  | .labelFrameError _ => none
  | .labelGapTimeout => none
  | .labelJobSent => none
  | .labelReplyTimeout => none
  | .labelWaitTimeout => none
  | .exchangeWrite _ _ => none
  | .noticeWrite _ => none
  | .routeWrite _ => none
  | .registerWrite _ _ => none
  | .attention => none
  | .freeze => none
  | .thaw => none
  | .resume => none
  | .enterConfig => none
  | .leaveConfig => none
  | .lineReset => none
  | .sweepTimer => none
  | .sweepEnd => none
  | .refreshTick => none
  | .refreshEnd => none
  | .lineStopToggle => none

/-- The slots of a returned frame. -/
def slotsOperand : Instr → Option (List Slot)
  | .powerOn => none
  | .resetPin => none
  | .encoderTransition _ _ => none
  | .speedMeasurement => none
  | .markEdge => none
  | .spliceEdge => none
  | .emarkEdge => none
  | .eindexEdge => none
  | .blockClose => none
  | .referenceWindowExpiry => none
  | .embossWindowExpiry _ => none
  | .unitLeavesTrack => none
  | .spliceEntryLeaves _ => none
  | .spliceZoneStart _ => none
  | .spliceZoneEnd _ => none
  | .spliceGuardStart _ => none
  | .spliceGuardEnd _ => none
  | .nipCheck _ => none
  | .shadeEvent _ => none
  | .shadeHorizon _ => none
  | .leadPoint => none
  | .leadPointPassed => none
  | .cutMissedThreshold => none
  | .rollHandover => none
  | .linkCycle => none
  | .frameReturn _ slots => some slots
  | .frameReturnBad => none
  | .driveTimerExpiry => none
  | .labelStatus _ => none
  | .labelAck _ => none
  | .labelNak _ => none
  | .labelFrameError _ => none
  | .labelGapTimeout => none
  | .labelJobSent => none
  | .labelReplyTimeout => none
  | .labelWaitTimeout => none
  | .exchangeWrite _ _ => none
  | .noticeWrite _ => none
  | .routeWrite _ => none
  | .registerWrite _ _ => none
  | .attention => none
  | .freeze => none
  | .thaw => none
  | .resume => none
  | .enterConfig => none
  | .leaveConfig => none
  | .lineReset => none
  | .sweepTimer => none
  | .sweepEnd => none
  | .refreshTick => none
  | .refreshEnd => none
  | .lineStopToggle => none

/-- The check of a command holds exactly when its operands lie in the spec's ranges. -/
def Operands.Statement (i : Instr) : Prop :=
  i.wellFormed = true ↔
    (∀ x, coordinateOperand i = some x → 0 ≤ x ∧ x < 2 ^ 48) ∧ (∀ b, bodyOperand i = some b → b.length ≤ 302)
      ∧ (∀ l, slotsOperand i = some l → l.length ≤ 255)

/-- A command without an operand that has a range. -/
theorem Operands.plain {i : Instr} (h : i.wellFormed = true) (h1 : coordinateOperand i = none) (h2 : bodyOperand i = none)
    (h3 : slotsOperand i = none) : Operands.Statement i := by
  unfold Operands.Statement
  rw [h, h1, h2, h3]
  simp

theorem Operands.powerOn : Operands.Statement .powerOn := Operands.plain rfl rfl rfl rfl

theorem Operands.resetPin : Operands.Statement .resetPin := Operands.plain rfl rfl rfl rfl

theorem Operands.encoderTransition (enc : Encoder) (sense : Sense) : Operands.Statement (.encoderTransition enc sense) := Operands.plain rfl rfl rfl rfl

theorem Operands.speedMeasurement : Operands.Statement .speedMeasurement := Operands.plain rfl rfl rfl rfl

theorem Operands.markEdge : Operands.Statement .markEdge := Operands.plain rfl rfl rfl rfl

theorem Operands.spliceEdge : Operands.Statement .spliceEdge := Operands.plain rfl rfl rfl rfl

theorem Operands.emarkEdge : Operands.Statement .emarkEdge := Operands.plain rfl rfl rfl rfl

theorem Operands.eindexEdge : Operands.Statement .eindexEdge := Operands.plain rfl rfl rfl rfl

theorem Operands.blockClose : Operands.Statement .blockClose := Operands.plain rfl rfl rfl rfl

theorem Operands.referenceWindowExpiry : Operands.Statement .referenceWindowExpiry := Operands.plain rfl rfl rfl rfl

theorem Operands.embossWindowExpiry (unit : Int) : Operands.Statement (.embossWindowExpiry unit) := by
  simp [Operands.Statement, Instr.wellFormed, coordinateOperand, bodyOperand, slotsOperand, coordinateOk]

theorem Operands.unitLeavesTrack : Operands.Statement .unitLeavesTrack := Operands.plain rfl rfl rfl rfl

theorem Operands.spliceEntryLeaves (entry : Int) : Operands.Statement (.spliceEntryLeaves entry) := by
  simp [Operands.Statement, Instr.wellFormed, coordinateOperand, bodyOperand, slotsOperand, coordinateOk]

theorem Operands.spliceZoneStart (entry : Int) : Operands.Statement (.spliceZoneStart entry) := by
  simp [Operands.Statement, Instr.wellFormed, coordinateOperand, bodyOperand, slotsOperand, coordinateOk]

theorem Operands.spliceZoneEnd (entry : Int) : Operands.Statement (.spliceZoneEnd entry) := by
  simp [Operands.Statement, Instr.wellFormed, coordinateOperand, bodyOperand, slotsOperand, coordinateOk]

theorem Operands.spliceGuardStart (entry : Int) : Operands.Statement (.spliceGuardStart entry) := by
  simp [Operands.Statement, Instr.wellFormed, coordinateOperand, bodyOperand, slotsOperand, coordinateOk]

theorem Operands.spliceGuardEnd (entry : Int) : Operands.Statement (.spliceGuardEnd entry) := by
  simp [Operands.Statement, Instr.wellFormed, coordinateOperand, bodyOperand, slotsOperand, coordinateOk]

theorem Operands.nipCheck (unit : Int) : Operands.Statement (.nipCheck unit) := by
  simp [Operands.Statement, Instr.wellFormed, coordinateOperand, bodyOperand, slotsOperand, coordinateOk]

theorem Operands.shadeEvent (unit : Int) : Operands.Statement (.shadeEvent unit) := by
  simp [Operands.Statement, Instr.wellFormed, coordinateOperand, bodyOperand, slotsOperand, coordinateOk]

theorem Operands.shadeHorizon (unit : Int) : Operands.Statement (.shadeHorizon unit) := by
  simp [Operands.Statement, Instr.wellFormed, coordinateOperand, bodyOperand, slotsOperand, coordinateOk]

theorem Operands.leadPoint : Operands.Statement .leadPoint := Operands.plain rfl rfl rfl rfl

theorem Operands.leadPointPassed : Operands.Statement .leadPointPassed := Operands.plain rfl rfl rfl rfl

theorem Operands.cutMissedThreshold : Operands.Statement .cutMissedThreshold := Operands.plain rfl rfl rfl rfl

theorem Operands.rollHandover : Operands.Statement .rollHandover := Operands.plain rfl rfl rfl rfl

theorem Operands.linkCycle : Operands.Statement .linkCycle := Operands.plain rfl rfl rfl rfl

theorem Operands.frameReturn (hop : Byte) (slots : List Slot) : Operands.Statement (.frameReturn hop slots) := by
  simp [Operands.Statement, Instr.wellFormed, coordinateOperand, bodyOperand, slotsOperand, slotsOk]

theorem Operands.frameReturnBad : Operands.Statement .frameReturnBad := Operands.plain rfl rfl rfl rfl

theorem Operands.driveTimerExpiry : Operands.Statement .driveTimerExpiry := Operands.plain rfl rfl rfl rfl

theorem Operands.labelStatus (body : List Byte) : Operands.Statement (.labelStatus body) := by
  simp [Operands.Statement, Instr.wellFormed, coordinateOperand, bodyOperand, slotsOperand, bodyOk]

theorem Operands.labelAck (body : List Byte) : Operands.Statement (.labelAck body) := by
  simp [Operands.Statement, Instr.wellFormed, coordinateOperand, bodyOperand, slotsOperand, bodyOk]

theorem Operands.labelNak (body : List Byte) : Operands.Statement (.labelNak body) := by
  simp [Operands.Statement, Instr.wellFormed, coordinateOperand, bodyOperand, slotsOperand, bodyOk]

theorem Operands.labelFrameError (cause : LabelError) : Operands.Statement (.labelFrameError cause) := Operands.plain rfl rfl rfl rfl

theorem Operands.labelGapTimeout : Operands.Statement .labelGapTimeout := Operands.plain rfl rfl rfl rfl

theorem Operands.labelJobSent : Operands.Statement .labelJobSent := Operands.plain rfl rfl rfl rfl

theorem Operands.labelReplyTimeout : Operands.Statement .labelReplyTimeout := Operands.plain rfl rfl rfl rfl

theorem Operands.labelWaitTimeout : Operands.Statement .labelWaitTimeout := Operands.plain rfl rfl rfl rfl

theorem Operands.exchangeWrite (addr : BitVec 13) (value : Word) : Operands.Statement (.exchangeWrite addr value) := Operands.plain rfl rfl rfl rfl

theorem Operands.noticeWrite (value : Word) : Operands.Statement (.noticeWrite value) := Operands.plain rfl rfl rfl rfl

theorem Operands.routeWrite (value : Word) : Operands.Statement (.routeWrite value) := Operands.plain rfl rfl rfl rfl

theorem Operands.registerWrite (register : HostRegister) (value : Word) : Operands.Statement (.registerWrite register value) := Operands.plain rfl rfl rfl rfl

theorem Operands.attention : Operands.Statement .attention := Operands.plain rfl rfl rfl rfl

theorem Operands.freeze : Operands.Statement .freeze := Operands.plain rfl rfl rfl rfl

theorem Operands.thaw : Operands.Statement .thaw := Operands.plain rfl rfl rfl rfl

theorem Operands.resume : Operands.Statement .resume := Operands.plain rfl rfl rfl rfl

theorem Operands.enterConfig : Operands.Statement .enterConfig := Operands.plain rfl rfl rfl rfl

theorem Operands.leaveConfig : Operands.Statement .leaveConfig := Operands.plain rfl rfl rfl rfl

theorem Operands.lineReset : Operands.Statement .lineReset := Operands.plain rfl rfl rfl rfl

theorem Operands.sweepTimer : Operands.Statement .sweepTimer := Operands.plain rfl rfl rfl rfl

theorem Operands.sweepEnd : Operands.Statement .sweepEnd := Operands.plain rfl rfl rfl rfl

theorem Operands.refreshTick : Operands.Statement .refreshTick := Operands.plain rfl rfl rfl rfl

theorem Operands.refreshEnd : Operands.Statement .refreshEnd := Operands.plain rfl rfl rfl rfl

theorem Operands.lineStopToggle : Operands.Statement .lineStopToggle := Operands.plain rfl rfl rfl rfl

end Sys2Proof.Laws
end

