-- ==== Sys2Proof/Tests/Slice0.lean ====
section
/-! SUPPORT. Tests: the operand checks refuse ill-formed commands; worked sequences and single sentences of the spec, each
with its section; and for every obligation with hypotheses a concrete state and operands that meet them, clause by clause. -/

open Sys2Proof Sys2Proof.Machine

namespace Sys2Proof.Tests

set_option Elab.async false

/-! ## Small states -/

/-- The order of the worked sequences: four stations at 8.0 mm, repeat 530.0 mm, embossed, target 10 050.0 mm. -/
def wallpaper : OrderBody :=
  { OrderBody.zero with
    seq := 40, stations := 4, emboss := 1, pitch := 80, nominal := 5300, shrink := -20000, persistence := 3,
    target := 100500, rolls := 3, tol := 80, wL := 16, wC := 16, template := 2 }

/-- The part in OPERATING and NORMAL, with the order in slot 2 active and every other block at its reset values. -/
def line : State :=
  { State.reset with
    mem := resetMemory ++ [(4, 2)], port := { Port.reset with phase := .operating },
    fault := { FaultUnit.reset with st := .normal, stopA := true },
    reg := { RegisterUnit.reset with
      lowSpeed := false, lExp := 212100,
      geom := some { stations := 4, pitch := 3200, half := 1600, quiet := 6400, offsets := [3200, 6400, 9600],
                     lNom := 212000 } },
    ord := { OrderUnit.reset with
      active := some 2, nextSerial := 2,
      orders := modifyAt (fun _ => { OrderRec.reset with st := .active, serial := 1, body := some wallpaper }) 2
        OrderUnit.reset.orders } }

/-- A state with both encoders at given counts, at their high-water marks. -/
def atCount (s : State) (w wF : Nat) : State :=
  { s with coord := { s.coord with
      w := BitVec.ofNat 48 w, h := BitVec.ofNat 48 w, wF := BitVec.ofNat 48 wF, hF := BitVec.ofNat 48 wF } }

/-- A unit of the order in slot 2 at `c`, with span start `g` once known. -/
def unitAt (c : Int) (n : Nat) (g : Option Int) : UnitRec :=
  { c := c, order := 2, number := n, lRh := none, errors := [none, none, none], g := g, lFin := none, lFinal := false,
    lMeasured := false, phi := none, reading := none, verdict := .waiting, batch := 0, flags := UnitFlags.none,
    spurious := 0, dev := none, shadeD := none, winX := 10000000, winHalf := 53000, leaveAt := none, nipAt := none,
    shadeAt := none, horizonAt := none }

/-- A state with given unit records. -/
def holding (s : State) (us : List UnitRec) : State :=
  { s with track := { s.track with units := us, prevC := us.getLast?.map UnitRec.c } }

/-- A state with a setting changed. -/
def setTo (s : State) (i : Nat) (v : Int) : State := { s with settings := s.settings.set (i - 1) v }

/-- A PRESENT node of a kind, its count settled. -/
def nodeOf (kind station expected : Nat) : Node :=
  { kind := kind, serial := 0, st := .present, station := station, expected := expected, settled := true, silent := 0,
    waiting := [], lastEvent := 0, wasConfiguring := false }

/-- The chain of 8.7: draw, four print drives, emboss, shade, winder. -/
def chained (s : State) : State :=
  { s with link := { s.link with enumerating := false, n := 8, nodes :=
      [nodeOf 3 0 3, nodeOf 1 1 9, nodeOf 1 2 4, nodeOf 1 3 6, nodeOf 1 4 2, nodeOf 2 0 11, nodeOf 4 0 15, nodeOf 5 0 7] } }

/-- What waits at a node, by its index from 0. -/
def waitingAt (s : State) (i : Nat) : List LinkCmd := (s.link.nodes.getD i (nodeOf 0 0 0)).waiting

/-- The state after a command; every command of this model gives one. -/
def after (c : Instr) (s : State) : State :=
  match exec c s with
  | .next t => t
  | _ => s

/-! ## The operand checks refuse -/

theorem test_refuses_negative_coordinate : (Instr.nipCheck (-1)).wellFormed = false := by decide
theorem test_refuses_wide_coordinate : (Instr.spliceEntryLeaves (2 ^ 48)).wellFormed = false := by decide
theorem test_refuses_long_body : (Instr.labelAck (List.replicate 303 0)).wellFormed = false := by decide +kernel
/-- R139: a frame has n slots, n being a hop count of one byte; a chain of 13 nodes gives 13, and no chain gives 256. -/
theorem test_refuses_256_slots :
    (Instr.frameReturn 255 (List.replicate 256 (Vector.replicate 10 0))).wellFormed = false
    ∧ (Instr.frameReturn 255 (List.replicate 255 (Vector.replicate 10 0))).wellFormed = true
    ∧ (Instr.frameReturn 13 (List.replicate 13 (Vector.replicate 10 0))).wellFormed = true := by
  simp only [Instr.wellFormed, slotsOk, List.length_replicate]
  decide
theorem test_no_word_spells_a_command : decodeTableWord 16 7 = none := by decide

/-! ## Chapter 1 -/

/-- R1, R2: a forward count moves W and, at the mark, H; the finish encoder stands. -/
theorem test_forward_count :
    let t := after (.encoderTransition .pe .forward) (atCount line 1000 500)
    t.posW = 1001 ∧ t.posH = 1001 ∧ t.posWF = 500 := by decide +kernel

/-- R4: 2000.0 mm of reverse travel is 800 000 counts; one count more raises REVERSE_LIMIT. -/
theorem test_reverse_limit :
    let s : State := { line with coord := { line.coord with w := 100000#48, h := 900000#48 } }
    let t := after (.encoderTransition .pe .reverse) s
    s.faultActive reverseLimitFault 0 = false ∧ t.posW = 99999 ∧ t.faultActive reverseLimitFault 0 = true := by
  decide +kernel

/-- R5: 4000 counts of 2500 nm in 10 ms are 1000 mm/s. -/
theorem test_speed :
    (after .speedMeasurement { line with coord := { line.coord with w := 9000#48, h := 9000#48, speedBase := 5000#48 } }).coord.speed
      = 1000 := by decide +kernel

/-- The units of 1.5, with the first one's stamp taken. -/
def fourUnits (g1 g2 g3 : Option Int) : List UnitRec :=
  [{ unitAt 1000000 1 g1 with lRh := some 212100 }, { unitAt 1212100 2 g2 with lRh := some 212100 },
   { unitAt 1424200 3 g3 with lRh := some 212100 }, unitAt 1636300 4 none]

def drifting (s : State) (delta sigma : Int) : State := { s with emb := { s.emb with delta := delta, sigma := sigma } }

/-- 1.5, stamp at unit 1. -/
theorem test_match_first :
    let t := after .emarkEdge (drifting (atCount (holding line (fourUnits none none none)) 11210000 2000000) 204082 (-20000))
    t.emb.delta = 205561 ∧ (t.unit? 1000000).map UnitRec.g = some (some 2000000) := by decide +kernel

/-- 1.5, stamp at unit 2: drift, g, the measured length of unit 1, strain. -/
theorem test_match_second :
    let t := after .emarkEdge
      (drifting (atCount (holding line (fourUnits (some 2000000) none none)) 11419800 2103900) 205561 (-20000))
    t.emb.delta = 206095 ∧ (t.unit? 1212100).map UnitRec.g = some (some 2103900)
    ∧ (t.unit? 1000000).map (fun u => (u.lFin, u.lFinal, u.lMeasured)) = some (some 103900, true, true)
    ∧ t.emb.sigma = -20034 := by decide +kernel

/-- 1.5, no stamp at unit 3: its g and unit 2's length come from the chain. -/
theorem test_window_expires :
    let t := after (.embossWindowExpiry 1424200)
      (drifting (atCount (holding line (fourUnits (some 2000000) (some 2103900) none)) 11683296 2200000) 206095 (-20034))
    (t.unit? 1424200).map (fun u => (u.g, u.flags.estimated)) = some (some 2207825, true)
    ∧ (t.unit? 1212100).map (fun u => (u.lFin, u.lFinal, u.lMeasured)) = some (some 103925, true, false)
    ∧ t.emb.missCount = 1 ∧ t.emb.delta = 206095 ∧ t.emb.sigma = -20034 := by decide +kernel

/-- 1.5: at the window's end itself it has not expired (R16). -/
theorem test_window_end_reached :
    after (.embossWindowExpiry 1424200)
      (drifting (atCount (holding line (fourUnits (some 2000000) (some 2103900) none)) 11683295 2200000) 206095 (-20034))
    = drifting (atCount (holding line (fourUnits (some 2000000) (some 2103900) none)) 11683295 2200000) 206095 (-20034) := by
  decide +kernel

/-- R17: a stamp in no window is charged to the earliest unit whose window end is not below it. -/
theorem test_spurious_mark :
    let t := after .emarkEdge (drifting (atCount (holding line (fourUnits none none none)) 11000000 1900000) 204082 (-20000))
    (t.unit? 1000000).map UnitRec.spurious = some 1 := by decide +kernel

/-- R7, R10: the oldest record leaves when H_F reaches its span end past the cutter. -/
theorem test_unit_leaves :
    (after .unitLeavesTrack (atCount (holding line [{ unitAt 1000000 1 (some 2000000) with leaveAt := some 10103900 }])
      11000000 10103900)).track.units = [] := by decide +kernel

/-- R11: with the detector 10.0 mm ahead of the head a splice lies 4000 counts beyond H. -/
theorem test_splice_edge :
    (after .spliceEdge (setTo (atCount line 1000000 500000) 4 100)).track.splices.map SpliceRec.p = [1004000] := by
  decide +kernel

/-- R13: an entry whose cutter event H_F has reached leaves the list. -/
theorem test_splice_leaves :
    (after (.spliceEntryLeaves 1004000) { atCount line 2000000 9000000 with track := { line.track with splices :=
      [{ p := 1004000, f := some 900000, owner := .unowned, leaveAt := some 9000000, dropAfter := none }] } }).track.splices
    = [] := by decide +kernel

/-! ## Chapter 2 -/

/-- 2.3: the mark of station 3 falls in its window. -/
theorem test_block_mark :
    let b : Block := { r := 1000000, half := 1600, offsets := [3200, 6400, 9600], marks := [], closeAfter := 1011200 }
    ((after .markEdge { atCount line 1006437 500000 with reg := { line.reg with block := some b } }).reg.block.map Block.marks)
      = some [(3, 1006437)] := by decide +kernel

/-- 2.3: at the close of the block station 3 filters to 388, sends -45 and settles for 6 units; the unit has no REGISTER. -/
theorem test_block_close :
    let b : Block := { r := 1000000, half := 1600, offsets := [3200, 6400, 9600],
                       marks := [(2, 1003200), (3, 1006437), (4, 1009600)], closeAfter := 1011200 }
    let s := setTo (setTo (chained (atCount (holding line [unitAt 1000000 1 none]) 1011201 500000)) 33 48) 8 24000
    let t := after .blockClose { s with reg := { s.reg with
      block := some b, loops := modifyAt (fun l => { l with st := .tracking, e16 := 320 }) 2 s.reg.loops } }
    (t.loop 3).e16 = 388 ∧ (t.loop 3).st = .settling ∧ (t.loop 3).settle = 6 ∧ (t.loop 3).inCount = 1
    ∧ waitingAt t 3 = [.phaseTrim (-45)] ∧ (t.unit? 1000000).map (fun u => (u.errors, u.flags.register))
      = some ([some 0, some 37, some 0], false) := by decide +kernel

/-- 2.4: a mark in the window [1 609 787, 1 662 812] is accepted, and the record before takes its length. -/
theorem test_reference_accepted :
    let s := atCount (holding line [unitAt 1424200 1 none]) 1609787 700000
    let t := after .markEdge { s with reg := { s.reg with cPrev := some 1424200, lastEdge := some 1433800 } }
    t.track.units.map (fun u => (u.c, u.lRh)) = [(1424200, some 185587), (1609787, none)] := by decide +kernel

/-- 2.4: one count before the window's start the same mark is discarded. -/
theorem test_reference_early :
    let s := atCount (holding line [unitAt 1424200 1 none]) 1609786 700000
    let t := after .markEdge { s with reg := { s.reg with cPrev := some 1424200, lastEdge := some 1433800 } }
    t.track.units.map UnitRec.c = [1424200] := by decide +kernel

/-- 2.4: H passes 1 662 812, and a synthetic unit stands at 1 636 300. -/
theorem test_reference_missing :
    let s := atCount (holding line [unitAt 1424200 1 none]) 1662813 700000
    let t := after .referenceWindowExpiry { s with reg := { s.reg with cPrev := some 1424200 } }
    t.track.units.map (fun u => (u.c, u.flags.synthetic)) = [(1424200, false), (1636300, true)]
    ∧ t.reg.cPrev = some 1636300 ∧ t.reg.synthCount = 1 ∧ t.reg.lExp = 212100 := by decide +kernel

/-- R33, R34: when H reaches a zone's start a tracking loop holds; when H has passed its end it acquires again. -/
theorem test_zone_start :
    let s : State := { atCount line 900000 0 with reg := { line.reg with
      zones := [{ p := 1112100, start := 900000, stop := 1536300, begun := false }],
      loops := modifyAt (fun l => { l with st := .tracking }) 2 line.reg.loops } }
    ((after (.spliceZoneStart 1112100) s).loop 3).st = .hold := by decide +kernel

theorem test_zone_end :
    let s : State := chained { atCount line 1536301 0 with reg := { line.reg with
      zones := [{ p := 1112100, start := 900000, stop := 1536300, begun := true }],
      loops := modifyAt (fun l => { l with st := .hold }) 2 line.reg.loops } }
    ((after (.spliceZoneEnd 1112100) s).loop 3).st = .acquire ∧ (after (.spliceZoneEnd 1112100) s).reg.zones = [] := by
  decide +kernel

/-! ## Chapter 3 -/

/-- The settings and the matched unit of 3.3, in SYNCING, with the index stamp before the unit. -/
def syncing : State :=
  let s := setTo (setTo (setTo (chained (atCount (holding line [unitAt 1000000 1 (some 2311500)]) 12000000 2397300)) 18 1000)
    37 64) 38 1500
  { s with emb := { s.emb with
      st := .syncing, lastIndex := some 2291300, phasePending := [1000000], warm := true,
      report := some { atTemperature := true, position := .lifted } } }

/-- 3.3: the first resolved phase is 200; it loads the filter, fails the lock test and is taken out by a trim of -1000. -/
theorem test_first_phase :
    let t := after .eindexEdge syncing
    t.emb.lastPhi = some 200 ∧ t.emb.phi16 = 3200 ∧ waitingAt t 5 = [.phaseTrim (-1000)] ∧ t.emb.settle = 2
    ∧ t.emb.lock = 0 ∧ t.emb.lastIndex = some 2397300 ∧ (t.unit? 1000000).map UnitRec.phi = some (some 200) := by
  decide +kernel

/-- 3.3: the fifth measurement after the trim moves the filter from 8 to 52; the third good test sends ENGAGE. -/
theorem test_engage :
    let t := after .eindexEdge { syncing with
      track := { syncing.track with units := [unitAt 1000000 1 (some 2311306)] },
      emb := { syncing.emb with phi16 := 8, lock := 2, reload := false } }
    t.emb.lastPhi = some 6 ∧ t.emb.phi16 = 52 ∧ t.emb.st = .engaging ∧ waitingAt t 5 = [.engage] ∧ t.emb.timer = true := by
  decide +kernel

/-- 3.3, the two reductions of R48. -/
theorem test_phase_reduction : reducePhase 60000 106000 = -46000 ∧ reducePhase (-53000) 106000 = 53000 := by decide +kernel

/-- R57: the drive timer runs out in ENGAGING. -/
theorem test_drive_timer :
    let t := after .driveTimerExpiry { syncing with emb := { syncing.emb with st := .engaging, timer := true } }
    t.emb.st = .lifting ∧ waitingAt t 5 = [.lift] ∧ t.faultActive embossDriveTimeout 0 = true := by decide +kernel

/-- R61: a unit crossing while the drive reports MOVING is UNEMBOSSED. -/
theorem test_nip :
    let t := after (.nipCheck 1000000) { atCount (holding line [{ unitAt 1000000 1 (some 2000000) with nipAt := some 2153000 }])
      12000000 2153000 with emb := { line.emb with report := some { atTemperature := true, position := .moving } } }
    (t.unit? 1000000).map (fun u => u.flags.unembossed) = some true := by decide +kernel

/-- R53, R56: a guard interval begins under an engaged embosser, and LIFT is sent. -/
theorem test_guard_start :
    let t := after (.spliceGuardStart 5) { syncing with emb := { syncing.emb with
      st := .engaged, guards := [{ p := 5, start := 2397300, stop := 2500000, begun := false }] } }
    t.emb.st = .lifting ∧ waitingAt t 5 = [.lift] := by decide +kernel

/-- R53, R54: the interval ends and no other cause is left. -/
theorem test_guard_end :
    (after (.spliceGuardEnd 5) { syncing with emb := { syncing.emb with
      st := .lifted, guards := [{ p := 5, start := 2300000, stop := 2397299, begun := true }] } }).emb.st = .syncing := by
  decide +kernel

/-- 3.5: eight lengths of 847 200 counts in all give rho 944, a step of 472 and a settle of 58 units. -/
theorem test_draw_block :
    let t := ({ setTo (chained line) 43 1000 with draw := { DrawLoop.reset with sum := 847200, count := 8 } } : State).computeDraw
    t.draw.total = 472 ∧ t.draw.settle = 58 ∧ waitingAt t 0 = [.drawTrim 472] := by decide +kernel

/-- 3.5: a third block is clamped to the limit of 1000, and DRAW_LIMIT is raised. -/
theorem test_draw_limit :
    let t := ({ setTo (chained line) 43 1000 with draw := { DrawLoop.reset with total := 944, sum := 847200, count := 8 } } :
      State).computeDraw
    t.draw.total = 1000 ∧ t.faultActive drawLimitFault 0 = true := by decide +kernel

/-! ## Chapter 4 -/

/-- 4.2: the worked difference is 81 and outside a tolerance of 80. -/
theorem test_shade_difference :
    let r : Reading := { l := 35, a := -60, b := 42 }
    let q : Reading := { l := 0, a := 0, b := 0 }
    shadeDifference 16 16 r q = 81 ∧ shadeWithin 16 16 80 r q = false := by decide +kernel

/-- R67: the shade event of an undecided unit sends MEASURE with the unit number as tag. -/
theorem test_shade_event :
    let t := after (.shadeEvent 1000000) (chained
      (atCount (holding line [{ unitAt 1000000 300 (some 2000000) with shadeAt := some 2253000 }]) 12000000 2253000))
    t.shade.queue.map (fun q => (q.unit, q.tag)) = [(1000000, 44)] ∧ waitingAt t 6 = [.measure 44 1000000] := by decide +kernel

/-- The state of 4.4 before unit 45: batch 2 open, units 43 and 44 in the run. -/
def runOfTwo : State :=
  let r (c : Int) (n : Nat) (l a b : Int) : UnitRec := { unitAt c n (some c) with reading := some { l := l, a := a, b := b } }
  let s := holding line [r 43000000 43 5160 260 (-270), r 44000000 44 5170 255 (-265), r 45000000 45 5165 262 (-268)]
  let rec2 (o : Bool) : BatchRec :=
    { isOpen := o, ref := { l := 5000, a := 200, b := -300 }, boundaryUnit := 1, lastUnit := 42, units := 3, excursions := 1,
      rolls := 0, updates := 1 }
  { s with shade := { s.shade with
      classifying := some { slot := 2, serial := 1 }, batches := [rec2 false, rec2 true], openBatch := some 2,
      run := [43000000, 44000000], runReadings := 2 } }

/-- 4.4, unit 45: the run is consistent, batch 3 opens at unit 43 and BATCH is latched. -/
theorem test_batch_opens :
    let t := runOfTwo.classifyRunning 45000000 wallpaper (some { l := 5165, a := 262, b := -268 })
    t.shade.openBatch = some 3 ∧ t.shade.run = [] ∧ t.noticed .batch = true
    ∧ t.shade.batches.map BatchRec.isOpen = [false, false, true]
    ∧ (t.shade.batches[2]?).map BatchRec.ref = some { l := 5165, a := 259, b := -268 }
    ∧ t.track.units.map (fun u => (u.verdict, u.batch, u.flags.boundary))
      = [(.isIn, 3, true), (.isIn, 3, false), (.isIn, 3, false)]
    ∧ (t.unit? 44000000).map UnitRec.shadeD = some (some 7) := by decide +kernel

/-- R79: the horizon of the run's first unit makes the run excursions of batch 2. -/
theorem test_horizon :
    let s := { runOfTwo with track := { runOfTwo.track with
      units := runOfTwo.track.units.map (fun u => { u with horizonAt := some 0 }) } }
    let t := after (.shadeHorizon 43000000) s
    t.shade.run = [] ∧ (t.unit? 44000000).map (fun u => (u.verdict, u.batch)) = some (.excursion, 2)
    ∧ t.faultActive shadeUnresolved 0 = false := by decide +kernel

/-! ## Chapter 5 -/

/-- 5.8: a winding state with an entry at its lead point. -/
def atLead (x : Int) (hF : Nat) (queued : Nat) : State :=
  let s := chained (atCount (holding line [unitAt 1 1 (some 8130100)]) 40000000 hF)
  let target : Reasons := { Reasons.none with target := true }
  { s with
    cut := { s.cut with plan := [{ x := x, reasons := target, deferred := false }], k := some 4000000 },
    winder := { s.winder with
      st := .winding, roll := some { start := 4000000, opening := Reasons.none, spindle := .a, units := [unitAt 0 1 (some 4000000)] },
      spindles := some (.winding, .empty), active := .a, lead := some { entry := x, threshold := x + 7800000, fired := false } },
    rolls := { s.rolls with queue := List.replicate queued (RollRec.mk 1 { slot := 2, serial := 1 } 0 [] [] 0 0 1 0
      { l := 0, a := 0, b := 0 } 0 0 0 0 0 0 Reasons.none Reasons.none false .a .sent 1 0 0 0 0 0 0 0 0 0 0 0 [] 0 false) } }

/-- 5.8: at 13 812 100 the entry at 6 012 100 is committed with 1 000 000 µm. -/
theorem test_lead_commits :
    let t := after .leadPoint (atLead 6012100 13812100 2)
    t.winder.st = .cutIssued ∧ t.cut.plan = [] ∧ t.winder.out.map (fun c => (c.x, c.missAfter)) = some (6012100, 14118100)
    ∧ (waitingAt t 7).map LinkCmd.encode = [(9, [0x40, 0x42, 0x0F, 0])] ∧ t.cut.k = some 6012100 := by
  decide +kernel

/-- 5.8: with four records held the winder stalls. -/
theorem test_lead_stalls :
    let t := after .leadPoint (atLead 8024200 15824200 4)
    t.winder.st = .stalled ∧ t.faultActive recordHoldFull 0 = true ∧ t.winder.blocked.queue = true := by decide +kernel

/-- 5.8: one count later the entry moves to the next boundary, DEFERRED. -/
theorem test_lead_passed :
    let t := after .leadPointPassed (after .leadPoint (atLead 8024200 15824200 4))
    let u := after .leadPointPassed { after .leadPoint (atLead 8024200 15824200 4) with
      coord := { line.coord with wF := 15824201#48, hF := 15824201#48 } }
    t.cut.plan.map PlanEntry.x = [8024200]
    ∧ u.cut.plan.map (fun e => (e.x, e.deferred)) = [(8130100, true)] ∧ u.winder.st = .stalled := by decide +kernel

/-- R101: past the threshold of 5.8's cut the line is stopped and the cut given up. -/
theorem test_cut_missed :
    let s := after .leadPoint (atLead 6012100 13812100 2)
    let t := after .cutMissedThreshold { s with coord := { s.coord with wF := 14118101#48, hF := 14118101#48 } }
    t.winder.out = none ∧ t.fault.st = .stopped ∧ t.fault.stopA = false ∧ t.noticed .stop = true := by decide +kernel

/-- 5.8, 6.1: the closed roll of nineteen units and 2 012 100 counts becomes a record of 10 060.5 mm. -/
theorem test_roll_handover :
    let us := (List.range 19).map (fun (i : Nat) => { unitAt i (i + 1) (some (4000000 + 105900 * (i : Int))) with lFin := some 105900, lFinal := true })
    let s := { line with winder := { line.winder with closing :=
      [{ roll := { start := 4000000, opening := Reasons.none, spindle := .a, units := us }, stop := 6012100,
         close := { Reasons.none with target := true }, deferred := false, removed := false }] } }
    let t := after .rollHandover s
    t.winder.closing = [] ∧ t.rolls.queue.map (fun r => (r.seq, r.rollNumber, r.length, r.units)) = [(1, 1, 100605, 19)]
    ∧ t.rolls.queue.map (fun r => r.flags &&& 0x0403#16) = [0#16] := by decide +kernel

/-! ## Chapter 6 -/

/-- The record 215 of 6.5. -/
def roll215 : RollRec :=
  RollRec.mk 215 { slot := 2, serial := 1 } 0 [76, 73, 78, 69, 78, 32, 87, 69, 65, 86, 69, 32, 50, 49, 32, 32] [76, 87, 50, 52] 0 2
    12 3 { l := 5165, a := 259, b := -268 } 0x0400#16 105900 20 1 6012100 8130100 Reasons.none
    { Reasons.none with target := true } true .a .waiting 0 0 0 0 0 0 0 0 0 0 0 0 [] 0 false

/-- Template 2 of 6.5: PRODUCT, the literal BATCH, BATCH, ROLL_NO, LENGTH_M, FLAGS_TEXT, SEQUENCE. -/
def labelling : State :=
  let s := line.partStore 0 []
  { s with
    mem := memStore s.mem 0x1E00 [7, 2, 0, 5, 66, 65, 84, 67, 72, 4, 3, 5, 6, 7],
    rolls := { s.rolls with queue := [roll215], nextJob := 37 } }

/-- 6.5: READY starts job 37: a frame of 51 bytes whose body is 46. -/
theorem test_label_job :
    let t := after (.labelStatus [1]) labelling
    t.rolls.job = some { seq := 215, number := 37, replyTimer := false } ∧ t.rolls.nextJob = 38
    ∧ t.rolls.queue.map RollRec.label = [.sent] ∧ t.rolls.tx.length = 51 ∧ t.rolls.tx.take 6 = [0xA5, 1, 46, 0, 37, 7]
    ∧ (t.rolls.tx.foldl (fun n b => n + b.toNat) 0 - 0xA5) % 256 = 0 := by decide +kernel

/-- 6.5: the seven lines. -/
theorem test_label_lines : labelling.render roll215 = some
    [[76, 73, 78, 69, 78, 32, 87, 69, 65, 86, 69, 32, 50, 49], [66, 65, 84, 67, 72], [76, 87, 50, 52, 48, 51], [49, 50],
     [49, 48, 46, 54], [79, 86, 76], [50, 49, 53]] := by decide +kernel

/-- 6.5: the job's last byte goes, and its reply timer runs. -/
theorem test_label_sent :
    (after .labelJobSent (after (.labelStatus [1]) labelling)).rolls.job.map LabelJob.replyTimer = some true := by decide +kernel

/-- 6.5: an ACK after the roll was doffed gives APPLIED; before, PRINTED. -/
theorem test_label_ack :
    let s := after (.labelStatus [1]) labelling
    let doffed : State := { s with rolls := { s.rolls with queue := s.rolls.queue.map (fun r => { r with removed := true }) } }
    (after (.labelAck [37]) doffed).rolls.queue.map RollRec.label = [.applied]
    ∧ (after (.labelAck [37]) s).rolls.queue.map RollRec.label = [.printed]
    ∧ (after (.labelAck [36]) s).rolls.queue.map RollRec.label = [.sent] := by decide +kernel

/-- R117: NO_MEDIA fails the label. -/
theorem test_label_nak :
    let t := after (.labelNak [37, 1]) (after (.labelStatus [1]) labelling)
    t.rolls.queue.map RollRec.label = [.failed] ∧ t.rolls.job = none := by decide +kernel

/-- 6.5: without an ACK the reply timer fails the label. -/
theorem test_label_reply_timeout :
    (after .labelReplyTimeout (after .labelJobSent (after (.labelStatus [1]) labelling))).rolls.queue.map RollRec.label
      = [.failed] := by decide +kernel

/-- R114: 30 s of NOT_READY fail the head. -/
theorem test_label_wait_timeout :
    let s := after (.labelStatus [0]) labelling
    s.rolls.waitTimer = true ∧ (after .labelWaitTimeout s).rolls.queue.map RollRec.label = [.failed] := by decide +kernel

/-- R115: each is counted. -/
theorem test_label_errors :
    (after .labelGapTimeout (after (.labelFrameError .badCheck) labelling)).rolls.rxErrors = 2 := by decide +kernel

/-- R121: tag 17 in the slot, ack 17: the record goes in with tag 18, skipping no value. -/
theorem test_record_bytes : roll215.bytes.length = 92 := by decide +kernel

/-! ## Chapter 7 and sweeps -/

/-- The part with no order, and the two posts of 7.8: B in slot 5 with tag 3, A in slot 2 with tag 7. -/
def posted : State :=
  let half (seq tag : Byte) : List Byte :=
    [tag, 1, seq, 0, 0, 0, 0, 0] ++ List.replicate 20 0x41#8 ++ [2, 0, 0, 0] ++ natBytes 2 80 ++ natBytes 2 5300
    ++ natBytes 2 1000 ++ natBytes 2 0 ++ natBytes 2 0 ++ [0, 3] ++ natBytes 4 100500 ++ natBytes 2 3 ++ natBytes 2 80
    ++ [16, 16] ++ natBytes 2 10 ++ [0, 0] ++ natBytes 2 0 ++ natBytes 2 0 ++ natBytes 2 0 ++ natBytes 2 1
  let s := chained { line with ord := OrderUnit.reset, port := { line.port with sweepRunning := true } }
  { s with mem := memStore (memStore s.mem 0x0500 (half 40 7)) 0x0680 (half 41 3) }

/-- 7.8, the sweep: both are taken, A first, and A becomes ACTIVE; the counter has gone up twice, and once more for A's
change of state. -/
theorem test_sweep_takes :
    let t := after .sweepEnd posted
    (t.order 2).st = .active ∧ (t.order 5).st = .taken ∧ t.ord.active = some 2 ∧ (t.order 2).serial < (t.order 5).serial
    ∧ t.readBytes 0x0570 4 = [7, 3, 0, 0] ∧ t.readBytes 0x06F0 4 = [3, 1, 0, 0] ∧ t.noticed .order = true
    ∧ t.port.counter = 3 ∧ t.port.sweepRunning = false := by decide +kernel

/-- R127: a station count of 1 is BAD_FIELD 5. -/
theorem test_sweep_refuses :
    let t := after .sweepEnd { posted with mem := memStore posted.mem 0x051C [1] }
    (t.order 2).st = .refused ∧ t.readBytes 0x0570 4 = [7, 2, 1, 5] := by decide +kernel

/-- 6.5: slot 5 is free again; the head goes in with record tag 18. -/
theorem test_roll_moved :
    let s : State := { line with
      mem := memStore line.mem (0x0800 + 96 * 5) [17, 0, 17, 0], port := { line.port with sweepRunning := true },
      rolls := { line.rolls with queue := [{ roll215 with label := .applied }] } }
    let t := s.moveRecords [5]
    t.readBytes (0x0800 + 96 * 5) 8 = [18, 0, 17, 0, 215, 0, 0, 0] ∧ t.rolls.queue.length = 0 ∧ t.noticed .roll = true
    ∧ t.port.counter = 1 := by decide +kernel

/-- R170: ATTENTION during a sweep leaves one pending. -/
theorem test_attention :
    let t := after .attention (after .attention line)
    t.port.sweepRunning = true ∧ t.port.sweepPending = true := by decide +kernel

theorem test_sweep_timer :
    (after .sweepTimer { line with port := { line.port with sweepTimer := true } }).port.sweepRunning = true := by decide +kernel

/-! ## Chapter 8 -/

/-- 8.7, cycle 5300: DRAW TRIM 472 goes out at position 1 with sequence byte 4; the frame has 86 bytes. -/
theorem test_link_cycle :
    let s := chained line
    let t := after .linkCycle ({ s with link := { s.link with cycle := 5300 } }.hand .draw (.drawTrim 472)).1
    t.link.tx.length = 86 ∧ t.link.tx.take 14 = [1, 0xB4, 0x14, 0, 6, 4, 0xD8, 1, 0, 0, 0, 0, 0, 0]
    ∧ t.link.out.isSome = true ∧ waitingAt t 0 = [] ∧ t.link.cycle = 5301 := by decide +kernel

/-- The replies of the chain of 8.7 with no command carried out and every value 0, but for given ones. -/
def replies (f : Nat → List Byte → List Byte) : List Slot :=
  let base : List (Byte × Byte) := [(0, 0x33), (0, 0x19), (0, 0x14), (0, 0x16), (0, 0x12), (0, 0x2B), (0, 0x4F), (0, 0x57)]
  (base.zipIdx).map (fun p =>
    let l := f p.2 [p.1.1, p.1.2, 0, 0, 0, 0, 0, 0, 0, 0]
    Vector.ofFn (fun i : Fin 10 => l.getD i.val 0))

/-- 8.7, cycle 5300: BAD_FRAME with counter 3: the trim was not executed, COMMAND_LOST for position 1. -/
theorem test_command_lost :
    let t := after (.frameReturn 8 (replies (fun i l => if i = 0 then l.set 0 1 else l)))
      (after .linkCycle ((chained line).hand .draw (.drawTrim 472)).1)
    (t.link.nodes.map Node.expected).take 2 = [3, 9] ∧ t.noticed .fault = true
    ∧ t.readBytes 0x1506 3 = [19, 1, 2] := by decide +kernel

/-- 8.7: with counter 4 it was. -/
theorem test_command_done :
    let t := after (.frameReturn 8 (replies (fun i l => if i = 0 then l.set 1 0x34 else l)))
      (after .linkCycle ((chained line).hand .draw (.drawTrim 472)).1)
    (t.link.nodes.map Node.expected).take 2 = [4, 9] ∧ t.noticed .fault = false := by decide +kernel

/-- 8.7: the trim of cycle 5120 is lost with its frame; every node is unheard once. -/
theorem test_bad_frame :
    let t := after .frameReturnBad (after .linkCycle ((chained line).hand (.station 3) (.phaseTrim (-45))).1)
    t.link.nodes.map Node.silent = [1, 1, 1, 1, 1, 1, 1, 1] ∧ t.link.badRun = 1
    ∧ t.link.nodes.map Node.settled = [true, true, true, false, true, true, true, true] := by decide +kernel

/-- R142: two good frames with one chain end the enumeration. -/
theorem test_enumeration :
    let reply : Slot := Vector.ofFn (fun i : Fin 10 => [0x00#8, 0x50#8, 0x11#8, 0x22#8, 0, 0, 0, 0, 0, 0].getD i.val 0)
    let idle : Slot := Vector.ofFn (fun i : Fin 10 => [0x01#8].getD i.val 0)
    let once (s : State) : State := after (.frameReturn 1 (reply :: List.replicate 11 idle)) (after .linkCycle s)
    let t := once (once State.reset)
    t.port.phase = .config ∧ t.link.nodes.map (fun n => (n.kind, n.serial)) = [(5, 0x2211#32)] ∧ t.noticed .link = true := by
  decide +kernel

/-! ## Chapter 9 -/

/-- 9.6: after the third frame that does not return NODE_SILENT stops the line; the first entry has sequence 1 in slot 0. -/
theorem test_nodes_silent :
    let s := chained line
    let t := after .frameReturnBad (after .linkCycle { s with link := { s.link with
      nodes := s.link.nodes.map (fun n => { n with silent := 2 }) } })
    t.fault.st = .stopped ∧ t.fault.stopA = false ∧ t.fault.active.length = 8 ∧ t.noticed .stop = true
    ∧ t.readBytes 0x1500 9 = [1, 0, 0, 0, 1, 0, 17, 1, 1] ∧ after .resume t = t := by decide +kernel

/-- 9.6: with no STOP-class fault left RESUME takes effect, the first line high. -/
theorem test_resume :
    let t := after .resume { line with fault := { line.fault with st := .stopped, stopA := false, active := [⟨25, 0⟩] } }
    t.fault.st = .normal ∧ t.fault.stopA = true ∧ t.fault.stopB = false := by decide +kernel

/-- R161: half a millisecond on. -/
theorem test_stop_toggles :
    let t := after .lineStopToggle line
    t.fault.stopA = false ∧ t.fault.stopB = true := by decide +kernel

/-! ## Chapters 10 and 11 -/

/-- R167: a host write to a template lands at the even address; one to the header is discarded. -/
theorem test_host_write :
    (after (.exchangeWrite 0x1C01 0x4142) line).readBytes 0x1C00 2 = [0x42, 0x41]
    ∧ after (.exchangeWrite 0x0000 0xFFFF) line = line := by decide +kernel

/-- 10.7: clearing FAULT releases NOTICE-U and leaves ROLL and NOTICE-R. -/
theorem test_notice_write :
    let s : State := { line with port := { line.port with notice := 0x000A#16, route := 0x0284#16 } }
    let t := after (.noticeWrite 0x0008) s
    s.noticeR = true ∧ s.noticeU = true ∧ t.noticeR = true ∧ t.noticeU = false ∧ t.port.notice = 0x0002#16 := by decide +kernel

theorem test_route_write : (after (.routeWrite 0x0284) line).port.route = 0x0284#16 := by decide +kernel

/-- 10.5: RESUME is code 4, and a write to STATUS is discarded. -/
theorem test_register_write :
    after (.registerWrite .control 2) line = after .freeze line ∧ after (.registerWrite .status 7) line = line := by
  decide +kernel

/-- R172: OPERATING, NORMAL, active order slot 2, counter 41. -/
theorem test_status : ({ line with port := { line.port with counter := 41 } } : State).status = 0x29A6#16 := by decide +kernel

theorem test_freeze :
    let t := after .freeze line
    t.port.freeze = .frozen ∧ t.noticed .frozen = true ∧ (after .thaw t).port.freeze = .thawed
    ∧ after .refreshTick t = t := by decide +kernel

/-- R176: a refresh writes its number first and last. -/
theorem test_refresh :
    let t := after .refreshTick (atCount line 0x123456 7)
    let u := after .refreshEnd t
    t.readBytes 0x1900 8 = [1, 0, 0x56, 0x34, 0x12, 0, 0, 0] ∧ t.readBytes 0x1BFE 2 = [0, 0] ∧ u.readBytes 0x1BFE 2 = [1, 0]
    ∧ u.port.refreshRunning = false := by decide +kernel

/-- R181: BUSY while an order is ACTIVE, and CONFIG without one. -/
theorem test_enter_config :
    (after .enterConfig line).readBytes 6 2 = [3, 0]
    ∧ (after .enterConfig { line with ord := OrderUnit.reset }).readByte 4 = 1 := by decide +kernel

/-- R180: an area of zeros is refused with field 1. -/
theorem test_leave_config :
    (after .leaveConfig { line with port := { line.port with phase := .config } }).readBytes 6 2 = [2, 1] := by decide +kernel

/-- R180: the default column is accepted and its tag echoed. -/
theorem test_leave_config_accepted :
    let t := after .leaveConfig { line with
      port := { line.port with phase := .config }, fault := FaultUnit.reset,
      mem := memStore line.mem 0x40 ([9, 0, 0, 0] ++ (defaultSettings.map (intBytes 4)).flatten) }
    t.port.phase = .operating ∧ t.fault.st = .normal ∧ t.readBytes 4 7 = [2, 0, 1, 0, 9, 0, 1] := by decide +kernel

/-- 11.5: the ENDING order is DONE(RESET) with its part tag, and a post it kept out is answered by its own tag. -/
theorem test_line_reset :
    let s : State := { line with mem := memStore (memStore line.mem 0x0500 [9, 1]) 0x0570 [8, 3] }
    let t := after .lineReset s
    (t.order 2).st = .done ∧ t.readBytes 0x0570 2 = [9, 5] ∧ t.readByte 0x0578 = 3 ∧ t.port.phase = .starting
    ∧ t.link.enumerating = true ∧ t.status = 0 := by decide +kernel

theorem test_power_on : after .powerOn line = State.reset ∧ after .resetPin line = State.reset := by decide +kernel

/-- R179: the record has 79 fields. -/
theorem test_settings_length : defaultSettings.length = 79 := by decide +kernel

/-! ## Witnesses: states and operands that meet the hypotheses of each obligation, clause by clause -/

/-- PeForwardCounts: the greatest W it speaks of, at H; and a W below H. -/
theorem witness_pe_forward :
    let s := atCount line (2 ^ 48 - 2) 0
    let r : State := { line with coord := { line.coord with w := 5#48, h := 9#48 } }
    s.posW < 2 ^ 48 - 1 ∧ (after (.encoderTransition .pe .forward) s).posW = (after (.encoderTransition .pe .forward) s).posH
    ∧ r.posW < 2 ^ 48 - 1 ∧ (after (.encoderTransition .pe .forward) r).posW < (after (.encoderTransition .pe .forward) r).posH := by
  decide +kernel

/-- PeReverseCounts: W at 0; W at 1, below the limit; reverse travel at the limit and one count beyond. -/
theorem witness_pe_reverse :
    let at_ (w h : Nat) : State := { line with coord := { line.coord with w := BitVec.ofNat 48 w, h := BitVec.ofNat 48 h } }
    let limit := roundHalfAway (line.setting 53 * 100000) line.peP
    let t (s : State) := after (.encoderTransition .pe .reverse) s
    (at_ 0 0).posW = 0 ∧ 0 < (at_ 1 1).posW ∧ (t (at_ 1 1)).posH - (t (at_ 1 1)).posW ≤ limit
    ∧ (t (at_ 1 800000)).posH - (t (at_ 1 800000)).posW = limit
    ∧ limit < (t (at_ 1 800001)).posH - (t (at_ 1 800001)).posW := by decide +kernel

/-- FeCountsAndLostDirection: the greatest W_F it speaks of. -/
theorem witness_fe_forward : (atCount line 0 (2 ^ 48 - 2)).posWF < 2 ^ 48 - 1 := by decide +kernel

/-- SpeedMeasured: just below the minimum with a running loop; at it, with a loop in HOLD that nothing else holds; OFF. -/
theorem witness_speed :
    let moved (by_ : Nat) (l : LoopState) : State :=
      let s := chained { line with coord := { line.coord with w := 9000#48, speedBase := BitVec.ofNat 48 (9000 - by_) } }
      { s with reg := { s.reg with loops := modifyAt (fun x => { x with st := l }) 2 s.reg.loops } }
    (after .speedMeasurement (moved 397 .tracking)).coord.speed < line.setting 47 ∧ ((moved 397 .tracking).loop 3).st ≠ .off
    ∧ line.setting 47 = (after .speedMeasurement (moved 398 .hold)).coord.speed ∧ (moved 398 .hold).spliceHold = false
    ∧ (moved 398 .hold).faultActive referenceLost 0 = false ∧ (moved 398 .hold).fault.st ≠ .stopped
    ∧ (moved 398 .hold).nodePresent (.station 3) = true ∧ ((moved 398 .hold).loop 3).st = .hold
    ∧ ((moved 398 .hold).loop 4).st = .off := by decide +kernel

/-- A unit of the order with every H_F event armed one count beyond 2 000 000. -/
def armed : UnitRec :=
  { unitAt 1000000 1 none with
    leaveAt := some 2000001, nipAt := some 2000001, shadeAt := some 2000001, horizonAt := some 2000001 }

/-- Everything armed and nothing due: each threshold one count short, or just at its mark where it must be passed. -/
def notDue : State :=
  let s := atCount (holding line [armed]) 11053000 2000000
  { s with
    reg := { s.reg with
      block := some { r := 1000000, half := 1600, offsets := [3200], marks := [], closeAfter := 11053000 },
      cPrev := some (11053000 - floorDiv (9 * 212100) 8) },
    winder := { s.winder with lead := some { entry := 5, threshold := 2000001, fired := false } } }

/-- NotDueChangesNothing, clause by clause. -/
theorem witness_not_due :
    let low : State := { line with coord := { line.coord with w := 5#48, h := 6#48, wF := 7#48, hF := 8#48 } }
    low.coord.w ≠ low.coord.h ∧ low.coord.wF ≠ low.coord.hF
    ∧ notDue.reg.block.map Block.closeAfter = some notDue.posH
    ∧ notDue.refWindowEnd = some notDue.posH
    ∧ (notDue.unit? 1000000).map (fun u => (u.g, u.winEnd notDue.emb.delta)) = some (none, notDue.posH)
    ∧ notDue.track.units.head?.bind UnitRec.leaveAt = some (notDue.posHF + 1)
    ∧ (notDue.unit? 1000000).bind UnitRec.nipAt = some (notDue.posHF + 1)
    ∧ (notDue.unit? 1000000).bind UnitRec.shadeAt = some (notDue.posHF + 1)
    ∧ (notDue.unit? 1000000).bind UnitRec.horizonAt = some (notDue.posHF + 1)
    ∧ notDue.winder.lead.map (fun l => (l.fired, l.threshold)) = some (false, notDue.posHF + 1)
    ∧ notDue.winder.st ≠ .stalled ∧ notDue.winder.out = none := by decide +kernel

/-- A state for a reference candidate at `w`, with the expectation, the last edge and the record before of 2.4. -/
def expecting (w : Nat) (edge : Int) : State :=
  let s := atCount (holding line [unitAt 1424200 1 none]) w 700000
  { s with reg := { s.reg with cPrev := some 1424200, lastEdge := some edge } }

/-- ReferenceAccepted: the window's two ends, each just after a quiet gap. -/
theorem witness_reference_accepted :
    ∀ w ∈ [1609787, 1662812],
      let s := expecting w ((w : Int) - 6401)
      s.coord.w = s.coord.h ∧ s.reg.geom.map Geometry.quiet = some 6400 ∧ s.reg.block = none
      ∧ s.reg.lastEdge = some (s.posW - 6401) ∧ s.reg.cPrev = some 1424200
      ∧ 1424200 + floorDiv (7 * s.reg.lExp) 8 ≤ s.posW ∧ s.posW ≤ 1424200 + floorDiv (9 * s.reg.lExp) 8
      ∧ s.ord.active = some 2 ∧ 2 < s.ord.orders.length ∧ s.track.units.length < 256 ∧ s.track.prevC = some 1424200
      ∧ floorDiv (roundHalfAway ((s.body 2).nominal * 100000) s.peP) 2 < s.posW - 1424200 := by decide +kernel

/-- ReferenceAccepted with nothing before: no edge, no expectation, no record. -/
theorem witness_first_reference :
    let s := atCount line 1000 1000
    s.coord.w = s.coord.h ∧ s.reg.geom.isSome = true ∧ s.reg.block = none ∧ s.reg.lastEdge = none ∧ s.reg.cPrev = none
    ∧ s.ord.active = some 2 ∧ 2 < s.ord.orders.length ∧ s.track.units.length < 256 ∧ s.track.prevC = none := by decide +kernel

/-- The open block of 2.3. -/
def openBlock (marks : List (Nat × Int)) : Block :=
  { r := 1000000, half := 1600, offsets := [3200, 6400, 9600], marks := marks, closeAfter := 1011200 }

def withBlock (s : State) (b : Block) : State := { s with reg := { s.reg with block := some b } }

/-- MarksThatStartNoUnit, clause by clause: no geometry; one count outside every window, at the block's end; the two ends of
station 3's window; an edge at the quiet gap itself; one count early; no order; just half a repeat after the last record. -/
theorem witness_marks :
    let none_ : State := atCount { line with reg := { line.reg with geom := none } } 5 5
    let outside := withBlock (atCount line 1001599 5) (openBlock [])
    let first := withBlock (atCount line 1004801 5) (openBlock [])
    let last := withBlock (atCount line 1008000 5) (openBlock [])
    let quiet : State := expecting 1700000 (1700000 - 6400)
    let early := expecting 1609786 5
    let idle : State := { atCount line 5 5 with ord := { line.ord with active := none } }
    let near := atCount (holding line [unitAt 1000000 1 none]) 1106000 5
    (none_.coord.w = none_.coord.h ∧ none_.reg.geom = none)
    ∧ (outside.coord.w = outside.coord.h ∧ outside.posW ≤ (openBlock []).closeAfter
        ∧ ∀ o ∈ (openBlock []).offsets, (openBlock []).half < ((outside.posW - 1000000 - o).natAbs : Int))
    ∧ (first.posW ≤ 1011200 ∧ ((first.posW - 1000000 - 6400).natAbs : Int) = 1599
        ∧ 1600 < ((first.posW - 1000000 - 3200).natAbs : Int))
    ∧ (last.posW ≤ 1011200 ∧ ((last.posW - 1000000 - 6400).natAbs : Int) = 1600
        ∧ 1600 < ((last.posW - 1000000 - 3200).natAbs : Int))
    ∧ (quiet.reg.geom.map Geometry.quiet = some 6400 ∧ quiet.reg.block = none ∧ quiet.reg.lastEdge = some (quiet.posW - 6400))
    ∧ (early.reg.geom.isSome = true ∧ early.reg.block = none ∧ early.reg.cPrev = some 1424200
        ∧ early.posW + 1 = 1424200 + floorDiv (7 * early.reg.lExp) 8 ∧ early.posW ≤ 1424200 + floorDiv (9 * early.reg.lExp) 8)
    ∧ (idle.reg.geom.isSome = true ∧ idle.reg.block = none ∧ idle.reg.cPrev = none ∧ idle.ord.active = none)
    ∧ (near.reg.geom.isSome = true ∧ near.reg.block = none ∧ near.reg.cPrev = none ∧ near.ord.active = some 2
        ∧ near.track.units.length < 256 ∧ near.track.prevC = some 1000000
        ∧ near.posW - 1000000 = floorDiv (roundHalfAway ((near.body 2).nominal * 100000) near.peP) 2) := by decide +kernel

/-- BlockCloses: one count past the block's end, with a unit at its reference and one that is not; an error beyond the
tolerance of 40 counts at a running station. -/
theorem witness_block_closes :
    let s := withBlock (atCount (holding line [unitAt 500000 1 none, unitAt 1000000 2 none]) 1011201 5)
      (openBlock [(2, 1003200), (3, 1006441)])
    let s : State := { s with reg := { s.reg with loops := modifyAt (fun l => { l with st := .tracking }) 2 s.reg.loops } }
    s.reg.block = some (openBlock [(2, 1003200), (3, 1006441)]) ∧ (openBlock []).closeAfter + 1 = s.posH
    ∧ s.track.units.map UnitRec.c = [500000, 1000000] ∧ (s.loop 3).st ≠ .off
    ∧ max 1 (roundHalfAway (s.setting 46 * 1000) s.peP) + 1 = ((1006441 - 1000000 - 6400 : Int).natAbs : Int) := by
  decide +kernel

/-- A station 3 in TRACKING with a filtered error, its node with a number of commands waiting. -/
def tracking (e16 : Int) (waiting : Nat) : State :=
  let s := chained line
  { s with
    reg := { s.reg with loops := modifyAt (fun l => { l with st := .tracking, e16 := e16 }) 2 s.reg.loops },
    link := { s.link with
      nodes := modifyAt (fun n => { n with waiting := List.replicate waiting (LinkCmd.phaseTrim 1) }) 3 s.link.nodes } }

/-- TrackingFiltersAndCorrects: within the deadband at its bound of 256; beyond it with room at the node, and with none;
with a gain that rounds the correction to 0; and a limit that is not negative. -/
theorem witness_tracking :
    let step (s : State) (e : Int) : Int := (s.loop 3).e16 + floorDiv (16 * e - (s.loop 3).e16) (2 ^ (s.setting 31).toNat)
    let c (s : State) (e16 : Int) : Int := clamp (-roundHalfAway (e16 * s.peP * s.setting 33) 1024000) (s.setting 34)
    ((tracking 256 0).loop 3).st = .tracking ∧ ((tracking 256 0).loop 3).reload = false
    ∧ ((step (tracking 256 0) 16).natAbs : Int) = 16 * max 1 (roundHalfAway (line.setting 32 * 1000) line.peP)
    ∧ 16 * max 1 (roundHalfAway (line.setting 32 * 1000) line.peP) < ((step (tracking 320 0) 37).natAbs : Int)
    ∧ c (tracking 320 0) (step (tracking 320 0) 37) ≠ 0
    ∧ ((tracking 320 9).hand (.station 3) (.phaseTrim (c (tracking 320 9) 388))).2 = false
    ∧ ((tracking 320 10).hand (.station 3) (.phaseTrim (c (tracking 320 10) 388))).2 = true
    ∧ c (setTo (tracking 320 0) 33 0) 388 = 0 ∧ 0 ≤ line.setting 34 := by decide +kernel

/-- ReferenceWindowExpires: one count past the window's end; the miss limit reached; an order with room; no order; a full track;
the record before too near. -/
theorem witness_window_expires :
    let s := expecting 1662813 5
    let third : State := { s with reg := { s.reg with synthCount := 2 } }
    let idle : State := { s with ord := { s.ord with active := none } }
    let full : State := { s with track := { s.track with units := List.replicate 256 (unitAt 5 1 none) } }
    let near : State := { s with track := { s.track with prevC := some 1530300 } }
    s.reg.cPrev = some 1424200 ∧ 1424200 + floorDiv (9 * s.reg.lExp) 8 + 1 = s.posH
    ∧ s.ord.active = some 2 ∧ s.track.units.length < 256 ∧ s.track.prevC = some 1424200
    ∧ floorDiv (roundHalfAway ((s.body 2).nominal * 100000) s.peP) 2 < 1424200 + s.reg.lExp - 1424200
    ∧ third.setting 44 ≤ (min 15 (third.reg.synthCount + 1) : Nat) ∧ idle.ord.active = none
    ∧ 256 ≤ full.track.units.length ∧ near.track.prevC = some 1530300
    ∧ 1424200 + near.reg.lExp - 1530300 ≤ floorDiv (roundHalfAway ((near.body 2).nominal * 100000) near.peP) 2 := by
  decide +kernel

/-- The units of 1.5 with the first two matched, at given counts. -/
def matching (w wF : Nat) : State :=
  drifting (atCount (holding line (fourUnits (some 2000000) (some 2103900) none)) w wF) 206095 (-20034)

/-- EmbossWindowExpires: unit 3 of 1.5, one count past its window's end; and a first unit with none before it. -/
theorem witness_emboss_expires :
    let s := matching 11683296 2200000
    let first := drifting (atCount (holding line (fourUnits none none none)) 11683296 2200000) 0 0
    s.track.units = [(fourUnits (some 2000000) (some 2103900) none)[0], (fourUnits (some 2000000) (some 2103900) none)[1]]
      ++ (fourUnits none none none)[2] :: [unitAt 1636300 4 none]
    ∧ (s.track.units.map UnitRec.c).Pairwise (fun a b => a < b)
    ∧ (∀ v ∈ [(fourUnits (some 2000000) (some 2103900) none)[0], (fourUnits (some 2000000) (some 2103900) none)[1]],
        v.g.isSome = true)
    ∧ (1424200 : Int) + 10000000 + s.emb.delta + 53000 + 1 = s.posH
    ∧ first.track.units = [] ++ (fourUnits none none none)[0] :: (fourUnits none none none).drop 1
    ∧ (1000000 : Int) + 10000000 + first.emb.delta + 53000 < first.posH := by decide +kernel

/-- EMBOSS_MARK_LOST at the fourth miss. -/
theorem witness_emboss_lost :
    let s := matching 11683296 2200000
    let t := after (.embossWindowExpiry 1424200) { s with emb := { s.emb with missCount := 3 } }
    4 ≤ t.emb.missCount := by decide +kernel

/-- EmarkMatched: unit 3 of 1.5 at its window's two ends, the later unit's window not ended; and a stamp that must be raised
above the g before it, one that must not. -/
theorem witness_emark_matched :
    ∀ w ∈ [11577295, 11683295],
      let s := matching w 2103900
      s.coord.wF = s.coord.hF
      ∧ s.track.units = (fourUnits (some 2000000) (some 2103900) none).take 2
          ++ (fourUnits none none none)[2] :: [unitAt 1636300 4 none]
      ∧ (s.track.units.map UnitRec.c).Pairwise (fun a b => a < b)
      ∧ (∀ v ∈ (fourUnits (some 2000000) (some 2103900) none).take 2, v.g.isSome = true)
      ∧ ((s.posW - (1424200 + 10000000 + s.emb.delta)).natAbs : Int) = 53000
      ∧ (∀ v ∈ [unitAt 1636300 4 none], v.g = none → s.posW ≤ v.c + v.winX + s.emb.delta + v.winHalf)
      ∧ s.posWF ≤ 2103900 ∧ ¬ (matching w 2103901).posWF ≤ 2103900 := by decide +kernel

/-- EmarkSpurious: between two windows, one count before the second begins; beyond every window's end, all matched. -/
theorem witness_emark_spurious :
    let s := matching 11577294 2200000
    let past : State := drifting (atCount (holding line [unitAt 1000000 1 (some 2000000)]) 11053001 2100000) 0 0
    s.coord.wF = s.coord.hF
    ∧ (∀ v ∈ s.track.units, v.g = none → s.posW ≤ v.c + v.winX + s.emb.delta + v.winHalf
        ∧ v.winHalf < ((s.posW - (v.c + v.winX + s.emb.delta)).natAbs : Int))
    ∧ s.track.units = (fourUnits (some 2000000) (some 2103900) none).take 2
        ++ (fourUnits none none none)[2] :: [unitAt 1636300 4 none]
    ∧ (s.track.units.map UnitRec.c).Pairwise (fun a b => a < b)
    ∧ (∀ v ∈ (fourUnits (some 2000000) (some 2103900) none).take 2, v.c + v.winX + s.emb.delta + v.winHalf < s.posW)
    ∧ s.posW ≤ 1424200 + 10000000 + s.emb.delta + 53000 ∧ (fourUnits none none none)[2].spurious ≠ 3
    ∧ past.coord.wF = past.coord.hF
    ∧ (∀ v ∈ past.track.units, v.c + v.winX + past.emb.delta + v.winHalf + 1 = past.posW ∧ v.g ≠ none) := by decide +kernel

/-- IndexStampTaken: a circumference; no earlier stamp; LIFTED; one unit just below the stamp in SYNCING, and none. -/
theorem witness_index :
    let s := syncing
    let none_ : State := { s with emb := { s.emb with lastIndex := none } }
    let lifted : State := { s with emb := { s.emb with st := .lifted } }
    let equal : State := { s with track := { s.track with units := [unitAt 1000000 1 (some 2397300)] } }
    let below : State := { s with track := { s.track with units := [unitAt 1000000 1 (some 2397299)] } }
    (0 : Int) < 106000 ∧ s.coord.wF = s.coord.hF ∧ none_.emb.lastIndex = none
    ∧ ¬ (lifted.emb.st = .syncing ∨ lifted.emb.st = .engaging ∨ lifted.emb.st = .engaged)
    ∧ (equal.emb.phasePending.filter (fun c => (equal.unit? c).any (fun u => u.g.any (fun g => decide (g < equal.posWF))))) = []
    ∧ (below.emb.phasePending.filter (fun c => (below.unit? c).any (fun u => u.g.any (fun g => decide (g < below.posWF)))))
      = [1000000]
    ∧ below.emb.lastIndex = some 2291300 ∧ below.emb.st = .syncing
    ∧ below.unit? 1000000 = some (unitAt 1000000 1 (some 2397299)) := by decide +kernel

/-- EngageOnlyWhenSafe: a filtered phase at the lock window's bound of 1280 and one beyond; one test short, a lift cause, no
drive; the third test with all in order. -/
theorem witness_engage :
    let at_ (phi : Int) (lock : Nat) : State := { syncing with emb := { syncing.emb with phi16 := phi, lock := lock } }
    let cold : State := { at_ 1280 2 with emb := { (at_ 1280 2).emb with report := none } }
    let alone : State := { at_ 1280 2 with link := { syncing.link with nodes := [] } }
    (at_ 1280 2).emb.st = .syncing
    ∧ ((at_ 1280 2).emb.phi16.natAbs : Int) = 16 * max 1 (roundHalfAway ((at_ 1280 2).setting 39 * 1000) (at_ 1280 2).feP)
    ∧ ¬ ((at_ 1281 2).emb.phi16.natAbs : Int) ≤ 16 * max 1 (roundHalfAway ((at_ 1281 2).setting 39 * 1000) (at_ 1281 2).feP)
    ∧ (at_ 1280 1).emb.lock < 2 ∧ cold.lifts = true ∧ alone.nodePresent .emboss = false
    ∧ 2 ≤ (at_ 1280 2).emb.lock ∧ (at_ 1280 2).lifts = false ∧ (at_ 1280 2).nodePresent .emboss = true
    ∧ (State.hand { at_ 1280 2 with emb := { (at_ 1280 2).emb with
        lock := 3, st := .engaging, timer := true, resent := false, liftPending := false } } .emboss .engage).2 = false
    ∧ (at_ 1280 2).lockTest.emb.st = .engaging := by decide +kernel

/-- DriveTimerRunsOut: in both states with the timer running; stopped; in another state. -/
theorem witness_drive_timer :
    let s (st : EmbossState) (timer : Bool) : State := { syncing with emb := { syncing.emb with st := st, timer := timer } }
    ((s .engaging true).emb.timer = true ∧ (s .engaging true).emb.st = .engaging)
    ∧ ((s .lifting true).emb.timer = true ∧ (s .lifting true).emb.st = .lifting)
    ∧ (s .engaging false).emb.timer = false ∧ (s .engaged true).emb.st ≠ .engaging ∧ (s .engaged true).emb.st ≠ .lifting := by
  decide +kernel

/-- A closing roll that ends at a coordinate, and the roll in progress. -/
def winding (start stop : Int) : State :=
  { line with winder := { line.winder with
      st := .winding, roll := some { start := stop, opening := Reasons.none, spindle := .b, units := [] }, active := .b,
      closing := [{ roll := { start := start, opening := Reasons.none, spindle := .a, units := [unitAt 900000 1 (some start)] },
                    stop := stop, close := { Reasons.none with target := true }, deferred := false, removed := false }] } }

/-- UnitLeavesForItsRoll: H_F just at the event; a unit whose span starts at the closing roll's start, at its last count, and at
its end. -/
theorem witness_unit_leaves :
    let u (g : Int) : UnitRec := { unitAt 1000000 2 (some g) with leaveAt := some 10103900 }
    let s (g : Int) := atCount (holding (winding 2000000 2100000) [u g, unitAt 1212100 3 none]) 11000000 10103900
    let start (g : Int) : Int := ((u g).g.map (fun g => g + roundHalfAway (((s g).body (u g).order).cutPhase * 100000) (s g).feP)).getD 0
    (s 2100000).track.units = u 2100000 :: [unitAt 1212100 3 none]
    ∧ ((s 2100000).track.units.map UnitRec.c).Pairwise (fun a b => a < b) ∧ (u 2100000).leaveAt = some (s 2100000).posHF
    ∧ (∀ c ∈ (s 2100000).winder.closing, ¬ (c.roll.start ≤ start 2100000 ∧ start 2100000 < c.stop))
    ∧ (∀ g ∈ [(2000000 : Int), 2099999], ∀ c ∈ (s g).winder.closing, c.roll.start ≤ start g ∧ start g < c.stop)
    ∧ (s 2000000).winder.closing.length = 1 := by decide +kernel

/-- A splice entry at `p`, as a detection leaves it. -/
def fresh (p : Int) : SpliceRec := { p := p, f := none, owner := .unsettled, leaveAt := none, dropAfter := none }

/-- SpliceListFollowed: the same splice, just a repeat on; the list full; room, with the zone begun at once; an entry at its
cutter event, an unowned one just past its point, and neither. -/
theorem witness_splices :
    let s := atCount line 1000000 2000000
    let with_ (es : List SpliceRec) : State := { s with track := { s.track with splices := es, lastNominal := 5300 } }
    let p := s.posH + roundHalfAway (s.setting 4 * 100000) s.peP
    let near := with_ [fresh (p - 212000)]
    let full := with_ (List.replicate 8 (fresh 5))
    let cut : SpliceRec := { fresh 5 with leaveAt := some 2000000 }
    let gone : SpliceRec := { fresh 5 with dropAfter := some 999999 }
    let neither : SpliceRec := { fresh 5 with leaveAt := some 2000001, dropAfter := some 1000000 }
    s.coord.w = s.coord.h
    ∧ (near.track.splices.getLast? = some (fresh (p - 212000))
        ∧ p - (p - 212000) = roundHalfAway (near.track.lastNominal * 100000) near.peP)
    ∧ (8 ≤ full.track.splices.length ∧ full.track.splices.getLast? = some (fresh 5)
        ∧ ¬ p - 5 ≤ roundHalfAway (full.track.lastNominal * 100000) full.peP)
    ∧ (s.track.splices = [] ∧ p - s.reg.lExp ≤ s.posH)
    ∧ ((with_ [cut]).track.splices.find? (fun q => decide (q.p = cut.p)) = some cut ∧ cut.leaveAt = some (with_ [cut]).posHF)
    ∧ ((with_ [gone]).track.splices.find? (fun q => decide (q.p = gone.p)) = some gone
        ∧ gone.dropAfter = some ((with_ [gone]).posH - 1))
    ∧ ((with_ [neither]).track.splices.find? (fun q => decide (q.p = neither.p)) = some neither
        ∧ neither.leaveAt = some ((with_ [neither]).posHF + 1) ∧ neither.dropAfter = some (with_ [neither]).posH) := by
  decide +kernel

/-- RegisterZoneHolds: H just at the start; H one past the end, no other zone or cause, a loop in HOLD, its drive PRESENT. -/
theorem witness_zone :
    let z (begun : Bool) : Zone := { p := 5, start := 1000000, stop := 1636300, begun := begun }
    let s (h : Nat) (begun : Bool) (l : LoopState) : State := chained { atCount line h 0 with reg := { line.reg with
      zones := [z begun], loops := modifyAt (fun x => { x with st := l }) 2 line.reg.loops } }
    ((z false) ∈ (s 1000000 false .tracking).reg.zones ∧ (z false).start = (s 1000000 false .tracking).posH
      ∧ ((s 1000000 false .tracking).loop 3).st ≠ .off)
    ∧ ((z true).stop + 1 = (s 1636301 true .hold).posH ∧ (after (.spliceZoneEnd 5) (s 1636301 true .hold)).reg.zones = []
      ∧ (s 1636301 true .hold).reg.lowSpeed = false ∧ (s 1636301 true .hold).faultActive referenceLost 0 = false
      ∧ (s 1636301 true .hold).fault.st ≠ .stopped ∧ (s 1636301 true .hold).nodePresent (.station 3) = true
      ∧ ((s 1636301 true .hold).loop 3).st = .hold) := by decide +kernel

/-- GuardIntervalLifts: H_F just at the start, in the three states; H_F one past the end in LIFTED with no other cause. -/
theorem witness_guard :
    let z (begun : Bool) : Zone := { p := 5, start := 2397300, stop := 2397299, begun := begun }
    let s (begun : Bool) (st : EmbossState) : State := { syncing with emb := { syncing.emb with st := st, guards := [z begun] } }
    ((z false) ∈ (s false .engaged).emb.guards ∧ (z false).start = (s false .engaged).posHF)
    ∧ (s false .engaged).emb.st = .engaged ∧ (s false .engaging).emb.st = .engaging
    ∧ (s false .syncing).emb.st = .syncing ∧ (s false .syncing).embossOrder = true
    ∧ (z true).stop + 1 = (s true .lifted).posHF ∧ (after (.spliceGuardEnd 5) (s true .lifted)).emb.guards = []
    ∧ (s true .lifted).emb.st = .lifted ∧ (s true .lifted).embossOrder = true ∧ (s true .lifted).atTemperature = true
    ∧ (s true .lifted).reaction.code < 2 ∧ (s true .lifted).faultActive embossMarkLost 0 = false
    ∧ (s true .lifted).faultActive embossRegisterLoss 0 = false := by decide +kernel

/-- NipChecked: H_F just at the point. -/
theorem witness_nip :
    let u : UnitRec := { unitAt 1000000 1 (some 2000000) with nipAt := some 2153000 }
    let s := atCount (holding line [u]) 12000000 2153000
    s.unit? u.c = some u ∧ u.nipAt = some s.posHF := by decide +kernel

/-- A draw loop with a full block of a mean, a total and a report. -/
def drawing (mean total : Int) (limit : Bool) : State :=
  { chained line with draw := { DrawLoop.reset with
      sum := 8 * mean, count := 8, total := total, report := some { ready := true, atLimit := limit, applied := 0 } } }

/-- DrawBlockComputed: at the deadband of 200 ppm; beyond it; at the drive's limit with a step of the total's sign; a total that
changes and one that does not; a limit that is not negative. -/
theorem witness_draw :
    let rho (s : State) : Int := roundHalfAway ((s.drawTarget - floorDiv s.draw.sum 8) * 1000000) (floorDiv s.draw.sum 8)
    let step (s : State) : Int := roundHalfAway (rho s * s.setting 42) 64
    ((rho (drawing 105979 7 false)).natAbs : Int) ≤ line.setting 41
    ∧ line.setting 41 < ((rho (drawing 105978 7 false)).natAbs : Int)
    ∧ 0 < step (drawing 105900 7 true) * (drawing 105900 7 true).draw.total
    ∧ (drawing 105900 7 true).draw.report.any DrawReport.atLimit = true
    ∧ (drawing 105900 7 false).draw.report.any DrawReport.atLimit = false
    ∧ (drawing 105900 7 false).computeDraw.draw.total ≠ 7 ∧ (drawing 105979 7 false).computeDraw.draw.total = 7
    ∧ 0 ≤ line.setting 43 ∧ line.ord.active.isSome = true := by decide +kernel

/-- ShadeEventRequests: H_F just at the event; a decided unit; seven requests held, none DONE or of that tag in flight. -/
theorem witness_shade_event :
    let u (v : Verdict) : UnitRec := { unitAt 1000000 300 (some 2000000) with shadeAt := some 2253000, verdict := v }
    let q : Request := { unit := 5, tag := 45, st := .inFlight, result := none, cycles := 1, calAtFlight := false }
    let s (v : Verdict) : State :=
      let s := chained (atCount (holding line [u v]) 12000000 2253000)
      { s with shade := { s.shade with queue := List.replicate 7 q } }
    (s .waiting).unit? (u .waiting).c = some (u .waiting) ∧ (u .waiting).shadeAt = some (s .waiting).posHF
    ∧ (s .isIn).unit? (u .isIn).c = some (u .isIn) ∧ (u .isIn).verdict ≠ .waiting ∧ (u .waiting).verdict = .waiting
    ∧ ((s .waiting).order (u .waiting).order).st ≠ .done ∧ (s .waiting).nodePresent .shade = true
    ∧ (s .waiting).shade.queue.length < 8
    ∧ (∀ q ∈ (s .waiting).shade.queue, q.st ≠ .done ∧ ¬ (q.st = .inFlight ∧ q.tag = (u .waiting).number % 256)) := by
  decide +kernel

/-- ShadeHorizonResolves: the run's first unit, another of the run, and a decided one, each just at its horizon. -/
theorem witness_horizon :
    let r (c : Int) (v : Verdict) : UnitRec :=
      { unitAt c 43 (some c) with reading := some { l := 1, a := 2, b := 3 }, verdict := v, horizonAt := some 2000000 }
    let s := atCount (holding line [r 5 .outRun, r 6 .outRun, r 7 .isIn]) 12000000 2000000
    let s : State := { s with shade := { s.shade with run := [5, 6], runReadings := 2, openBatch := some 1 } }
    s.unit? 5 = some (r 5 .outRun) ∧ (r 5 .outRun).horizonAt = some s.posHF ∧ s.shade.run.head? = some 5
    ∧ s.unit? 6 = some (r 6 .outRun) ∧ (6 : Int) ∈ s.shade.run ∧ s.shade.run.head? ≠ some 6
    ∧ s.unit? 7 = some (r 7 .isIn) ∧ (7 : Int) ∉ s.shade.run ∧ (r 7 .isIn).verdict ≠ .waiting := by decide +kernel

/-- ShadeDifferenceReported: the greatest weights and the two readings furthest apart. -/
theorem witness_shade_difference :
    (1 : Int) ≤ 32 ∧ (32 : Int) ≤ 32 ∧ Reading.valid { l := 10000, a := 12700, b := 12700 } = true
    ∧ Reading.valid { l := 0, a := -12800, b := -12800 } = true := by decide +kernel

/-- ReadingInOpenBatch: a reading at the tolerance itself, dL = 80 with the weight 16. -/
theorem witness_in_batch :
    let u : UnitRec := { unitAt 46000000 46 (some 46000000) with reading := some { l := 5080, a := 200, b := -300 } }
    let s : State := { runOfTwo with track := { runOfTwo.track with units := runOfTwo.track.units ++ [u] } }
    s.unit? u.c = some u ∧ u.reading = some { l := 5080, a := 200, b := -300 } ∧ u.c ∉ s.shade.run ∧ s.shade.openBatch = some 2
    ∧ s.shade.batches[2 - 1]?.map BatchRec.ref = some { l := 5000, a := 200, b := -300 }
    ∧ shadeSquare 16 16 { l := 5080, a := 200, b := -300 } { l := 5000, a := 200, b := -300 } = (16 * 80) * (16 * 80)
    ∧ shadeWithin (s.body u.order).wL (s.body u.order).wC (s.body u.order).tol { l := 5080, a := 200, b := -300 }
        { l := 5000, a := 200, b := -300 } = true := by decide +kernel

/-- LeadPointDecides: H_F just at the threshold; all in order with one place left at the node; a distance left; each condition
failing. -/
theorem witness_lead_point :
    let s := atLead 6012100 13812100 3
    let late := atLead 6012100 13812100 4
    let noSpindle : State := { s with winder := { s.winder with spindles := none } }
    let busy := after .leadPoint (atLead 6012100 13812100 2)
    s.winder.lead = some { entry := 6012100, threshold := 13812100, fired := false } ∧ (13812100 : Int) = s.posHF
    ∧ s.cut.plan.map PlanEntry.x = [6012100] ∧ s.cut.segments = [] ∧ s.idleEmpty = true
    ∧ s.rolls.queue.length + s.winder.closing.length = 3 ∧ s.winder.out = none
    ∧ 0 < truncate ((6012100 + roundHalfAway (s.setting 16 * 100000) s.feP - s.posHF) * s.feP) 1000
    ∧ s.nodeIndex .winder = some 7 ∧ (waitingAt s 7).length < 10
    ∧ noSpindle.idleEmpty = false ∧ late.rolls.queue.length + late.winder.closing.length = 4
    ∧ busy.winder.out.isSome = true := by decide +kernel

/-- LeadPointPassedDefers: H_F one past the threshold of a blocked entry, its next boundary known, and not known. -/
theorem witness_lead_passed :
    let s : State := { after .leadPoint (atLead 8024200 15824200 4) with
      coord := { line.coord with wF := 15824201#48, hF := 15824201#48 } }
    let blind : State := { s with track := { s.track with units := [] } }
    s.winder.st = .stalled ∧ (s.winder.blocked.spindle || s.winder.blocked.queue || s.winder.blocked.cut) = true
    ∧ s.winder.lead = some { entry := 8024200, threshold := 15824200, fired := true } ∧ (15824200 : Int) + 1 = s.posHF
    ∧ s.cut.plan.map PlanEntry.x = [8024200] ∧ s.boundaryAfter 8024200 = some 8130100
    ∧ blind.winder = s.winder ∧ blind.boundaryAfter 8024200 = none := by decide +kernel

/-- CutMissedGivesUp: H_F at the threshold, and one past it, in NORMAL. -/
theorem witness_cut_missed :
    let s (hF : Nat) : State := { after .leadPoint (atLead 6012100 13812100 2) with
      coord := { line.coord with wF := BitVec.ofNat 48 hF, hF := BitVec.ofNat 48 hF } }
    (s 14118100).winder.out.map OutstandingCut.missAfter = some (s 14118100).posHF
    ∧ (s 14118101).winder.out.map OutstandingCut.missAfter = some ((s 14118101).posHF - 1) ∧ (s 14118101).fault.st = .normal := by
  decide +kernel

/-- RollHandedOver: no closing roll; a unit that starts one count before the roll's end; the next one at the end. -/
theorem witness_handover :
    let s (g : Int) := holding (winding 2000000 2100000) [unitAt 1000000 2 (some g)]
    line.winder.closing = [] ∧ (s 2099999).winder.closing.length = 1
    ∧ (∀ u ∈ (s 2099999).track.units, ∀ c ∈ (s 2099999).winder.closing, (s 2099999).spanStart u = some (c.stop - 1))
    ∧ (∀ u ∈ (s 2100000).track.units, ∀ c ∈ (s 2100000).winder.closing, (s 2100000).spanStart u = some c.stop) := by
  decide +kernel

/-- LabelStatusTaken: bodies other than one byte of 0 or 1; a job outstanding; no job with and without a PENDING record, whose
template renders. -/
theorem witness_label_status :
    let busy := after (.labelStatus [1]) labelling
    ([2#8] ≠ [0#8] ∧ [2#8] ≠ [1#8]) ∧ busy.rolls.job.isSome = true ∧ labelling.rolls.job = none
    ∧ labelling.rolls.queue.find? (fun r => decide (r.label = .waiting)) = some roll215
    ∧ (labelling.render roll215).isSome = true := by decide +kernel

/-- LabelAckEndsJob: the outstanding number, another number, no job; a body of no byte. -/
theorem witness_label_ack :
    let busy := after (.labelStatus [1]) labelling
    busy.rolls.job = some { seq := 215, number := (37#8).toNat, replyTimer := false } ∧ (37 : Nat) ≠ (36#8).toNat
    ∧ labelling.rolls.job = none ∧ ([] : List Byte).length ≠ 1 := by decide +kernel

/-- LabelFails: the three cases. -/
theorem witness_label_fails :
    let busy := after .labelJobSent (after (.labelStatus [1]) labelling)
    let waiting := after (.labelStatus [0]) labelling
    busy.rolls.job = some { seq := 215, number := 37, replyTimer := true } ∧ 37 < 256
    ∧ waiting.rolls.queue.find? (fun r => decide (r.label = .waiting)) = some roll215 ∧ waiting.rolls.job = none
    ∧ waiting.rolls.waitTimer = true := by decide +kernel

/-- LabelFramesDiscarded: a NAK of one byte; no job of its number; timers that do not run. -/
theorem witness_label_discarded :
    ([0#8] : List Byte).length ≠ 2 ∧ labelling.rolls.job = none ∧ labelling.rolls.waitTimer = false
    ∧ (after (.labelStatus [1]) labelling).rolls.job = some { seq := 215, number := 37, replyTimer := false } := by
  decide +kernel

/-- RequestPlaced: not at the roll's start; an entry there; none there with fifteen places taken, and with sixteen. -/
theorem witness_request :
    let e (x : Int) : PlanEntry := { x := x, reasons := { Reasons.none with target := true }, deferred := false }
    let s (n : Nat) : State := { line with
      winder := { line.winder with roll := some { start := 5, opening := Reasons.none, spindle := .a, units := [] } },
      cut := { line.cut with plan := (List.range n).map (fun i => e (100 + i)) } }
    (s 16).winder.roll.map Roll.start = some 5 ∧ (s 16).entryAt 101 = some (e 101)
    ∧ (s 16).entryAt 200 = none ∧ 16 ≤ (s 16).cut.plan.length + (s 16).cut.full.length
    ∧ (s 15).entryAt 200 = none ∧ (s 15).cut.plan.length + (s 15).cut.full.length = 15
    ∧ (s 16).cut.plan.Pairwise (fun a b => a.x < b.x) ∧ (s 16).cut.plan.length ≤ 16
    ∧ (CutKind.batch).reasons.forced = true ∧ (CutKind.target).reasons.forced = false := by decide +kernel

/-- CutDoneClosesRoll: a roll with a unit that starts one count before the cut and one at it. -/
theorem witness_cut_done :
    let us := [unitAt 5 1 (some 6012099), unitAt 6 2 (some 6012100)]
    let s : State := { line with winder := { line.winder with
      roll := some { start := 4000000, opening := Reasons.none, spindle := .a, units := us } } }
    s.winder.roll = some { start := 4000000, opening := Reasons.none, spindle := .a, units := us }
    ∧ (∀ u ∈ us, u.g.isSome = true) := by decide +kernel

/-- LinkCycleSendsFrame: a frame out; none, enumerating; none, with a command waiting, a CONFIGURING node, a SILENT one, an
unsettled one and one with nothing waiting. -/
theorem witness_link_cycle :
    let s := ((chained line).hand .draw (.drawTrim 472)).1
    let s : State := (s.setNode 1 (fun n => { n with st := .configuring })).setNode 2 (fun n => { n with st := .silent })
    let s : State := s.setNode 3 (fun n => { n with settled := false })
    (after .linkCycle s).link.out.isSome = true ∧ State.reset.link.out = none ∧ State.reset.link.enumerating = true
    ∧ s.link.out = none ∧ s.link.enumerating = false
    ∧ s.link.nodes[0]?.map (fun n => (n.st, n.settled, n.waiting)) = some (.present, true, [.drawTrim 472])
    ∧ s.link.nodes[1]?.map Node.st = some .configuring ∧ s.link.nodes[2]?.map Node.st = some .silent
    ∧ s.link.nodes[3]?.map (fun n => (n.st, n.settled)) = some (.present, false)
    ∧ s.link.nodes[4]?.map (fun n => (n.st, n.waiting)) = some (.present, []) := by decide +kernel

/-- EnumerationEnds: an ENUMERATE frame out; no chain held; the same chain held. -/
theorem witness_enumeration :
    let reply : Slot := Vector.ofFn (fun i : Fin 10 => [0x00#8, 0x50#8, 0x11#8, 0x22#8].getD i.val 0)
    let s := after .linkCycle State.reset
    let t := after .linkCycle (after (.frameReturn 1 [reply]) s)
    s.link.out.map Frame.enumerate = some true ∧ s.link.lastChain = none ∧ t.link.out.map Frame.enumerate = some true
    ∧ (match t.link.lastChain, t.link.out with
        | some d, some f => d.same (chainOf 1 f [reply])
        | _, _ => false) = true := by decide +kernel

/-- CycleFrameJudged: no frame out; a CYCLE frame out with the table's hop count; a PRESENT node whose reply shows its
kind and the count that executes, and the one before; a node expected at 0 showing 0. -/
theorem witness_judged :
    let s := ((chained line).hand .draw (.drawTrim 472)).1
    let t := after .linkCycle s
    line.link.out = none ∧ t.link.out.map Frame.enumerate = some false ∧ (8#8).toNat = t.link.n
    ∧ t.link.nodes[0]?.map (fun n => (n.kind, n.expected, n.settled)) = some (3, 3, true)
    ∧ t.link.out.map (fun f => f.slots.map (fun x => (x.carries, x.bytes.toList.getD 1 0))) =
        some ((.command (.drawTrim 472), 4) :: [(.idle, 9), (.idle, 4), (.idle, 6), (.idle, 2), (.idle, 11), (.idle, 15), (.idle, 7)])
    ∧ (0x34#8).toNat / 16 = 3 ∧ (0x34#8).toNat % 16 = 4 ∧ (0x33#8).toNat % 16 ≠ 4 ∧ (0x34#8).toNat % 16 ≠ 0 := by
  decide +kernel

/-- BadFrameUnheard: no frame; an ENUMERATE frame; a CYCLE frame of idle slots with every node heard of late and the run at 98;
a PRESENT node unheard twice. -/
theorem witness_bad_frame :
    let base := chained line
    let s (silent : Nat) := after .linkCycle { base with link := { base.link with
      badRun := 98, nodes := base.link.nodes.map (fun n => { n with silent := silent }) } }
    line.link.out = none ∧ (after .linkCycle State.reset).link.out.map Frame.enumerate = some true
    ∧ (s 1).link.out.map Frame.enumerate = some false
    ∧ (s 1).link.out.map (fun f => f.slots.map SentSlot.carries) = some (List.replicate 8 SlotCmd.idle)
    ∧ (s 1).link.nodes.length = 8 ∧ (∀ n ∈ (s 1).link.nodes, n.silent + 1 < 3) ∧ (s 1).link.badRun < 99
    ∧ (s 2).link.nodes[0]?.map (fun n => (n.st, n.silent, n.waiting)) = some (.present, 2, []) := by decide +kernel

/-- RaiseAndClear: a STOP-class condition in NORMAL; CONFIG and STOPPED; an event kind of reaction MARK or LIFT; a fault in the set
and one not in it. -/
theorem witness_raise :
    let marked := setTo line (53 + commandLost) 1
    let held : State := { line with fault := { line.fault with active := [⟨drawLimitFault, 0⟩] } }
    line.reactionOf trackFull = .stop ∧ line.fault.st = .normal ∧ State.reset.fault.st = .config
    ∧ (after .resume line).fault.st = .normal ∧ isEventKind trackFull = false
    ∧ isEventKind commandLost = true ∧ marked.reactionOf commandLost = .mark
    ∧ (⟨drawLimitFault, 0⟩ : FaultId) ∈ held.fault.active ∧ (⟨drawLimitFault, 0⟩ : FaultId) ∉ line.fault.active := by decide +kernel

/-- ResumeLeavesStopped: NORMAL; STOPPED with a STOP-class fault; STOPPED with DRAW_LIMIT alone, in OPERATING. -/
theorem witness_resume :
    let s (c : Nat) : State := { line with fault := { line.fault with st := .stopped, stopA := false, active := [⟨c, 0⟩] } }
    line.fault.st ≠ .stopped ∧ (∃ f ∈ (s trackFull).fault.active, (s trackFull).reactionOf f.code = .stop)
    ∧ (s drawLimitFault).fault.st = .stopped ∧ (s drawLimitFault).port.phase ≠ .starting
    ∧ (∀ f ∈ (s drawLimitFault).fault.active, (s drawLimitFault).reactionOf f.code ≠ .stop) := by decide +kernel

/-- StopPairToggles: NORMAL and CONFIG. -/
theorem witness_stop_pair : line.fault.st = .normal ∧ State.reset.fault.st = .config := by decide +kernel

/-- HostWritesTaken: the last byte before the settings, the first and the last of them, and the memory's last word. -/
theorem witness_host_write :
    hostOwned (2 * ((0x003F#13).toNat / 2)) = false ∧ hostOwned (2 * ((0x0040#13).toNat / 2)) = true
    ∧ hostOwned (2 * ((0x03FF#13).toNat / 2)) = true ∧ hostOwned (2 * ((0x1FFF#13).toNat / 2)) = true := by decide +kernel

/-- RouteAndLines: a phase in which LINE RESET is taken. -/
theorem witness_route : line.port.phase ≠ .starting ∧ exec .powerOn line = .next State.reset := ⟨by decide +kernel, rfl⟩

/-- StatusShowsFields: the last slot active, and none. -/
theorem witness_status :
    ({ line with ord := { line.ord with active := some 7 } } : State).ord.active = some 7 ∧ (7 : Nat) < 8
    ∧ State.reset.ord.active = none := by decide +kernel

/-- ControlWrites: codes 0 and 8, and STARTING. -/
theorem witness_control : (0#16) = 0 ∧ 7 < (8#16).toNat ∧ State.reset.port.phase = .starting := by decide +kernel

/-- PrinterReportStands: an outstanding job; no report with no job. -/
theorem witness_printer :
    (after (.labelStatus [1]) labelling).rolls.job.isSome = true ∧ labelling.rolls.printer ≠ some true
    ∧ labelling.rolls.job = none := by decide +kernel

/-- SweepsAskedAndEnded: both phases, both timers, a sweep and none. -/
theorem witness_sweep :
    line.port.phase ≠ .starting ∧ State.reset.port.phase = .starting ∧ line.port.sweepTimer = false
    ∧ ({ line with port := { line.port with sweepTimer := true } } : State).port.sweepTimer = true
    ∧ line.port.sweepRunning = false ∧ posted.port.sweepRunning = true := by decide +kernel

/-- FreezeAndRefresh: STARTING and OPERATING, the three freeze states, a refresh running and none. -/
theorem witness_freeze :
    let running := after .refreshTick line
    State.reset.port.phase = .starting ∧ line.port.phase ≠ .starting ∧ line.port.freeze = .thawed
    ∧ line.port.refreshRunning = false ∧ running.port.refreshRunning = true
    ∧ (after .freeze running).port.freeze = .freezing ∧ (after .freeze line).port.freeze = .frozen := by decide +kernel

/-- PostAnswered: a busy slot whose post is refused for the first time and again; a free slot out of OPERATING; a post that
passes, in slot 2, and one with a bad field. -/
theorem witness_post :
    let busy : State := { line with mem := memStore line.mem 0x0500 [9, 1] }
    let bad : State := { posted with mem := memStore posted.mem 0x051C [1] }
    let config : State := { posted with port := { posted.port with phase := .config } }
    2 < busy.ord.orders.length ∧ 7 < busy.ord.orders.length ∧ busy.slotBusy 2 = true ∧ (busy.order 2).busyTag ≠ busy.readNat 0x0500 1
    ∧ (busy.dealPost 2).slotBusy 2 = true ∧ ((busy.dealPost 2).order 2).busyTag = (busy.dealPost 2).readNat 0x0500 1
    ∧ config.slotBusy 2 = false ∧ config.port.phase ≠ .operating
    ∧ posted.slotBusy 2 = false ∧ posted.port.phase = .operating ∧ posted.judgePost 2 (posted.readBody 2) = (0, 0)
    ∧ bad.slotBusy 2 = false ∧ bad.judgePost 2 (bad.readBody 2) = (1, 5) := by decide +kernel

/-- RollMovedToSlot: an empty queue; a head that waits; a head that is ready; the last slot. -/
theorem witness_roll_moved :
    let ready : State := { line with rolls := { line.rolls with queue := [{ roll215 with label := .failed }] } }
    31 < 32 ∧ line.rolls.queue = [] ∧ labelling.rolls.queue = [roll215] ∧ roll215.label ≠ .applied ∧ roll215.label ≠ .failed
    ∧ ready.rolls.queue = [{ roll215 with label := .failed }] ∧ roll215.others.length ≤ 7 := by decide +kernel

/-- ConfigEnteredAndLeft: each phase; an order ACTIVE and none; a record with field 1 out of range, one with field 79 out of range,
and a good one. -/
theorem witness_config :
    let area (fields : List Int) : State := { line with
      port := { line.port with phase := .config },
      mem := memStore line.mem 0x40 ([9, 0, 0, 0] ++ (fields.map (intBytes 4)).flatten) }
    let free : State := { line with ord := OrderUnit.reset }
    State.reset.port.phase ≠ .operating ∧ line.port.phase ≠ .config ∧ line.port.phase = .operating
    ∧ (∃ o ∈ line.ord.orders, o.st = .active ∨ o.st = .ending) ∧ (∀ o ∈ free.ord.orders, o.st ≠ .active ∧ o.st ≠ .ending)
    ∧ (area []).port.phase = .config ∧ (area []).badSetting = some 1
    ∧ (area (defaultSettings.set 78 4)).badSetting = some 79 ∧ (area defaultSettings).badSetting = none := by decide +kernel

/-- LineResetValues: both phases; the first and the last slot; an ACTIVE fault entry in the last fault slot, a CLEARED one in the
first, none in the second; the line-reset count at its end. LINE RESET clears the ACTIVE one at the H then held (R166, R183). -/
theorem witness_line_reset :
    let mem := memStore (memStore (memStore line.mem 0x10 [255, 255]) 0x1500 [7, 0, 0, 0, 1, 0, 9, 0, 2])
      0x18E0 [255, 0, 1, 0, 2, 0, 12, 0, 1]
    let s : State := { atCount line 2000 0 with mem := mem }
    let t := after .lineReset s
    State.reset.port.phase = .starting ∧ line.port.phase ≠ .starting ∧ line.ord.orders.length = 8
    ∧ hostOwned 0x40 = true ∧ (line.order 2).st = .active
    ∧ (s.faultTag 31, s.faultEntryState 31) = (255, 1) ∧ (s.faultTag 0, s.faultEntryState 0) = (7, 2) ∧ s.faultTag 1 = 0
    ∧ (t.faultTag 31, t.faultEntryState 31) = (2, 2) ∧ t.readBytes 0x18FA 6 = [0xD0, 7, 0, 0, 0, 0]
    ∧ (t.faultTag 0, t.faultEntryState 0) = (7, 2) ∧ t.readNat 0x10 2 = 65535 := by decide +kernel

/-- The line with a command waiting. -/
def waiting : State := { line with pending := [.resume] }

/-- StepKeepsLaws: it has all four laws, and its step gives a next state. -/
theorem witness_laws : waiting.safe ∧ ∃ t, step waiting = .next t :=
  ⟨⟨by unfold State.memoryOk; decide +kernel, rfl, by unfold State.headerOk; decide +kernel,
    ⟨by decide +kernel, by decide +kernel, by decide +kernel, by decide +kernel, by decide +kernel⟩⟩, _, rfl⟩

/-- OnlyTheirCommandsChange: an ordinary command gives a next state; and STARTING. -/
theorem witness_only :
    exec .freeze State.reset = .next State.reset ∧ State.reset.port.phase = .starting ∧ Instr.freeze ≠ .powerOn
    ∧ Instr.freeze ≠ .leaveConfig := ⟨rfl, by decide +kernel, by decide +kernel, by decide +kernel⟩

/-- MarksThatStartNoUnit with 256 records: at both ends of the window, just after a quiet gap. -/
theorem witness_full_track :
    ∀ w ∈ [1609787, 1662812],
      let s := expecting w ((w : Int) - 6401)
      let s : State := { s with track := { s.track with units := List.replicate 256 (unitAt 5 1 none) } }
      s.coord.w = s.coord.h ∧ s.reg.geom.map Geometry.quiet = some 6400 ∧ s.reg.block = none
      ∧ s.reg.lastEdge = some (s.posW - 6401) ∧ s.reg.cPrev = some 1424200
      ∧ 1424200 + floorDiv (7 * s.reg.lExp) 8 ≤ s.posW ∧ s.posW ≤ 1424200 + floorDiv (9 * s.reg.lExp) 8
      ∧ s.ord.active = some 2 ∧ s.track.units.length = 256
      ∧ (after .markEdge s).faultActive trackFull 0 = true ∧ (after .markEdge s).track = s.track
      ∧ after .markEdge s =
          { s.raise trackFull 0 with reg := { (s.raise trackFull 0).reg with lastEdge := some s.posW } } := by decide +kernel

/-- EmarkSpurious: the fourth stamp charged to one record. -/
theorem witness_fourth_spurious :
    let s := matching 11577294 2200000
    let s : State := { s with track := { s.track with units := s.track.units.map (fun u => { u with spurious := 3 }) } }
    let t := after .emarkEdge s
    s.coord.wF = s.coord.hF ∧ s.track.units.map UnitRec.spurious = [3, 3, 3, 3]
    ∧ (∀ v ∈ s.track.units, v.g = none → s.posW ≤ v.c + v.winX + s.emb.delta + v.winHalf
        ∧ v.winHalf < ((s.posW - (v.c + v.winX + s.emb.delta)).natAbs : Int))
    ∧ t.track.units.map UnitRec.spurious = [3, 3, 4, 3] ∧ t.noticed .fault = true
    ∧ t = State.raise { s with track := t.track } spuriousMarks 0 := by decide +kernel

/-- IndexStampTaken: two units below the stamp and one at it, in SYNCING; both get their phase and leave the list. -/
theorem witness_index_two :
    let s : State := { syncing with
      track := { syncing.track with units :=
        [unitAt 1000000 1 (some 2311500), unitAt 1212100 2 (some 2397299), unitAt 1424200 3 (some 2397300)] },
      emb := { syncing.emb with phasePending := [1000000, 1212100, 1424200] } }
    let taken := s.emb.phasePending.filter (fun c => (s.unit? c).any (fun u => u.g.any (fun g => decide (g < s.posWF))))
    let t := after .eindexEdge s
    s.coord.wF = s.coord.hF ∧ s.emb.lastIndex = some 2291300 ∧ s.emb.st = .syncing ∧ taken = [1000000, 1212100]
    ∧ (s.track.units.map UnitRec.c).Pairwise (fun a b => a < b) ∧ t.emb.st = .syncing ∧ t.emb.phasePending = [1424200]
    ∧ t.track.units.map UnitRec.phi = [some 200, some (reducePhase (2397299 - 2291300 - 20000) 106000), none] := by decide +kernel

/-- DriveTimerRunsOut: nine commands waiting at a PRESENT drive; no drive. -/
theorem witness_drive_lift :
    let s (st : EmbossState) : State :=
      let s : State := { syncing with emb := { syncing.emb with st := st, timer := true } }
      s.setNode 5 (fun n => { n with waiting := List.replicate 9 (.phaseTrim 1) })
    let t := after .driveTimerExpiry (s .lifting)
    let alone : State := { s .engaging with link := { syncing.link with nodes := [] } }
    (s .lifting).nodeIndex .emboss = some 5
    ∧ (s .lifting).link.nodes[5]?.map (fun n => (n.st, n.waiting.length)) = some (.present, 9)
    ∧ t.link.nodes = (s .lifting).link.nodes.set 5 { nodeOf 2 0 11 with waiting := List.replicate 9 (.phaseTrim 1) ++ [.lift] }
    ∧ alone.nodePresent .emboss = false ∧ (after .driveTimerExpiry alone).link = alone.link
    ∧ (after .driveTimerExpiry (s .engaging)).link.nodes = (s .engaging).link.nodes.set 5 { nodeOf 2 0 11 with waiting := List.replicate 9 (.phaseTrim 1) ++ [.lift] } ∧ t.emb.resent = false := by
  decide +kernel

/-- A unit at its horizon, undecided, with a request or without, for a classifying order and a run. -/
def atHorizon (requests : List Int) (run : List Int) (serial : Nat) (st : OrderState) : State :=
  let u : UnitRec := { unitAt 9 43 (some 9) with horizonAt := some 2000000, shadeAt := some 3000000 }
  let s := atCount (holding line [unitAt 5 41 (some 5), unitAt 6 42 (some 6), u]) 12000000 2000000
  let s := s.setOrder 2 (fun o => { o with st := st })
  { s with shade := { s.shade with
      queue := requests.map (fun c => { unit := c, tag := 43, st := .waiting, result := none, cycles := 0, calAtFlight := false }),
      run := run, runReadings := run.length, classifying := some { slot := 2, serial := serial },
      batches := [{ isOpen := true, ref := { l := 0, a := 0, b := 0 }, boundaryUnit := 1, lastUnit := 42, units := 3,
                    excursions := 1, rolls := 0, updates := 1 }], openBatch := some 1 } }

/-- ShadeHorizonResolves, the undecided unit outside the run: its request alone; behind another; no request and no run, with a
run, for a DONE order, and for an order that is not the classifying one. -/
theorem witness_undecided_horizon :
    let seen (s : State) := ((after (.shadeHorizon 9) s).unit? 9).map (fun u => (u.verdict, u.batch, u.shadeAt))
    (atHorizon [9] [] 1 .active).unit? 9 = some { unitAt 9 43 (some 9) with horizonAt := some 2000000, shadeAt := some 3000000 }
    ∧ (atHorizon [9] [] 1 .active).posHF = 2000000
    ∧ seen (atHorizon [9] [] 1 .active) = some (.absent, 1, some 3000000)
    ∧ seen (atHorizon [5, 9] [] 1 .active) = some (.waiting, 0, some 3000000)
    ∧ (after (.shadeHorizon 9) (atHorizon [5, 9] [] 1 .active)).shade.queue.map Request.st = [.waiting, .done]
    ∧ seen (atHorizon [] [] 1 .active) = some (.absent, 1, none)
    ∧ (after (.shadeHorizon 9) (atHorizon [] [5] 1 .active)).shade.run = [5, 9]
    ∧ seen (atHorizon [] [] 1 .done) = some (.absent, 0, none)
    ∧ seen (atHorizon [] [] 7 .active) = some (.absent, 0, none)
    ∧ (after (.shadeHorizon 9) (atHorizon [] [] 1 .active)).noticed .fault = true := by decide +kernel

/-- ReadingInOpenBatch, the opening: three readings within tolerance of their mean at a persistence of three, batch 2 of two open,
and the table with seven records. -/
theorem witness_batch_opening :
    let s : State := { runOfTwo with shade := { runOfTwo.shade with
      run := [43000000, 44000000, 45000000], runReadings := 3 } }
    let more : State := { s with shade := { s.shade with batches := List.replicate 7 (s.shade.batches.getD 0
      { isOpen := false, ref := { l := 0, a := 0, b := 0 }, boundaryUnit := 1, lastUnit := 1, units := 1, excursions := 0,
        rolls := 0, updates := 1 }) } }
    let t := s.testRun wallpaper
    s.shade.run.head? = some 43000000 ∧ (s.unit? 43000000).map UnitRec.number = some 43
    ∧ wallpaper.persistence = (s.shade.runReadings : Int) ∧ s.shade.batches.length = 2 ∧ more.shade.batches.length = 7
    ∧ s.runReadings.all (shadeWithin wallpaper.wL wallpaper.wC wallpaper.tol · { l := 5165, a := 259, b := -268 }) = true
    ∧ (s.runReadings.map Reading.l).sum = 3 * 5165 ∧ s.shade.openBatch = some 2
    ∧ t.shade.openBatch = some 3 ∧ t.readByte (0x1400 + 32 + 3) = 2
    ∧ (t.shade.batches[2]?).map (fun r => (r.isOpen, r.boundaryUnit, r.lastUnit, r.units)) = some (true, 43, 45, 3)
    ∧ t.readBytes (0x1400 + 64) 12 = [1, 0, 3, 1] ++ natBytes 2 5165 ++ natBytes 2 259 ++ intBytes 2 (-268) ++ natBytes 2 43
    ∧ (more.testRun wallpaper).shade.openBatch = some 8 := by decide +kernel

/-- ReadingInOpenBatch, the closings and the mirror: the classifying order DONE with batch 2 of two open; a change of it; the
update count at 255. -/
theorem witness_batch_closing :
    let s : State := { runOfTwo with shade := { runOfTwo.shade with
      batches := runOfTwo.shade.batches.map (fun r => { r with updates := 255 }) } }
    let k : OrderKey := { slot := 2, serial := 1 }
    s.shade.classifying = some k ∧ s.shade.openBatch = some 2 ∧ s.shade.batches.length = 2
    ∧ (s.shadeOrderDone k).shade.batches.map BatchRec.isOpen = [false, false]
    ∧ (s.changeClassifying { slot := 3, serial := 2 }).readBytes 0x1420 4 = [0, 0, 0, 0]
    ∧ (s.setBatch 2 (fun r => { r with rolls := 4 })).readBytes 0x1420 4 = [1, 0, 2, 1]
    ∧ (s.setBatch 2 (fun r => { r with rolls := 4 })).readBytes 0x1438 2 = [4, 0] := by decide +kernel

/-- LeadPointDecides with no distance left: H_F just at the cutter, the next boundary known and not known. -/
theorem witness_no_distance :
    let s := atLead 8024200 16024200 3
    let blind : State := { s with track := { s.track with units := [] } }
    s.idleEmpty = true ∧ s.rolls.queue.length + s.winder.closing.length = 3 ∧ s.winder.out = none
    ∧ truncate ((8024200 + roundHalfAway (s.setting 16 * 100000) s.feP - s.posHF) * s.feP) 1000 = 0
    ∧ s.boundaryAfter 8024200 = some 8130100 ∧ blind.boundaryAfter 8024200 = none
    ∧ (after .leadPoint s).winder.out.map (fun c => (c.x, c.deferred)) = some (8130100, true)
    ∧ (after .leadPoint blind).winder.awaitBoundary = true := by decide +kernel

/-- LeadPointDecides with one place left at the winder drive: the CUT IN takes it. -/
theorem witness_cut_in_waits :
    let s := (atLead 6012100 13812100 3).setNode 7 (fun n => { n with waiting := List.replicate 9 (.cutIn 1 9) })
    s.nodeIndex .winder = some 7 ∧ (waitingAt s 7).length = 9
    ∧ waitingAt (after .leadPoint s) 7 = List.replicate 9 (.cutIn 1 9) ++ [.cutIn 1000000 1] := by decide +kernel

/-- RollHandedOver: a roll with no units whose order's copy is held, and one whose copy is gone; a roll of an ACTIVE order is
counted. -/
theorem witness_copy_held :
    let c : ClosingRoll := { roll := { start := 5, opening := Reasons.none, spindle := .a, units := [] }, stop := 9,
                             close := Reasons.none, deferred := false, removed := false }
    let held : State := { line with rolls := { line.rolls with lastOrder := { slot := 2, serial := 1 } } }
    let full : ClosingRoll := { c with roll := { c.roll with units := [unitAt 5 1 (some 5)] } }
    (held.orderKey 2 = { slot := 2, serial := 1 } ∧ (held.order 2).body.isSome = true ∧ held.copyHeld c = true)
    ∧ line.copyHeld c = false ∧ (line.composeReported c).ord = line.ord
    ∧ (line.composeReported full).readBytes 0x0574 4 = [1, 0, 2, 0] ∧ ((line.composeReported full).order 2).produced = 1
    ∧ (2 : Nat) < line.ord.orders.length := by decide +kernel

/-- LineResetValues with a closing roll that has units: LINE RESET composes and counts it (R108, R131, R183). -/
theorem test_line_reset_counts :
    let s := winding 2000000 2100000
    let t := after .lineReset s
    (t.order 2).produced = 1 ∧ t.readBytes 0x0574 2 = [1, 0] ∧ t.readNat 0x0E 2 = 1
    ∧ s.winder.closing.map (fun c => c.roll.units.length) = [1] ∧ t.freeIdx = s.freeIdx := by decide +kernel

/-- An ENDING order in slot 2 whose end is not fixed, with units at span starts 100 and 200, and a TAKEN order in slot 3. -/
def ending (other : OrderBody) : State :=
  let s := line.setOrder 2 (fun o => { o with st := .ending })
  let s := s.setOrder 3 (fun _ => { OrderRec.reset with st := .taken, serial := 2, body := some other })
  holding s [unitAt 5 1 (some 100), unitAt 6 2 (some 200), unitAt 7 3 none]

/-- RequestPlaced, the order unit's part: no head of the same geometry; a flying changeover with the first unit at E itself, and
with no unit at or beyond it; a later report. -/
theorem witness_end_fixed :
    let other : OrderBody := { wallpaper with pitch := 81 }
    let stopped := (ending other).takeReport (.orderEnd 2 200 false)
    let flown := (ending wallpaper).takeReport (.orderEnd 2 200 false)
    let flying := (ending wallpaper).takeReport (.orderEnd 2 201 false)
    (2 : Nat) < (ending other).ord.orders.length ∧ ((ending other).order 2).e = none
    ∧ (ending other).flyingHead 2 = none ∧ (ending wallpaper).flyingHead 2 = some 3
    ∧ ((ending wallpaper).order 2).st = .ending
    ∧ (stopped.order 2).changeover = .stopped ∧ stopped.ord.waste = true
    ∧ stopped.track.units.map (fun u => u.flags.changeover) = [false, true, true]
    ∧ stopped.readBytes 0x057A 6 = [200, 0, 0, 0, 0, 0]
    ∧ (flown.order 2).changeover = .flown ∧ flown.ord.active = some 3 ∧ (flown.order 3).s0 = some 200
    ∧ flown.track.units.map (fun u => (u.order, u.number)) = [(2, 1), (3, 1), (3, 2)] ∧ (flown.order 3).nextUnit = 3
    ∧ (flying.order 2).changeover = .flying ∧ flying.ord.active = some 2
    ∧ (stopped.order 2).e = some 200 ∧ stopped.takeReport (.orderEnd 2 300 false) =
        stopped.setOrder 2 (fun o => { o with endAt := some 300 }) := by decide +kernel

/-- A reply of the winder drive: both spindle codes, an event with its number, a residual. -/
def winderReply (event number : Byte) : List Byte := [0, 0x57, 1, 0, event, number, 0xF6, 0xFF, 0xFF, 0xFF]

/-- CutDoneClosesRoll, the replies: a cut outstanding and event 1 with a new number, an old one, and none; no cut outstanding;
the two removals; ORDER_END with a stopped changeover. -/
theorem witness_winder_reply :
    let s := after .leadPoint (atLead 6012100 13812100 2)
    let free := atLead 6012100 13812100 2
    let r (seq : Nat) (removed : Bool) : RollRec := { roll215 with seq := seq, spindle := .b, label := .printed, removed := removed }
    let rolls : State := { s with rolls := { s.rolls with queue := [r 1 true, r 2 false, r 3 false] } }
    let closing := winding 2000000 2100000
    let done : State := (ending wallpaper).setOrder 2 (fun o => { o with endAt := some 300, changeover := .stopped })
    s.link.nodes[7]?.map (fun n => (n.kind, n.lastEvent)) = some (5, 0) ∧ s.ownerOf 7 = some .winder ∧ s.winder.out.isSome = true
    ∧ (s.deliver 7 (winderReply 1 1)).winder.out = none ∧ (s.deliver 7 (winderReply 1 1)).winder.residual = -10
    ∧ (s.deliver 7 (winderReply 1 0)).winder.out = s.winder.out ∧ (s.deliver 7 (winderReply 0 1)).winder.out = s.winder.out
    ∧ (free.deliver 7 (winderReply 1 1)).winder.roll = free.winder.roll
    ∧ (rolls.deliver 7 (winderReply 3 1)).rolls.queue.map (fun q => (q.removed, q.label))
      = [(true, .printed), (true, .applied), (false, .printed)]
    ∧ (rolls.deliver 7 (winderReply 2 1)).rolls.queue = rolls.rolls.queue
    ∧ (closing.rollRemoved .a).winder.closing.map ClosingRoll.removed = [true] ∧ closing.rollRemoved .b = closing
    ∧ (rolls.rolls.queue.map RollRec.seq).Nodup
    ∧ (done.order 2).st = .ending ∧ done.endOrders 299 = done ∧ ((done.endOrders 300).order 2).st = .done
    ∧ (done.endOrders 300).readBytes 0x0571 8 = [5, 0, 0, 0, 0, 0, 0, 1] ∧ (done.endOrders 300).ord.hold = true
    ∧ (done.endOrders 300).fault.st = .stopped ∧ (done.endOrders 300).ord.active = none := by decide +kernel

/-- LinkCycleSendsFrame: a chain of 14 with 12 nodes in the table. -/
theorem witness_long_chain :
    let s : State := { line with link := { Link.reset with enumerating := false, n := 14, nodes := List.replicate 12 (nodeOf 1 1 9) } }
    let t := after .linkCycle s
    s.link.nodes.length = min s.link.n 12 ∧ s.link.enumerating = false ∧ s.link.out = none
    ∧ t.link.out.map (fun f => f.slots.length) = some 14 ∧ t.link.tx.length = 146 := by decide +kernel

/-- CycleFrameJudged: a command to a node whose count is not settled, not executed; IDLE to an unsettled node, to one in step, and to
one that is not. -/
theorem witness_unsettled_judged :
    let s (settled : Bool) : State := (chained line).setNode 0 (fun n => { n with settled := settled })
    let idle : SentSlot := { bytes := slotOf [0, 3], carries := .idle }
    let trim : SentSlot := { bytes := slotOf [6, 4], carries := .command (.drawTrim 472) }
    let l (b : Byte) : List Byte := [0, b, 1, 0, 0, 0, 0, 0, 0, 0]
    let seen (t : State) := (t.link.nodes[0]?.map (fun n => (n.expected, n.settled)), t.noticed .fault)
    (s false).link.nodes[0]?.map (fun n => (n.st, n.kind, n.expected)) = some (.present, 3, 3)
    ∧ seen ((s false).judgeReply 0 trim (l 0x35)) = (some (5, true), true)
    ∧ seen ((s false).judgeReply 0 trim (l 0x34)) = (some (4, true), false)
    ∧ seen ((s false).judgeReply 0 idle (l 0x35)) = (some (5, true), false)
    ∧ seen ((s true).judgeReply 0 idle (l 0x33)) = (some (3, true), false)
    ∧ seen ((s true).judgeReply 0 idle (l 0x35)) = (some (5, true), true) := by decide +kernel

/-- BadFrameUnheard, the losses: PHASE TRIM of a settling station; the emboss drive's three; DRAW TRIM; CUT IN of another cut, of one
with distance left, and of one sent twice. -/
theorem witness_slot_lost :
    let s := chained line
    let settling : State := s.setLoop 3 (fun l => { l with st := .settling, settle := 4 })
    let cut := after .leadPoint (atLead 6012100 13812100 2)
    let sent : State := cut.setNode 7 (fun n => { n with waiting := List.replicate 9 (.cutIn 1 9) })
    let twice := sent.slotLost 7 (.command (.cutIn 5 1))
    s.ownerOf 3 = some (.station 3) ∧ s.ownerOf 5 = some .emboss ∧ s.ownerOf 0 = some .draw ∧ s.ownerOf 7 = some .winder
    ∧ ((settling.slotLost 3 (.command (.phaseTrim 1))).loop 3).st = .tracking
    ∧ (settling.slotUnanswered 3 (.command (.phaseTrim 1))).link.nodes[3]?.map (fun n => (n.settled, n.silent)) = some (false, 1)
    ∧ (s.slotUnanswered 3 .configure).link.nodes[3]?.map (fun n => (n.settled, n.silent)) = some (false, 1)
    ∧ sent.winder.out.map (fun c => (c.serial, c.resent)) = some (1, false) ∧ 0 < sent.remaining 6012100
    ∧ sent.slotLost 7 (.command (.cutIn 5 2)) = sent
    ∧ waitingAt twice 7 = List.replicate 9 (.cutIn 1 9) ++ [.cutIn 1000000 1]
    ∧ twice.winder.out.map OutstandingCut.resent = some true
    ∧ (twice.slotLost 7 (.command (.cutIn 5 1))).winder.out = none := by decide +kernel

/-- RaiseAndClear, the fault list: a fresh raise with slot 0 taken; with no slot free; a second raise of a condition and of an event;
a clear; a slot whose next tag is the ack tag. -/
theorem witness_fault_list :
    let first := line.raiseCore drawLimitFault 0
    let full : State := { line with fault := { line.fault with free := List.replicate 32 false } }
    let event := line.raiseCore commandLost 5
    let acked : State := { line with mem := memStore line.mem 0x1500 [255, 0, 1] }
    first.readBytes 0x1500 12 = [1, 0, 0, 0, 1, 0, 25, 0, 1, 0, 1, 0] ∧ first.noticed .fault = true
    ∧ first.fault.free[0]? = some false ∧ first.activeEntry drawLimitFault 0 = some 0
    ∧ (first.raiseCore commandLost 5).readBytes 0x1520 12 = [1, 0, 0, 0, 2, 0, 19, 5, 2, 0, 1, 0]
    ∧ (full.raiseCore drawLimitFault 0).readNat 0x0C 2 = 1 ∧ (full.raiseCore drawLimitFault 0).fault.entrySeq = 1
    ∧ (first.raiseCore drawLimitFault 0).readBytes 0x1500 12 = [2, 0, 0, 0, 1, 0, 25, 0, 1, 0, 2, 0]
    ∧ event.joinableEntry commandLost 5 = some 0
    ∧ (event.raiseCore commandLost 5).readBytes 0x1500 12 = [2, 0, 0, 0, 1, 0, 19, 5, 2, 0, 2, 0]
    ∧ (first.clearCore drawLimitFault 0).readBytes 0x1500 10 = [2, 0, 0, 0, 1, 0, 25, 0, 2, 0]
    ∧ (acked.raiseCore drawLimitFault 0).readBytes 0x1500 1 = [2] := by decide +kernel

/-- PostAnswered, the order unit's acts: the lowest sequence number of two TAKEN orders; an order that runs; withdrawals of a TAKEN
order, of an ACTIVE one without units, and of one with them, with and without its second span start; an order retired and one
still in use. -/
theorem witness_orders :
    let taken (n seq : Nat) (s : State) : State := s.setOrder n (fun _ => { OrderRec.reset with
      st := .taken, serial := n, body := some { wallpaper with seq := seq } })
    let free := taken 5 40 (taken 2 41 { posted with ord := OrderUnit.reset })
    let going (s1 : Option Int) : State := line.setOrder 2 (fun o => { o with hasUnits := true, s0 := some 100, s1 := s1 })
    let done := line.setOrder 2 (fun o => { o with st := .done })
    free.port.phase = .operating ∧ (∀ o ∈ free.ord.orders, o.st ≠ .active ∧ o.st ≠ .ending) ∧ free.ord.hold = false
    ∧ free.testActivation.ord.active = some 5 ∧ line.testActivation = line
    ∧ ((free.withdraw 2).order 2).st = .withdrawn ∧ ((free.withdraw 2).order 2).body = none
    ∧ (line.order 2).hasUnits = false ∧ ((line.withdraw 2).order 2).st = .done ∧ (line.withdraw 2).readByte 0x0578 = 2
    ∧ (((going none).withdraw 2).order 2).endWanted = true ∧ (((going none).withdraw 2).order 2).st = .ending
    ∧ ((going (some 200)).withdraw 2).cut.awaiting.map CutRequest.kind = [.orderEnd 2]
    ∧ (done.inUse 2 = false ∧ (done.discardCopies.order 2).body = none)
    ∧ ((holding done [unitAt 5 1 none]).inUse 2 = true
        ∧ ((holding done [unitAt 5 1 none]).discardCopies.order 2).body = some wallpaper) := by decide +kernel

/-- R151: a node of kind 0 is no 'no node'. -/
theorem test_kind_zero_differs :
    let s : State := { line with link := { Link.reset with n := 1, nodes := [nodeOf 0 0 0] } }
    s.positionDiffers 1 = true ∧ s.positionDiffers 2 = decide (s.arrangement 2 ≠ 0) ∧ State.reset.arrangement 1 = 0 := by
  decide +kernel

/-- R104, R102: a forced entry that goes to the next boundary takes TARGET out of the entry beyond. -/
theorem test_forced_deferral :
    let e (x : Int) (r : Reasons) : PlanEntry := { x := x, reasons := r, deferred := false }
    let s : State := { line with cut := { line.cut with plan :=
      [e 100 { Reasons.none with batch := true }, e 400 { Reasons.none with target := true }] } }
    (s.deferEntry (e 100 { Reasons.none with batch := true }) 200).cut.plan.map (fun e => (e.x, e.deferred)) = [(200, true)] := by
  decide +kernel

/-- R89, R95: a first TARGET joins an entry at its coordinate while another request waits for room; a retry does not. -/
theorem test_target_joins :
    let e : PlanEntry := { x := 300, reasons := { Reasons.none with batch := true }, deferred := false }
    let s (drop : Bool) : State := { line with cut := { line.cut with
      plan := [e], full := [{ kind := .changeover, coordinate := some 9 }], cursor := 300, targetDrop := drop } }
    (s false).placeTarget.cut.plan.map (fun e => e.reasons.target) = [true] ∧ (s true).placeTarget = s true := by decide +kernel

/-- R107: a new lead does not move the armed threshold that a blocked entry is judged by. -/
theorem test_armed_threshold :
    let s := after .leadPoint (atLead 8024200 15824200 4)
    let t := setTo s 48 5000
    t.leadReached 8024200 = true ∧ t.posHF < t.leadPoint 8024200 := by decide +kernel

/-- A cut outstanding with `x` the earliest entry behind it, its lead event armed `d` counts above H_F, and the cutter lead then
made shorter, so that the entry lies beyond its new lead point. -/
def behindCut (x d : Int) : State :=
  let s := atLead x 15824200 0
  setTo { s with winder := { s.winder with
    spindles := some (.empty, .empty), st := .cutIssued, cutSerial := 4,
    lead := some { entry := x, threshold := s.posHF + d, fired := false },
    out := some { x := 6012100, reasons := Reasons.none, deferred := false, missAfter := 15824199, resent := false, receiver := .b,
                  serial := 4 } } } 48 5000

/-- R98, R100, R101, R107: the event armed before LEAVE CONFIG keeps its threshold over a CUT DONE and over a cut given up. An entry
whose threshold is reached exactly is decided at once and committed; one count below, the event stays armed as it was. (With no
boundary known the cut given up waits, and the entry stays where it is.) -/
theorem test_lead_kept :
    let done (d : Int) : State := (behindCut 8024200 d).cutDone 0
    let missed (d : Int) : State := after .cutMissedThreshold (holding (behindCut 8024200 d) [])
    (behindCut 8024200 0).posHF < (behindCut 8024200 0).leadPoint 8024200
    ∧ (done 0).winder.out.map OutstandingCut.x = some 8024200 ∧ (done 0).winder.st = .cutIssued
    ∧ (done 1).winder.out = none ∧ (done 1).winder.st = .winding
    ∧ (done 1).winder.lead = some { entry := 8024200, threshold := 15824201, fired := false }
    ∧ (missed 0).winder.out.map OutstandingCut.x = some 8024200
    ∧ (missed 1).winder.out = none ∧ (missed 1).winder.lead = (done 1).winder.lead := by decide +kernel

/-- CutDoneClosesRoll, the lead event after the cut: one that has fired, and one that has not. -/
theorem witness_lead_after_cut :
    let s (d : Int) := (behindCut 8024200 d).cutLeft
    (s 0).winder.lead.map LeadEvent.fired = some true ∧ (s 1).winder.lead.map LeadEvent.fired = some false
    ∧ (s 0).winder.st = .winding ∧ (s 0).winder.awaitBoundary = false
    ∧ (s 0).cut.plan.map PlanEntry.x = [8024200] ∧ (s 0).winder.lead.map LeadEvent.entry = some 8024200 := by decide +kernel

/-- R90, R133: the roll's order in the count goes with its first unit to the next order, and stays when that unit is kept. It holds
when the unit has left the track. RequestPlaced: E′ equals E with the first counted unit reassigned. -/
theorem test_count_order_flies :
    let s (first : Int) : State := { ending wallpaper with
      cut := { line.cut with k := some 100, first := some first, rollOrder := 2, cursor := 300 } }
    let flown (first : Int) : State := (s first).takeReport (.orderEnd 2 200 false)
    (flown 6).cut.rollOrder = 3 ∧ (flown 7).cut.rollOrder = 3 ∧ (flown 5).cut.rollOrder = 2
    ∧ (holding (flown 6) []).countOrder = 3 := by decide +kernel

/-- R79, R133: a unit whose g comes when H_F is at its horizon is decided under the ending order and E′ waits for a later one; one
count before, E′ is fixed at it. -/
theorem test_horizon_before_flight :
    let flying (hF : Nat) : State := atCount ((ending wallpaper).takeReport (.orderEnd 2 201 false)) 0 hF
    let s (hF : Nat) : State := (flying hF).setG 7 300 false
    let horizon : Int := 300 + (flying 0).yCut - (flying 0).leadF
    horizon < 9000000 ∧ 0 < horizon
    ∧ ((s horizon.toNat).unit? 7).map (fun u => (u.order, u.verdict)) = some (2, .absent)
    ∧ ((s horizon.toNat).order 2).changeover = .flying
    ∧ ((s (horizon.toNat - 1)).unit? 7).map (fun u => (u.order, u.verdict)) = some (3, .waiting) := by decide +kernel

/-- An open waste segment from 100, with requests of several kinds placed before its end at 300 is known. -/
def openSegment (later : List Segment) (entries : List PlanEntry) : State :=
  { line with cut := { line.cut with
      segments := { start := 100, tail := 250, stop := none } :: later,
      plan := { x := 100, reasons := { Reasons.none with spliceBefore := true }, deferred := false } :: entries } }

/-- An entry of one kind. -/
def entryOf (x : Int) (kind : CutKind) : PlanEntry := { x := x, reasons := kind.reasons, deferred := false }

/-- R94: BATCH inside the segment is dropped; ORDER_END and CHANGEOVER inside join the entry at the end, beside SPLICE_AFTER and the
BATCH that stood there; what lies beyond is left. RequestPlaced: the entries at 101 and 299, and the entry at the end. -/
theorem test_segment_closes :
    let s := openSegment [] [entryOf 101 .batch, entryOf 102 (.orderEnd 2), entryOf 299 .changeover, entryOf 300 .batch,
      entryOf 400 (.orderEnd 2)]
    let t := s.closeSegment { start := 100, tail := 250, stop := none } 300
    t.cut.plan.map PlanEntry.x = [100, 300, 400]
    ∧ (t.entryAt 300).map PlanEntry.reasons = some { Reasons.none with
        batch := true, orderEnd := true, changeover := true, spliceAfter := true }
    ∧ t.cut.segments = [{ start := 100, tail := 250, stop := some 300 }]
    ∧ t.cut.reports = [.moved 102 300] := by decide +kernel

/-- R94: with the start of a later splice inside, the end loses SPLICE_AFTER and the joined segment is open again; an ORDER_END that
stood before or behind that start still goes to the end. -/
theorem test_segments_join :
    let t (x : Int) := State.finishClose (openSegment [{ start := 200, tail := 450, stop := none }]
      (if x < 200 then [entryOf x (.orderEnd 2), entryOf 200 (.spliceBefore 450), entryOf 300 .spliceAfter]
       else [entryOf 200 (.spliceBefore 450), entryOf x (.orderEnd 2), entryOf 300 .spliceAfter])) 100 300
    ∀ x ∈ [150, 250], (t x).cut.plan = [entryOf 100 (.spliceBefore 250), entryOf 300 (.orderEnd 2)]
      ∧ (t x).cut.segments = [{ start := 100, tail := 450, stop := none }] := by decide +kernel

/-- A closed waste segment from 100 to 300 with a TARGET beyond it at 500, after `n` entries that come before it. -/
def closedSegment (n : Nat) : State :=
  let s := openSegment [] [entryOf 300 .spliceAfter, entryOf 500 .target]
  { s with cut := { s.cut with
      segments := [{ start := 100, tail := 250, stop := some 300 }],
      plan := (List.range n).map (fun (i : Nat) => entryOf (i + 1 : Int) .batch) ++ s.cut.plan } }

/-- R89, then R94, for a request inside a closed segment: TARGET beyond is lost whatever becomes of the request (rule 3); a full plan
raises CUT_PLAN_FULL, drops a BATCH and keeps an ORDER_END waiting at its own coordinate (rule 4); with room a BATCH is dropped, an
ORDER_END joins the end and is reported there, and a later SPLICE_BEFORE joins the segments. -/
theorem test_lands_in_closed_segment :
    let t (n : Nat) (kind : CutKind) : State := (closedSegment n).takeAt kind 200 false
    let plan (n : Nat) : List PlanEntry := (closedSegment n).cut.plan.take (n + 2)
    (t 0 .batch).cut.plan = plan 0 ∧ (t 0 .batch).faultActive cutPlanFull 0 = false
    ∧ (t 0 (.orderEnd 2)).cut.plan.map PlanEntry.reasons = [(CutKind.spliceBefore 0).reasons,
        (CutKind.orderEnd 2).reasons.union CutKind.spliceAfter.reasons]
    ∧ (t 0 (.orderEnd 2)).cut.reports = [.orderEnd 2 300 false]
    ∧ (t 0 (.spliceBefore 450)).cut.plan = [entryOf 100 (.spliceBefore 250)]
    ∧ (t 0 (.spliceBefore 450)).cut.segments = [{ start := 100, tail := 450, stop := none }]
    ∧ (t 14 .batch).cut.plan = plan 14 ∧ (t 14 .batch).faultActive cutPlanFull 0 = true
    ∧ (t 14 (.orderEnd 2)).cut.plan = plan 14
    ∧ (t 14 (.orderEnd 2)).cut.full = [{ kind := .orderEnd 2, coordinate := some 200 }]
    ∧ ((t 14 (.orderEnd 2)).setPlan ((plan 14).drop 1)).fullStep.map (fun s => (s.entryAt 300).map PlanEntry.reasons)
        = some (some ((CutKind.orderEnd 2).reasons.union CutKind.spliceAfter.reasons)) := by decide +kernel

/-- R94: a request held while the segment was open is merged without R89 at its own coordinate: TARGET beyond stays, and nothing is
raised on a full plan. -/
theorem test_held_merges :
    let s := closedSegment 13
    let t (kind : CutKind) : State := State.finishClose { s with cut := { s.cut with
      segments := [{ start := 100, tail := 250, stop := none }], held := [{ kind := kind, coordinate := some 200 }] } } 100 300
    (t .batch).cut.plan = s.cut.plan ∧ (t .batch).faultActive cutPlanFull 0 = false
    ∧ (t .changeover).cut.plan.map PlanEntry.x = s.cut.plan.map PlanEntry.x
    ∧ ((t .changeover).entryAt 300).map PlanEntry.reasons = some (CutKind.changeover.reasons.union CutKind.spliceAfter.reasons)
    := by decide +kernel

/-- RequestPlaced, a request that lands in a closed segment, with room and without. -/
theorem witness_lands_in_closed_segment :
    ∀ n ∈ [0, 13, 14], let s := closedSegment n
      s.holding .batch 299 = false ∧ s.segmentAround 299 = some 300 ∧ s.segmentAround 101 = some 300
      ∧ s.segmentAround 300 = none ∧ s.segmentAround 100 = none
      ∧ (s.winder.roll.all (fun r => decide (r.start ≠ 299 ∧ r.start ≠ 101 ∧ r.start ≠ 300))) = true
      ∧ s.entryAt 299 = none ∧ s.entryAt 101 = none ∧ s.entryAt 300 = some (entryOf 300 .spliceAfter) := by decide +kernel

/-- RequestPlaced, the closing of a segment: a plan in rising order with SPLICE_AFTER at the end. -/
theorem witness_segment_closes :
    let s := openSegment [] [entryOf 101 .changeover, entryOf 300 .spliceAfter]
    s.cut.plan.Pairwise (fun p q => p.x < q.x) ∧ s.cut.held = []
    ∧ s.entryAt 101 = some (entryOf 101 .changeover) ∧ s.entryAt 300 = some (entryOf 300 .spliceAfter)
    ∧ (∀ q ∈ s.cut.plan, 100 < q.x → q.reasons.spliceBefore = false) := by decide +kernel

/-- R104, R109: two rolls with no units after the last roll of an order whose copy is discarded run on in its numbers and carry its
values; the last roll number continues at 1 after 65 535. RollHandedOver: the premise of such a roll. -/
theorem test_roll_numbers_run_on :
    let c : ClosingRoll := { roll := { start := 5, opening := Reasons.none, spindle := .a, units := [] }, stop := 9,
                             close := Reasons.none, deferred := false, removed := false }
    let first (last : Nat) : State :=
      ((line.setOrder 2 (fun o => { o with lastRoll := last })).compose
        { c with roll := { c.roll with units := [unitAt 5 1 (some 5)] } }).setOrder 2 (fun o => { o with body := none, lastRoll := 0 })
    let t (last : Nat) : State := ((first last).composeReported c).composeReported c
    (first 6).copyHeld c = false ∧ (first 6).rolls.lastComposed.map ComposedRoll.number = some 7
    ∧ (t 6).rolls.queue.map (fun r => (r.rollNumber, r.template, r.order.slot)) = [(7, 2, 2), (8, 2, 2), (9, 2, 2)]
    ∧ (t 65533).rolls.queue.map RollRec.rollNumber = [65534, 65535, 1] ∧ (t 6).freeIdx = line.freeIdx := by decide +kernel

/-- R141, R146, R152: a MISMATCHED emboss drive shows its table kind again. Its counter is judged and its value is not delivered; a
restart is seen, and the node stays MISMATCHED. CycleFrameJudged: its hypotheses, with the other kind too. -/
theorem test_mismatched_judged :
    let s := (chained line).setNode 5 (fun n => { n with st := .mismatched })
    let idle : SentSlot := { bytes := slotOf [0, 11], carries := .idle }
    let seen (kind counter : Byte) : State := s.judgeReply 5 idle [0, kind ||| counter, 1, 1, 0, 0, 0, 0, 0, 0]
    let node (x : State) := (x.link.nodes[5]?).map (fun n => (n.st, n.expected))
    s.link.nodes[5]?.map (fun n => (n.st, n.kind, n.expected, n.settled)) = some (.mismatched, 2, 11, true)
    ∧ node (seen 0x20 11) = some (.mismatched, 11) ∧ (seen 0x20 11).emb = s.emb
    ∧ node (seen 0x20 9) = some (.mismatched, 9) ∧ (seen 0x20 9).noticed .fault = true
    ∧ node (seen 0x20 0) = some (.mismatched, 0) ∧ (seen 0x20 0).noticed .fault = true
    ∧ node (seen 0x10 0) = some (.mismatched, 11) ∧ (seen 0x10 0).noticed .fault = false := by decide +kernel

/-- Station 3 SETTLING over its last unit, whose block is due to close with a mark at `e`. -/
def lastSettleUnit (e : Int) : State :=
  let s := withBlock (atCount line 60000 0) { openBlock [(3, 10000 + 20000 + e)] with closeAfter := 50000 }
  s.setLoop 3 (fun l => { l with st := .settling, settle := 1, e16 := 77, lastE := none })

/-- R39, R40: the lost-trim report and the last settle unit together, in either order: TRACKING with reload pending, the mark measured
and not used for E_s, and no trim handed on. Where the block is not yet due the mark that follows the loss is used for the reload. -/
theorem test_lost_trim_with_last_unit :
    let loop (s : State) := (s.loop 3).st = .tracking ∧ (s.loop 3).reload = true ∧ (s.loop 3).e16 = 77
      ∧ (s.loop 3).lastE.isSome ∧ s.link.nodes = line.link.nodes
    loop (after .blockClose ((lastSettleUnit 90).printTrimLost 3))
    ∧ loop ((after .blockClose (lastSettleUnit 90)).printTrimLost 3)
    ∧ ((after .blockClose ((lastSettleUnit 90).printTrimLost 3)).loop 3).spent = none
    ∧ ((atCount (lastSettleUnit 90) 40000 0).printTrimLost 3 |>.loop 3).spent = none := by decide +kernel

/-- R97, R102: the entry that blocks a STALLED winder leaves the plan, and the next one is not at its lead point. -/
theorem test_blocked_entry_left :
    let s := atLead 300 0 0
    let stalled : State := { s with
      cut := { s.cut with plan := [entryOf 9000000 .batch] },
      winder := { s.winder with
        st := .stalled, blocked := { spindle := true, queue := false, cut := false },
        lead := some { entry := 300, threshold := 0, fired := true } } }
    (stalled.leadStep).map (fun t => (t.winder.st, t.winder.blocked.clear, t.winder.lead.map LeadEvent.entry))
      = some (.winding, true, some 9000000) := by decide +kernel

/-- R123, R125: a slot with another command than POST and WITHDRAW is passed over, so the post is not refused anew; WITHDRAW and a tag
written back end it. -/
theorem test_busy_post_outstanding :
    let s (tag command : Byte) : State := (State.setOrder { line with mem := memStore line.mem 0x0500 [tag, command] } 2
      (fun o => { o with busyTag := 9 })).dropBusy 2
    ((s 9 1).order 2).busyTag = 9 ∧ ((s 9 7).order 2).busyTag = 9 ∧ ((s 9 2).order 2).busyTag = 0
    ∧ ((s 0 1).order 2).busyTag = 0 := by decide +kernel

/-- CycleFrameJudged: replies of the emboss drive: CONFIGURE executed, not executed for its counter and for its status (R143); a restart
(R147); another kind (R152); and frames with a hop count other than the table's (R153), with ARRANGEMENT active before and not. -/
theorem witness_node_replies :
    let s (st : NodeState) := (chained line).setNode 5 (fun n => { n with st := st, waiting := if st = .present then [.lift] else [] })
    let configure : SentSlot := { bytes := slotOf [2, 12], carries := .configure }
    let l (status head : Byte) : List Byte := [status, head, 1, 1, 0, 0, 0, 0, 0, 0]
    let node (x : State) := (x.link.nodes[5]?).map (fun n => (n.st, n.expected, n.waiting))
    (s .configuring).link.nodes[5]?.map (fun n => (n.st, n.kind, n.expected)) = some (.configuring, 2, 11)
    ∧ node ((s .configuring).judgeReply 5 configure (l 0 0x2C)) = some (.present, 12, [.lift])
    ∧ node ((s .configuring).judgeReply 5 configure (l 1 0x2C)) = some (.configuring, 12, [])
    ∧ node ((s .configuring).judgeReply 5 configure (l 0 0x2B)) = some (.configuring, 11, [])
    ∧ node ((s .present).judgeReply 5 { configure with carries := .idle } (l 0 0x20)) = some (.configuring, 0, [])
    ∧ node ((s .present).judgeReply 5 { configure with carries := .idle } (l 0 0x1B)) = some (.mismatched, 11, [])
    ∧ (s .present).port.phase = .operating
    ∧ ((s .present).judgeReply 5 configure (l 0 0x1B)).faultActive arrangementFault 6 = true
    ∧ (let out := after .linkCycle (s .present)
      out.link.out.map Frame.enumerate = some false ∧ out.link.n = 8 ∧ out.faultActiveAny arrangementFault = false
      ∧ (after (.frameReturn 6 []) out).faultActive arrangementFault 7 = true
      ∧ (after (.frameReturn 9 []) (out.raise arrangementFault 2)).faultActive arrangementFault 9 = false) := by decide +kernel

/-- SweepsAskedAndEnded: the slots with WITHDRAW and those with a new post, ordered by the sequence numbers of their bodies. -/
theorem witness_sweep_orders :
    let s : State := { posted with mem := memStore (memStore (memStore posted.mem 0x0600 ([3, 1] ++ posted.readBytes 0x0502 110))
      0x0480 ([5, 1] ++ posted.readBytes 0x0682 110)) 0x0700 [0, 2] }
    (List.range 8).filter s.newPost = [1, 2, 4, 5] ∧ (List.range 8).filter (fun n => decide (s.readByte (0x0401 + 128 * n) = 2)) = [6]
    ∧ sortBy (fun n => (s.readBody n).seq) [1, 2, 4, 5] = [2, 4, 1, 5] := by decide +kernel

end Sys2Proof.Tests
end

section
/-! PROOFS. The class flags of a roll record (R105, R106): the bits of a flag word, the bit of each class, and what each class
says of the closed roll. -/

namespace Sys2Proof.Proofs.RollClasses
open Sys2Proof.Machine

/-! ## The bits of a flag word (6.3.1) -/

/-- A flag word is its first flag as bit 0, before the word of the others. -/
theorem flagWord_cons (b : Bool) (bs : List Bool) : flagWord (b :: bs) = Nat.bit b (flagWord bs) := by
  cases b <;> simp [flagWord, Nat.bit_val]; omega

theorem testBit_flagWord (bs : List Bool) (i : Nat) : (flagWord bs).testBit i = bs.getD i false := by
  induction bs generalizing i with
  | nil => simp [flagWord]
  | cons b bs ih =>
    rw [flagWord_cons]
    cases i with
    | zero => exact Nat.testBit_bit_zero b _
    | succ i => rw [Nat.testBit_bit_succ, ih, List.getD_cons_succ]

/-- Bit `i` of the 16-bit word of a list of flags is flag `i`. -/
theorem getLsbD_flagWord (bs : List Bool) {i : Nat} (hi : i < 16) :
    (BitVec.ofNat 16 (flagWord bs)).getLsbD i = bs.getD i false := by
  rw [BitVec.getLsbD_ofNat, testBit_flagWord, decide_eq_true hi, Bool.true_and]

/-! ## The bit of each class in the roll flags (R112) -/

section
variable (c : ClosingRoll) (targetF remnantF : Int) (excursions limit : Nat)

@[simp] theorem rollFlags_short : (rollFlags c targetF remnantF excursions limit).getLsbD 0 = c.short targetF :=
  getLsbD_flagWord _ (by decide)

@[simp] theorem rollFlags_remnant : (rollFlags c targetF remnantF excursions limit).getLsbD 1 = c.remnant remnantF :=
  getLsbD_flagWord _ (by decide)

@[simp] theorem rollFlags_waste : (rollFlags c targetF remnantF excursions limit).getLsbD 2 = c.waste :=
  getLsbD_flagWord _ (by decide)

@[simp] theorem rollFlags_overlength : (rollFlags c targetF remnantF excursions limit).getLsbD 10 = c.overlength :=
  getLsbD_flagWord _ (by decide)

end

/-- The flags of a composed record are judged with the record's own target and the remnant setting, both in FE counts (5.2). -/
theorem rollRecord_flags (s : State) (c : ClosingRoll) (seq number : Nat) :
    ∃ excursions limit, (s.rollRecord c seq number).flags =
      rollFlags c (roundHalfAway ((s.recordBody c).target * 100000) s.feP) (roundHalfAway (s.setting 50 * 100000) s.feP)
        excursions limit :=
  ⟨_, _, rfl⟩

/-! ## What each class says of the closed roll (R105, R106) -/

/-- The finished length of a roll is the sum of its units' finished lengths. -/
theorem roll_length_eq_sum (r : Roll) : r.length = (r.units.map (fun u => u.lFin.getD 0)).sum := by
  rw [Roll.length, List.sum_eq_foldl, List.foldl_map]

theorem short_iff (c : ClosingRoll) (targetF : Int) :
    c.short targetF = true ↔ c.close.target = false ∧ c.roll.length < targetF := by
  simp [ClosingRoll.short]

theorem remnant_iff (c : ClosingRoll) (remnantF : Int) : c.remnant remnantF = true ↔ c.roll.length < remnantF := by
  simp [ClosingRoll.remnant]

theorem overlength_iff (c : ClosingRoll) : c.overlength = true ↔ c.deferred = true ∧ c.close.target = true := by
  simp [ClosingRoll.overlength]

/-- Two members differ under `f` somewhere in a list exactly when a later member differs from the first. -/
theorem exists_ne_first_iff {α β : Type} (f : α → β) (a : α) (l : List α) :
    (∃ v ∈ l, f v ≠ f a) ↔ ∃ u ∈ a :: l, ∃ v ∈ a :: l, f u ≠ f v := by
  constructor
  · rintro ⟨v, hv, hne⟩
    exact ⟨v, List.mem_cons_of_mem a hv, a, List.mem_cons_self, hne⟩
  · rintro ⟨u, hu, v, hv, hne⟩
    by_contra! hall
    have same (x : α) (hx : x ∈ a :: l) : f x = f a := by
      obtain rfl | hx := List.mem_cons.mp hx
      · rfl
      · exact hall x hx
    exact hne ((same u hu).trans (same v hv).symm)

/-- The causes of WASTE in the order of R105; the last two look at the roll's units from the first on. -/
theorem waste_iff (c : ClosingRoll) :
    c.waste = true ↔ (c.roll.opening.spliceBefore = true ∧ c.close.spliceAfter = true) ∨ c.close.changeover = true
      ∨ (c.deferred = true ∧ (c.close.batch = true ∨ c.close.orderEnd = true))
      ∨ (∃ u ∈ c.roll.units.tail, u.flags.boundary = true)
      ∨ c.roll.units = [] ∨ ∃ u ∈ c.roll.units, ∃ v ∈ c.roll.units, u.order ≠ v.order := by
  simp only [ClosingRoll.waste, Bool.or_eq_true, Bool.and_eq_true, List.any_eq_true, or_assoc]
  cases c.roll.units with
  | nil => simp
  | cons u rest =>
    rw [← exists_ne_first_iff UnitRec.order]
    simp

/-! ## The order of a composed record (R109) and the remnant setting (11.1) -/

/-- A roll with units takes its values from the copy of its first unit's order. -/
theorem recordBody_of_units (s : State) (c : ClosingRoll) {u : UnitRec} {rest : List UnitRec}
    (h : c.roll.units = u :: rest) : s.recordBody c = s.body u.order := by
  have horder : c.roll.order = some u.order := by rw [Roll.order, h]; rfl
  have hheld : s.copyHeld c = true := by simp [State.copyHeld, horder]
  have hslot : (s.rollOrder c).slot = u.order := by rw [State.rollOrder, horder]; rfl
  rw [State.recordBody, if_pos hheld, hslot]

theorem within_iff (v lo hi : Int) : within v lo hi = true ↔ lo ≤ v ∧ v ≤ hi := by
  simp [within]

/-- The remnant setting is field 50, whose bounds name no other field. -/
theorem fieldOk_remnant (f : Nat → Int) : fieldOk f 50 = true ↔ 0 ≤ f 50 ∧ f 50 ≤ 100000 := by
  have hbounds : fieldOk f 50 = (within (f 50) 0 100000 && true) := rfl
  rw [hbounds, Bool.and_true, within_iff]

/-- Settles O39: each class flag is its own bit of the roll flags, and each class test says what R105 and R106 say. -/
theorem rollClassFlags : Obligations.RollClassFlags := by
  refine ⟨fun s c seq number => ?_, fieldOk_remnant, by decide⟩
  obtain ⟨excursions, limit, hflags⟩ := rollRecord_flags s c seq number
  simp only [hflags, rollFlags_short, rollFlags_remnant, rollFlags_overlength, rollFlags_waste, ← roll_length_eq_sum]
  exact ⟨short_iff c _, fun u rest hunits => by rw [recordBody_of_units s c hunits], remnant_iff c _, overlength_iff c,
    waste_iff c⟩

end Sys2Proof.Proofs.RollClasses
end

section
/-! PROOFS. The printer report of the label line (R116): what a STATUS, the label test and the commands that are not `Steady` do
to it, and that every other command leaves it. -/

namespace Sys2Proof.Proofs.PrinterReport
open Sys2Proof.Machine

/-! ## The label test (R113, R114) -/

/-- With a job outstanding the label test only stops the wait timer, so job and holding queue stay. -/
theorem labelTest_outstanding (s : State) (n : Nat) (h : s.rolls.job.isSome = true) :
    (s.labelTest n).rolls.job = s.rolls.job ∧ (s.labelTest n).rolls.queue = s.rolls.queue := by
  obtain ⟨j, hj⟩ := Option.isSome_iff_exists.mp h
  cases n with
  | zero => exact ⟨rfl, rfl⟩
  | succ n => simp only [State.labelTest, hj]; exact ⟨hj, rfl⟩

/-- Without a READY report the label test starts no job: at most it starts the wait timer. -/
theorem labelTest_not_ready (s : State) (n : Nat) (hready : s.rolls.printer ≠ some true) (hjob : s.rolls.job = none) :
    (s.labelTest n).rolls.job = none := by
  cases n with
  | zero => exact hjob
  | succ n =>
    simp only [State.labelTest, hjob, if_neg hready]
    split <;> exact hjob

/-! ## A STATUS (R115, R116) -/

/-- A STATUS of one byte 0 or 1 is the report NOT READY or READY. -/
theorem statusReport_bit {b : Byte} (h : b = 0 ∨ b = 1) : statusReport [b] = some (decide (b = 1)) := by
  obtain rfl | rfl := h <;> rfl

/-- A STATUS with a report makes it the last one, and the label test that follows keeps it. -/
theorem labelStatus_printer (s : State) {body : List Byte} {ready : Bool} (h : statusReport body = some ready) :
    (s.labelStatus body).rolls.printer = some ready := by
  simp only [State.labelStatus, h]
  exact (steady_labelNext _).printer

/-- A STATUS with a report leaves an outstanding job and the holding queue. -/
theorem labelStatus_outstanding (s : State) {body : List Byte} {ready : Bool} (h : statusReport body = some ready)
    (hjob : s.rolls.job.isSome = true) :
    (s.labelStatus body).rolls.job = s.rolls.job ∧ (s.labelStatus body).rolls.queue = s.rolls.queue := by
  simp only [State.labelStatus, h]
  exact labelTest_outstanding (s.setRolls (fun r => { r with printer := some ready })) 8 hjob

/-! ## The operations that are not `Steady` -/

/-- From `s` to `t` the printer report stands. -/
def ReportStands (s t : State) : Prop := t.rolls.printer = s.rolls.printer

theorem ReportStands.refl (s : State) : ReportStands s s := rfl

theorem ReportStands.trans {s t u : State} (h : ReportStands s t) (k : ReportStands t u) : ReportStands s u := Eq.trans k h

theorem ReportStands.ite {c : Prop} [Decidable c] {a t u : State} (h : ReportStands a t) (k : ReportStands a u) :
    ReportStands a (if c then t else u) := by
  split
  · exact h
  · exact k

theorem ReportStands.of_rolls {s t : State} (h : t.rolls = s.rolls) : ReportStands s t := congrArg RollUnit.printer h

theorem ReportStands.of_steady {s t : State} (h : Steady s t) : ReportStands s t := h.printer

theorem reportStands_transition (s : State) (enc : Encoder) (sense : Sense) : ReportStands s (s.transition enc sense) := by
  cases enc <;> cases sense
  case pe.forward => exact ReportStands.ite (steady_clear _ _ _).printer rfl
  case pe.reverse => exact ReportStands.ite rfl (ReportStands.ite (steady_raise _ _ _).printer rfl)
  all_goals rfl

theorem reportStands_measureSpeed (s : State) : ReportStands s s.measureSpeed := (steady_loopsSettle _).printer

theorem reportStands_setPhase (s : State) (p : Phase) : ReportStands s (s.setPhase p) :=
  .of_rolls (partStore_rolls _ _ _)

theorem reportStands_buildTable (s : State) (c : Chain) : ReportStands s (s.buildTable c) := by
  unfold State.buildTable
  extract_lets t src u
  exact (reportStands_setPhase (u.latch .link) _).trans (.of_steady (steady_settle _))

theorem reportStands_enumerateReturned (s : State) (c : Chain) : ReportStands s (s.enumerateReturned c) := by
  unfold State.enumerateReturned
  split
  · exact (reportStands_buildTable s c).ite rfl
  · rfl

theorem reportStands_frameReturned (s : State) (hop : Nat) (slots : List Slot) :
    ReportStands s (s.frameReturned hop slots) := by
  unfold State.frameReturned
  split
  · rfl
  next f _ =>
    extract_lets t u v
    have hv : ReportStands u v := ReportStands.ite rfl (steady_raiseArrangement _ _ _).printer
    have hjudged : ReportStands v ((v.judgeSlots 0 f.slots slots).countCycles).settlePlan :=
      .of_steady (((steady_judgeSlots v _ _ _).trans (steady_countCycles _)).trans (steady_settlePlan _))
    exact (reportStands_enumerateReturned t _).ite (hv.trans hjudged)

theorem reportStands_acceptSettings (s : State) : ReportStands s s.acceptSettings := by
  unfold State.acceptSettings
  extract_lets t u v
  have hu : ReportStands t u := (ReportStands.of_steady (steady_acceptHeader t)).trans (reportStands_setPhase _ _)
  have hv : Steady u v := steady_leaveRest u
  exact hu.trans (.of_steady (((hv.trans (steady_settle v)).trans (steady_testActivation _)).trans (steady_settlePlan _)))

theorem reportStands_leaveConfig (s : State) : ReportStands s s.leaveConfig := by
  unfold State.leaveConfig
  refine (ReportStands.refl s).ite ?_
  split
  · exact (steady_settingsStatus s _ _).printer
  · exact reportStands_acceptSettings s

theorem reportStands_enterConfig (s : State) : ReportStands s s.enterConfig := by
  unfold State.enterConfig
  extract_lets t src u
  have ht : ReportStands s t := (reportStands_setPhase s _).trans (.of_steady (steady_faultToConfig _))
  have hu : Steady u (u.settingsStatus 0 0).settle := (steady_settingsStatus u _ _).trans (steady_settle _)
  exact (ReportStands.refl s).ite ((ReportStands.of_steady (steady_settingsStatus s _ _)).ite (ht.trans hu.printer))

theorem reportStands_askSweep (s : State) : ReportStands s s.askSweep := rfl

theorem reportStands_attention (s : State) : ReportStands s s.attention := (ReportStands.refl s).ite (reportStands_askSweep s)

theorem reportStands_endSweep (s : State) : ReportStands s s.endSweep := by
  unfold State.endSweep
  have hpass : ReportStands s s.sweepPass := .of_steady (steady_sweepPass s)
  exact (hpass.trans (.of_rolls (setPort_rolls _ _))).ite (.refl s)

theorem reportStands_setFreeze (s : State) (f : Freeze) : ReportStands s (s.setFreeze f) := .of_rolls (partStore_rolls _ _ _)

theorem reportStands_freezeImage (s : State) : ReportStands s s.freezeImage := reportStands_setFreeze s .frozen

theorem reportStands_freezeCommand (s : State) : ReportStands s s.freezeCommand :=
  (ReportStands.refl s).ite ((reportStands_setFreeze s _).ite (reportStands_freezeImage s))

theorem reportStands_thawCommand (s : State) : ReportStands s s.thawCommand :=
  (ReportStands.refl s).ite (reportStands_setFreeze s _)

theorem reportStands_refreshStart (s : State) : ReportStands s s.refreshStart :=
  ReportStands.ite (.of_rolls (partStore_rolls _ _ _)) (.refl s)

theorem reportStands_refreshFinish (s : State) : ReportStands s s.refreshFinish := by
  unfold State.refreshFinish
  extract_lets src t u
  have hu : ReportStands s u := .of_rolls (partStore_rolls t _ _)
  exact ReportStands.ite (hu.trans ((reportStands_freezeImage u).ite (.refl u))) (.refl s)

theorem reportStands_hostWriteWord (s : State) (a : BitVec 13) (v : Word) : ReportStands s (s.hostWriteWord a v) :=
  ReportStands.ite rfl (.refl s)

/-- LINE RESET puts every block back but carries the printer report over (R116, R122). -/
theorem reportStands_blocksReset (s : State) : ReportStands s s.blocksReset := rfl

theorem reportStands_lineReset (s : State) : ReportStands s s.lineReset := by
  unfold State.lineReset
  extract_lets t u v w
  have ht : Steady s t := ((steady_composeAll s).trans (steady_clearEntries _)).trans (steady_resetOrders _)
  have hu : Steady t u := (steady_resetCounts t).trans (steady_zeroMirror _)
  have hv : ReportStands u v := .of_rolls (partStore_rolls u _ _)
  have hw : ReportStands v w := reportStands_blocksReset v
  have hheader : ReportStands w ((w.header 0x0A 1 0).header 0x04 1 0) :=
    .of_rolls ((partStore_rolls _ _ _).trans (partStore_rolls _ _ _))
  exact (ReportStands.refl s).ite ((((ReportStands.of_steady (ht.trans hu)).trans hv).trans hw).trans hheader)

theorem reportStands_control (s : State) (v : Word) : ReportStands s (s.control v) := by
  unfold State.control
  exact .ite (.refl s) (.ite (reportStands_attention s) (.ite (reportStands_freezeCommand s)
    (.ite (reportStands_thawCommand s) (.ite (.of_steady (steady_resume s)) (.ite (reportStands_enterConfig s)
      (.ite (reportStands_leaveConfig s) (.ite (reportStands_lineReset s) (.refl s))))))))

/-! ## Every command -/

/-- Every command but power-on, the reset pin and a STATUS lets the printer report stand. -/
theorem exec_reportStands (c : Instr) (s : State) (hpower : c ≠ .powerOn) (hreset : c ≠ .resetPin)
    (hstatus : ∀ body, c ≠ .labelStatus body) : ∃ t, exec c s = .next t ∧ ReportStands s t := by
  cases c with
  | powerOn => exact absurd rfl hpower
  | resetPin => exact absurd rfl hreset
  | labelStatus body => exact absurd rfl (hstatus body)
  | encoderTransition enc sense => exact ⟨_, rfl, reportStands_transition s enc sense⟩
  | speedMeasurement => exact ⟨_, rfl, reportStands_measureSpeed s⟩
  | markEdge => exact ⟨_, rfl, ((steady_takeMark s _).ite (.refl s)).printer⟩
  | spliceEdge => exact ⟨_, rfl, ((steady_takeSplice s).ite (.refl s)).printer⟩
  | emarkEdge => exact ⟨_, rfl, ((steady_takeEmark s _ _).ite (.refl s)).printer⟩
  | eindexEdge => exact ⟨_, rfl, ((steady_takeIndex s _).ite (.refl s)).printer⟩
  | blockClose => exact ⟨_, rfl, (steady_blockEvent s).printer⟩
  | referenceWindowExpiry => exact ⟨_, rfl, (steady_windowEvent s).printer⟩
  | embossWindowExpiry unit => exact ⟨_, rfl, (steady_embossWindowEvent s unit).printer⟩
  | unitLeavesTrack => exact ⟨_, rfl, (steady_leaveEvent s).printer⟩
  | spliceEntryLeaves entry => exact ⟨_, rfl, (steady_spliceLeaveEvent s entry).printer⟩
  | spliceZoneStart entry => exact ⟨_, rfl, (steady_zoneStart s entry).printer⟩
  | spliceZoneEnd entry => exact ⟨_, rfl, (steady_zoneEnd s entry).printer⟩
  | spliceGuardStart entry => exact ⟨_, rfl, (steady_guardStart s entry).printer⟩
  | spliceGuardEnd entry => exact ⟨_, rfl, (steady_guardEnd s entry).printer⟩
  | nipCheck unit => exact ⟨_, rfl, (steady_nipEvent s unit).printer⟩
  | shadeEvent unit => exact ⟨_, rfl, (steady_shadeEvent s unit).printer⟩
  | shadeHorizon unit => exact ⟨_, rfl, (steady_horizonEvent s unit).printer⟩
  | leadPoint => exact ⟨_, rfl, (steady_leadEvent s).printer⟩
  | leadPointPassed => exact ⟨_, rfl, (steady_leadPassedEvent s).printer⟩
  | cutMissedThreshold => exact ⟨_, rfl, (steady_missEvent s).printer⟩
  | rollHandover => exact ⟨_, rfl, (steady_handoverEvent s).printer⟩
  | linkCycle => exact ⟨_, rfl, (steady_linkTick s).printer⟩
  | frameReturn hop slots => exact ⟨_, rfl, reportStands_frameReturned s _ slots⟩
  | frameReturnBad => exact ⟨_, rfl, (steady_frameFailed s true).printer⟩
  | driveTimerExpiry => exact ⟨_, rfl, (steady_driveTimeout s).printer⟩
  | labelAck body => exact ⟨_, rfl, (steady_labelAck s body).printer⟩
  | labelNak body => exact ⟨_, rfl, (steady_labelNak s body).printer⟩
  | labelFrameError cause => cases cause <;> exact ⟨_, rfl, (steady_labelRejected s).printer⟩
  | labelGapTimeout => exact ⟨_, rfl, (steady_labelRejected s).printer⟩
  | labelJobSent => exact ⟨_, rfl, (steady_jobSent s).printer⟩
  | labelReplyTimeout => exact ⟨_, rfl, (steady_labelReplyExpired s).printer⟩
  | labelWaitTimeout => exact ⟨_, rfl, (steady_labelWaitExpired s).printer⟩
  | exchangeWrite addr value => exact ⟨_, rfl, reportStands_hostWriteWord s addr value⟩
  | noticeWrite value => exact ⟨_, rfl, rfl⟩
  | routeWrite value => exact ⟨_, rfl, rfl⟩
  | registerWrite register value =>
    cases register with
    | status => exact ⟨_, rfl, rfl⟩
    | control => exact ⟨_, rfl, reportStands_control s value⟩
  | attention => exact ⟨_, rfl, reportStands_attention s⟩
  | freeze => exact ⟨_, rfl, reportStands_freezeCommand s⟩
  | thaw => exact ⟨_, rfl, reportStands_thawCommand s⟩
  | resume => exact ⟨_, rfl, (steady_resume s).printer⟩
  | enterConfig => exact ⟨_, rfl, reportStands_enterConfig s⟩
  | leaveConfig => exact ⟨_, rfl, reportStands_leaveConfig s⟩
  | lineReset => exact ⟨_, rfl, reportStands_lineReset s⟩
  | sweepTimer => exact ⟨_, rfl, (reportStands_askSweep s).ite (.refl s)⟩
  | sweepEnd => exact ⟨_, rfl, reportStands_endSweep s⟩
  | refreshTick => exact ⟨_, rfl, reportStands_refreshStart s⟩
  | refreshEnd => exact ⟨_, rfl, reportStands_refreshFinish s⟩
  | lineStopToggle => exact ⟨_, rfl, (steady_toggleStop s).printer⟩

/-- Power-on and the reset pin forget the printer report (R116). -/
theorem printer_of_restart {c : Instr} {s t : State} (h : exec c s = .next t) (hc : c = .powerOn ∨ c = .resetPin) :
    t.rolls.printer = none := by
  obtain rfl | rfl := hc <;> (cases h; rfl)

/-- Settles O51: a STATUS sets the report, a restart forgets it, every other command lets it stand, and the label test starts
a job on READY alone. -/
theorem printerReportStands : Obligations.PrinterReportStands := by
  refine ⟨fun s b hb => ?_, fun c s t h => ⟨printer_of_restart h, fun hpower hreset hstatus => ?_⟩, labelTest_not_ready⟩
  · have hreport := statusReport_bit hb
    exact ⟨_, rfl, labelStatus_printer s hreport, labelStatus_outstanding s hreport⟩
  · obtain ⟨u, hu, hstands⟩ := exec_reportStands c s hpower hreset hstatus
    cases h.symm.trans hu
    exact hstands

end Sys2Proof.Proofs.PrinterReport
end

section
/-! PROOFS. The host's registers (10.5): the fields of STATUS (R172), ROUTE and the two notice lines (R174), the codes of CONTROL
(R175), and what power-on, the reset pin and LINE RESET leave in them. -/

namespace Sys2Proof.Proofs.HostRegisters
open Sys2Proof.Machine

/-! ## Power-on and the reset pin (R182) -/

theorem eq_restart_of_exec {c : Instr} {s t : State} (hc : c = .powerOn ∨ c = .resetPin) (h : exec c s = .next t) :
    t = s.restart := by
  obtain rfl | rfl := hc <;> (cases h; rfl)

@[simp] theorem restart_port (s : State) : s.restart.port = Port.reset := rfl

@[simp] theorem restart_status (s : State) : s.restart.status = 0 := rfl

/-! ## STATUS (R172) -/

theorem phaseCode_lt (p : Phase) : p.code < 4 := by cases p <;> decide

theorem faultStateCode_lt (f : FaultState) : f.code < 4 := by cases f <;> decide

/-- Bits 7 to 4 of STATUS: the active order in bits 6 to 4 under the bit that says there is one (10.5). -/
def activeNibble : Option Nat → Nat
  | none => 0
  | some n => n % 8 + 8

theorem activeNibble_lt (a : Option Nat) : activeNibble a < 16 := by
  cases a with
  | none => decide
  | some n => simp only [activeNibble]; omega

/-- STATUS is the sum of its fields, each at its own bits. -/
theorem status_toNat (s : State) :
    s.status.toNat
      = s.port.phase.code + 4 * s.fault.st.code + 16 * activeNibble s.ord.active + 256 * (s.port.counter % 256) := by
  have hphase := phaseCode_lt s.port.phase
  have hfault := faultStateCode_lt s.fault.st
  cases hactive : s.ord.active with
  | none => simp only [State.status, hactive, activeNibble, BitVec.toNat_ofNat]; omega
  | some n => simp only [State.status, hactive, activeNibble, BitVec.toNat_ofNat]; omega

/-- The fields of STATUS do not overlap, so each is read back from its own bits. -/
theorem status_fields (s : State) :
    s.status.toNat % 4 = s.port.phase.code ∧ s.status.toNat / 4 % 4 = s.fault.st.code
      ∧ s.status.toNat / 16 % 16 = activeNibble s.ord.active ∧ s.status.toNat / 256 = s.port.counter % 256 := by
  have hphase := phaseCode_lt s.port.phase
  have hfault := faultStateCode_lt s.fault.st
  have hactive := activeNibble_lt s.ord.active
  rw [status_toNat]
  omega

theorem status_of_active (s : State) {n : Nat} (h : s.ord.active = some n) (hn : n < 8) :
    s.status.toNat / 16 % 8 = n ∧ s.status.toNat / 128 % 2 = 1 := by
  obtain ⟨_, _, hnibble, _⟩ := status_fields s
  simp only [h, activeNibble] at hnibble
  omega

theorem status_of_no_active (s : State) (h : s.ord.active = none) :
    s.status.toNat / 16 % 8 = 0 ∧ s.status.toNat / 128 % 2 = 0 := by
  obtain ⟨_, _, hnibble, _⟩ := status_fields s
  simp only [h, activeNibble] at hnibble
  omega

@[simp] theorem readRegister_status (s : State) : s.readRegister 0 = s.status := rfl

/-- Settles O49: STATUS is the sum of its four fields at bits of their own, a write to it is no operation, and every field is 0
after a restart. -/
theorem statusShowsFields : Obligations.StatusShowsFields := by
  intro s
  simp only [readRegister_status]
  obtain ⟨hphase, hfault, -, hcounter⟩ := status_fields s
  refine ⟨hphase, hfault, hcounter, fun n => status_of_active s, status_of_no_active s, fun _ => rfl, fun c t hc h => ?_⟩
  rw [eq_restart_of_exec hc h, restart_status]

/-! ## ROUTE and the notice lines (R174) -/

theorem routing_lt (s : State) (f : Nat) : s.routing f < 4 := Nat.mod_lt _ (by decide)

theorem noticeR_iff (s : State) :
    s.noticeR = true ↔ ∃ f, f < 7 ∧ s.port.notice.getLsbD f = true ∧ s.routing f = 1 := by
  simp [State.noticeR]

theorem noticeU_iff (s : State) :
    s.noticeU = true ↔ ∃ f, f < 7 ∧ s.port.notice.getLsbD f = true ∧ (s.routing f = 2 ∨ s.routing f = 3) := by
  have hurgent (f : Nat) : 2 ≤ s.routing f ↔ s.routing f = 2 ∨ s.routing f = 3 := by
    have := routing_lt s f
    omega
  simp [State.noticeU, hurgent]

/-- Without a set factor both lines are released, whatever ROUTE holds. -/
theorem lines_released (s : State) (h : s.port.notice = 0) : s.noticeR = false ∧ s.noticeU = false := by
  constructor
  · simp [State.noticeR, h]
  · simp [State.noticeU, h]

/-- A digit below the cut of a reduction modulo a power of the base stays. -/
theorem digit_mod_pow (x b : Nat) {i k : Nat} (h : i < k) : x % b ^ k / b ^ i % b = x / b ^ i % b := by
  have hpow : b ^ k = b ^ i * b ^ (k - i) := by rw [← Nat.pow_add]; congr 1; omega
  rw [hpow, Nat.mod_mul_right_div_self, Nat.mod_mod_of_dvd _ (dvd_pow_self b (by omega))]

/-- A ROUTE write keeps the low 14 bits of the value, which are seven routings of two bits. -/
theorem setRoute_route_toNat (s : State) (v : Word) : (s.setRoute v).port.route.toNat = v.toNat % 4 ^ 7 := by
  calc (s.setRoute v).port.route.toNat = v.toNat &&& (0x3FFF#16).toNat := BitVec.toNat_and v _
    _ = v.toNat % 4 ^ 7 := Nat.and_two_pow_sub_one_eq_mod _ 14

theorem setRoute_routing (s : State) (v : Word) {f : Nat} (h : f < 7) :
    (s.setRoute v).routing f = v.toNat / 4 ^ f % 4 := by
  rw [State.routing, setRoute_route_toNat, digit_mod_pow _ _ h]

theorem setRoute_route_lt (s : State) (v : Word) : (s.setRoute v).port.route.toNat < 2 ^ 14 := by
  rw [setRoute_route_toNat]
  exact Nat.mod_lt _ (by decide)

theorem route_of_steady {s t : State} (h : Steady s t) : t.port.route = s.port.route := by rw [h.port]

/-- LINE RESET gives the exchange port its values after power-on but for ROUTE, which no step of it touches (R178, R184). -/
theorem lineReset_port (s : State) (h : s.port.phase ≠ .starting) :
    s.lineReset.port = { Port.reset with route := s.port.route } := by
  rw [State.lineReset, if_neg h]
  extract_lets t u v w
  have ht : Steady s t := ((steady_composeAll s).trans (steady_clearEntries _)).trans (steady_resetOrders _)
  have hu : Steady t u := (steady_resetCounts t).trans (steady_zeroMirror _)
  have hv : Steady u v := steady_partStore u _ _ (.inr (by decide))
  have hroute : v.port.route = s.port.route := route_of_steady ((ht.trans hu).trans hv)
  calc ((w.header 0x0A 1 0).header 0x04 1 0).port = w.port := (partStore_port _ _ _).trans (partStore_port _ _ _)
    _ = { Port.reset with route := v.port.route } := rfl
    _ = { Port.reset with route := s.port.route } := by rw [hroute]

/-- Settles O48: the lines follow NOTICE and ROUTE as both stand, so each is released wherever a reset leaves no factor set. -/
theorem routeAndLines : Obligations.RouteAndLines := by
  refine fun s => ⟨noticeR_iff s, noticeU_iff s, fun v => ⟨s.setRoute v, rfl, rfl, fun f => setRoute_routing s v,
    setRoute_route_lt s v⟩, fun c t hc h => ?_, fun t hphase h => ?_⟩
  · obtain rfl := eq_restart_of_exec hc h
    exact ⟨rfl, lines_released _ rfl⟩
  · have hport := lineReset_port s hphase
    cases h
    exact ⟨by rw [hport], lines_released _ (congrArg Port.notice hport)⟩

/-! ## CONTROL (R175) -/

section
variable (s : State) (h : s.port.phase = .starting)
include h

theorem control_starting (v : Word) : s.control v = s := if_pos h

theorem attention_starting : s.attention = s := if_pos h

theorem freezeCommand_starting : s.freezeCommand = s := if_pos (.inl h)

theorem thawCommand_starting : s.thawCommand = s := if_pos (.inl h)

theorem resume_starting : s.resume = s := if_neg fun ⟨hphase, _⟩ => hphase h

theorem enterConfig_starting : s.enterConfig = s := if_pos (by simp [h])

theorem leaveConfig_starting : s.leaveConfig = s := if_pos (by simp [h])

theorem lineReset_starting : s.lineReset = s := if_pos h

end

/-- A code is the command `t` when it is so beyond STARTING and the command, too, is discarded in STARTING. -/
theorem control_eq_of {s t : State} {v : Word} (hstarting : s.port.phase = .starting → t = s)
    (htaken : s.port.phase ≠ .starting → s.control v = t) : s.control v = t := by
  by_cases h : s.port.phase = .starting
  · rw [control_starting s h, hstarting h]
  · exact htaken h

theorem control_attention (s : State) : s.control 1 = s.attention :=
  control_eq_of (attention_starting s) fun h => by simp [State.control, h]

theorem control_freeze (s : State) : s.control 2 = s.freezeCommand :=
  control_eq_of (freezeCommand_starting s) fun h => by simp [State.control, h]

theorem control_thaw (s : State) : s.control 3 = s.thawCommand :=
  control_eq_of (thawCommand_starting s) fun h => by simp [State.control, h]

theorem control_resume (s : State) : s.control 4 = s.resume :=
  control_eq_of (resume_starting s) fun h => by simp [State.control, h]

theorem control_enterConfig (s : State) : s.control 5 = s.enterConfig :=
  control_eq_of (enterConfig_starting s) fun h => by simp [State.control, h]

theorem control_leaveConfig (s : State) : s.control 6 = s.leaveConfig :=
  control_eq_of (leaveConfig_starting s) fun h => by simp [State.control, h]

theorem control_lineReset (s : State) : s.control 7 = s.lineReset :=
  control_eq_of (lineReset_starting s) fun h => by simp [State.control, h]

/-- A value that is none of the codes 1 to 7 is ignored. -/
theorem control_unknown (s : State) {v : Word} (hv : v = 0 ∨ 7 < v.toNat) : s.control v = s := by
  have hne (k : Word) (hpos : 0 < k.toNat) (hle : k.toNat ≤ 7) : v ≠ k := by
    rintro rfl
    obtain rfl | hbig := hv
    · exact absurd hpos (by decide)
    · omega
  refine control_eq_of (fun _ => rfl) fun h => ?_
  simp [State.control, h, hne]

/-- Settles O50: each code is its command in every phase, since in STARTING the commands themselves do nothing. -/
theorem controlWrites : Obligations.ControlWrites := by
  intro s
  have hwrite (v : Word) {t : State} (h : s.control v = t) : exec (.registerWrite .control v) s = .next t :=
    congrArg Host.Outcome.next h
  exact ⟨hwrite 1 (control_attention s), hwrite 2 (control_freeze s), hwrite 3 (control_thaw s), hwrite 4 (control_resume s),
    hwrite 5 (control_enterConfig s), hwrite 6 (control_leaveConfig s), hwrite 7 (control_lineReset s),
    fun v hv => hwrite v (control_unknown s hv), fun v h => hwrite v (control_starting s h v), rfl⟩

end Sys2Proof.Proofs.HostRegisters
end

section
/-! PROOFS. Every command at once: which commands are `Steady`, that all are `Lawful`, and which of them may move a byte of the
host, the settings or the positions. -/

namespace Sys2Proof.Proofs.EveryCommand
open Sys2Proof.Machine Sys2Proof.Proofs.HostRegisters

/-! ## The commands that move no input of the device -/

/-- The commands that move positions, settings, printer report, part phase, exchange port or host bytes. -/
def movesInputs : Instr → Bool
  | .powerOn | .resetPin | .encoderTransition _ _ | .speedMeasurement | .frameReturn _ _ | .labelStatus _
  | .exchangeWrite _ _ | .noticeWrite _ | .routeWrite _ | .registerWrite _ _ | .attention | .freeze | .thaw | .enterConfig
  | .leaveConfig | .lineReset | .sweepTimer | .sweepEnd | .refreshTick | .refreshEnd => true
  | _ => false

/-- Every other command is `Steady`. -/
theorem exec_steady (c : Instr) (s : State) (hc : movesInputs c = false) : ∃ t, exec c s = .next t ∧ Steady s t := by
  cases c
  case markEdge => exact ⟨_, rfl, (steady_takeMark s _).ite (.refl s)⟩
  case spliceEdge => exact ⟨_, rfl, (steady_takeSplice s).ite (.refl s)⟩
  case emarkEdge => exact ⟨_, rfl, (steady_takeEmark s _ _).ite (.refl s)⟩
  case eindexEdge => exact ⟨_, rfl, (steady_takeIndex s _).ite (.refl s)⟩
  case blockClose => exact ⟨_, rfl, steady_blockEvent s⟩
  case referenceWindowExpiry => exact ⟨_, rfl, steady_windowEvent s⟩
  case embossWindowExpiry unit => exact ⟨_, rfl, steady_embossWindowEvent s unit⟩
  case unitLeavesTrack => exact ⟨_, rfl, steady_leaveEvent s⟩
  case spliceEntryLeaves entry => exact ⟨_, rfl, steady_spliceLeaveEvent s entry⟩
  case spliceZoneStart entry => exact ⟨_, rfl, steady_zoneStart s entry⟩
  case spliceZoneEnd entry => exact ⟨_, rfl, steady_zoneEnd s entry⟩
  case spliceGuardStart entry => exact ⟨_, rfl, steady_guardStart s entry⟩
  case spliceGuardEnd entry => exact ⟨_, rfl, steady_guardEnd s entry⟩
  case nipCheck unit => exact ⟨_, rfl, steady_nipEvent s unit⟩
  case shadeEvent unit => exact ⟨_, rfl, steady_shadeEvent s unit⟩
  case shadeHorizon unit => exact ⟨_, rfl, steady_horizonEvent s unit⟩
  case leadPoint => exact ⟨_, rfl, steady_leadEvent s⟩
  case leadPointPassed => exact ⟨_, rfl, steady_leadPassedEvent s⟩
  case cutMissedThreshold => exact ⟨_, rfl, steady_missEvent s⟩
  case rollHandover => exact ⟨_, rfl, steady_handoverEvent s⟩
  case linkCycle => exact ⟨_, rfl, steady_linkTick s⟩
  case frameReturnBad => exact ⟨_, rfl, steady_frameFailed s true⟩
  case driveTimerExpiry => exact ⟨_, rfl, steady_driveTimeout s⟩
  case labelAck body => exact ⟨_, rfl, steady_labelAck s body⟩
  case labelNak body => exact ⟨_, rfl, steady_labelNak s body⟩
  case labelFrameError cause => cases cause <;> exact ⟨_, rfl, steady_labelRejected s⟩
  case labelGapTimeout => exact ⟨_, rfl, steady_labelRejected s⟩
  case labelJobSent => exact ⟨_, rfl, steady_jobSent s⟩
  case labelReplyTimeout => exact ⟨_, rfl, steady_labelReplyExpired s⟩
  case labelWaitTimeout => exact ⟨_, rfl, steady_labelWaitExpired s⟩
  case resume => exact ⟨_, rfl, steady_resume s⟩
  case lineStopToggle => exact ⟨_, rfl, steady_toggleStop s⟩
  all_goals cases hc

/-! ## Every command keeps the laws -/

theorem restart_stopPairOk (s : State) : s.restart.stopPairOk := ⟨rfl, rfl⟩

theorem restart_headerOk (s : State) : s.restart.headerOk := ⟨rfl, rfl, Nat.zero_le _⟩

/-- The reset values meet the track law: no record, the default pitch, and no order copy. -/
theorem restart_trackOk (s : State) : s.restart.TrackOk where
  room := Nat.zero_le _
  rising := List.Pairwise.nil
  previous := fun _ hu => nomatch hu
  pitch := (by decide : (0 : Int) < State.reset.peP)
  repeats := fun o ho b hb => by
    obtain rfl : o = OrderRec.reset := List.eq_of_mem_replicate ho
    cases hb

theorem lawful_restart (s : State) : Lawful s s.restart where
  pending := rfl
  memory := fun _ => resetMemory_wf
  stopPair := fun _ => restart_stopPairOk s
  header := fun _ => restart_headerOk s
  track := fun _ => restart_trackOk s

theorem exec_lawful (c : Instr) (s : State) : ∃ t, exec c s = .next t ∧ Lawful s t := by
  by_cases hc : movesInputs c = false
  · obtain ⟨t, ht, hsteady⟩ := exec_steady c s hc
    exact ⟨t, ht, hsteady.lawful⟩
  cases c
  case powerOn => exact ⟨_, rfl, lawful_restart s⟩
  case resetPin => exact ⟨_, rfl, lawful_restart s⟩
  case encoderTransition enc sense => exact ⟨_, rfl, lawful_transition s enc sense⟩
  case speedMeasurement => exact ⟨_, rfl, lawful_measureSpeed s⟩
  case frameReturn hop slots => exact ⟨_, rfl, lawful_frameReturned s _ slots⟩
  case labelStatus body => exact ⟨_, rfl, lawful_labelStatus s body⟩
  case exchangeWrite addr value => exact ⟨_, rfl, lawful_hostWriteWord s addr value⟩
  case noticeWrite value => exact ⟨_, rfl, lawful_clearNotices s value⟩
  case routeWrite value => exact ⟨_, rfl, lawful_setRoute s value⟩
  case registerWrite register value =>
    cases register with
    | status => exact ⟨_, rfl, .refl s⟩
    | control => exact ⟨_, rfl, lawful_control s value⟩
  case attention => exact ⟨_, rfl, lawful_attention s⟩
  case freeze => exact ⟨_, rfl, lawful_freezeCommand s⟩
  case thaw => exact ⟨_, rfl, lawful_thawCommand s⟩
  case enterConfig => exact ⟨_, rfl, lawful_enterConfig s⟩
  case leaveConfig => exact ⟨_, rfl, lawful_leaveConfig s⟩
  case lineReset => exact ⟨_, rfl, lawful_lineReset s⟩
  case sweepTimer => exact ⟨_, rfl, (lawful_askSweep s).ite (.refl s)⟩
  case sweepEnd => exact ⟨_, rfl, lawful_endSweep s⟩
  case refreshTick => exact ⟨_, rfl, lawful_refreshStart s⟩
  case refreshEnd => exact ⟨_, rfl, lawful_refreshFinish s⟩
  all_goals exact absurd rfl hc

theorem step_cons (c : Instr) (rest : List Instr) (s : State) :
    step (s.withPending (c :: rest)) = exec c (s.withPending rest) := rfl

theorem step_nil (s : State) : step (s.withPending []) = .next (s.withPending []) := rfl

/-- Settles O1: a step takes the front command off the queue, and an empty queue idles. -/
theorem stepRunsFrontCommand : Obligations.StepRunsFrontCommand :=
  fun c rest s => ⟨step_cons c rest s, step_nil s⟩

/-- Settles O2: every command is `Lawful`, which says that it ends and leaves the queue. -/
theorem everyCommandCompletes : Obligations.EveryCommandCompletes := by
  intro c s
  obtain ⟨t, ht, hlawful⟩ := exec_lawful c s
  exact ⟨t, ht, hlawful.pending⟩

/-- A step is lawful but for the queue, which no law speaks of. -/
theorem lawful_of_step {s t : State} (h : step s = .next t) : ∃ rest, Lawful (s.withPending rest) t := by
  unfold step at h
  split at h
  next hnil =>
    cases h
    have hself : s.withPending [] = s := by rw [← hnil]; rfl
    exact ⟨[], by rw [hself]; exact .refl s⟩
  next c rest _ =>
    obtain ⟨u, hu, hlawful⟩ := exec_lawful c (s.withPending rest)
    cases h.symm.trans hu
    exact ⟨rest, hlawful⟩

theorem withPending_trackOk (s : State) (l : List Instr) (h : s.TrackOk) : (s.withPending l).TrackOk :=
  TrackOk.of_same (s := s) rfl rfl rfl id h

/-- Settles O59: each of the four laws is kept by every command, and the queue is in none of them. -/
theorem stepKeepsLaws : Obligations.StepKeepsLaws := by
  intro s t h
  obtain ⟨rest, hlawful⟩ := lawful_of_step h
  exact ⟨hlawful.memory, hlawful.stopPair, hlawful.header, fun hs => hlawful.track (withPending_trackOk s rest hs)⟩

/-! ## Who may move host bytes, settings and positions -/

/-- From `s` to `t` a byte of the host moves only if `host` holds, the settings only if `settings` does, positions and speed only
if `coord` does. -/
structure MovesOnly (host settings coord : Prop) (s t : State) : Prop where
  host : host ∨ ∀ a, hostOwned a = true → t.readByte a = s.readByte a
  settings : settings ∨ t.settings = s.settings
  coord : coord ∨ t.coord = s.coord

section
variable {p q r : Prop} {s t u : State}

theorem MovesOnly.of_steady (h : Steady s t) : MovesOnly p q r s t := ⟨.inr h.host, .inr h.settings, .inr h.coord⟩

theorem MovesOnly.refl (s : State) : MovesOnly p q r s s := .of_steady (.refl s)

/-- An update that touches neither memory nor settings nor positions. -/
theorem MovesOnly.of_same (hm : t.mem = s.mem) (hs : t.settings = s.settings) (hc : t.coord = s.coord) :
    MovesOnly p q r s t :=
  ⟨.inr fun _ _ => by rw [State.readByte, hm]; rfl, .inr hs, .inr hc⟩

theorem MovesOnly.trans (h : MovesOnly p q r s t) (k : MovesOnly p q r t u) : MovesOnly p q r s u where
  host := h.host.elim .inl fun h => k.host.imp_right fun k a ha => (k a ha).trans (h a ha)
  settings := h.settings.elim .inl fun h => k.settings.imp_right fun k => k.trans h
  coord := h.coord.elim .inl fun h => k.coord.imp_right fun k => k.trans h

/-- A choice, where each branch may use that it was chosen. -/
theorem MovesOnly.ite {c : Prop} [Decidable c] (h : c → MovesOnly p q r s t) (k : MovesOnly p q r s u) :
    MovesOnly p q r s (if c then t else u) := by
  split
  next hc => exact h hc
  next => exact k

theorem movesOnly_partStore (s : State) (a : Nat) (bs : List Byte) : MovesOnly p q r s (s.partStore a bs) :=
  ⟨.inr fun _ ha => partStore_hostOwned s a bs ha, .inr (partStore_settings _ _ _), .inr (partStore_coord _ _ _)⟩

theorem movesOnly_setPort (s : State) (f : Port → Port) : MovesOnly p q r s (s.setPort f) := .of_same rfl rfl rfl

theorem movesOnly_setPhase (s : State) (x : Phase) : MovesOnly p q r s (s.setPhase x) :=
  MovesOnly.trans (t := { s with port := { s.port with phase := x } }) (.of_same rfl rfl rfl)
    (movesOnly_partStore _ 0x04 (natBytes 1 x.code))

/-! ### Encoders, link and label line -/

theorem movesOnly_coord (hr : r) (s : State) (x : Coord) (k : Nat) : MovesOnly p q r s { s with coord := x, freeIdx := k } :=
  ⟨.inr fun _ _ => rfl, .inr rfl, .inl hr⟩

theorem movesOnly_transition (hr : r) (s : State) (enc : Encoder) (sense : Sense) :
    MovesOnly p q r s (s.transition enc sense) := by
  cases enc <;> cases sense
  case pe.forward =>
    exact (movesOnly_coord hr s _ _).trans (.ite (fun _ => .of_steady (steady_clear _ _ _)) (.refl _))
  case pe.reverse =>
    exact .ite (fun _ => .refl s)
      ((movesOnly_coord hr s _ s.freeIdx).trans (.ite (fun _ => .of_steady (steady_raise _ _ _)) (.refl _)))
  case fe.forward => exact movesOnly_coord hr s _ _
  case fe.reverse => exact movesOnly_coord hr s _ s.freeIdx
  case pe.both => exact .refl s
  case fe.both => exact .refl s

theorem movesOnly_measureSpeed (hr : r) (s : State) : MovesOnly p q r s s.measureSpeed :=
  ⟨.inr fun _ _ => rfl, .inr rfl, .inl hr⟩

theorem movesOnly_buildTable (s : State) (c : Chain) : MovesOnly p q r s (s.buildTable c) := by
  unfold State.buildTable
  extract_lets t src u
  have hu : MovesOnly p q r s (u.latch .link) := .of_same rfl rfl rfl
  exact (hu.trans (movesOnly_setPhase _ _)).trans (.of_steady (steady_settle _))

theorem movesOnly_enumerateReturned (s : State) (c : Chain) : MovesOnly p q r s (s.enumerateReturned c) := by
  unfold State.enumerateReturned
  split
  · exact .ite (fun _ => movesOnly_buildTable s c) (.of_same rfl rfl rfl)
  · exact .of_same rfl rfl rfl

theorem movesOnly_frameReturned (s : State) (hop : Nat) (slots : List Slot) : MovesOnly p q r s (s.frameReturned hop slots) := by
  unfold State.frameReturned
  split
  · exact .refl s
  next f _ =>
    extract_lets t u v
    have ht : MovesOnly p q r s t := .of_same rfl rfl rfl
    have hu : MovesOnly p q r s u := .of_same rfl rfl rfl
    have hv : Steady u v := Steady.ite (.refl u) ((steady_changeLink u _).trans (steady_raiseArrangement _ _ _))
    have hjudged : Steady v ((v.judgeSlots 0 f.slots slots).countCycles).settlePlan :=
      ((steady_judgeSlots v _ _ _).trans (steady_countCycles _)).trans (steady_settlePlan _)
    exact .ite (fun _ => ht.trans (movesOnly_enumerateReturned t _)) (hu.trans (.of_steady (hv.trans hjudged)))

theorem movesOnly_labelStatus (s : State) (body : List Byte) : MovesOnly p q r s (s.labelStatus body) := by
  unfold State.labelStatus
  split
  next ready _ =>
    have h : MovesOnly p q r s (s.setRolls fun x => { x with printer := some ready }) := .of_same rfl rfl rfl
    exact h.trans (.of_steady (steady_labelNext _))
  next => exact .of_steady (steady_labelRejected s)

/-! ### The exchange port -/

theorem movesOnly_askSweep (s : State) : MovesOnly p q r s s.askSweep := movesOnly_setPort s _

theorem movesOnly_attention (s : State) : MovesOnly p q r s s.attention := .ite (fun _ => .refl s) (movesOnly_askSweep s)

theorem movesOnly_endSweep (s : State) : MovesOnly p q r s s.endSweep :=
  .ite (fun _ => (MovesOnly.of_steady (steady_sweepPass s)).trans (movesOnly_setPort _ _)) (.refl s)

theorem movesOnly_setFreeze (s : State) (f : Freeze) : MovesOnly p q r s (s.setFreeze f) :=
  MovesOnly.trans (t := { s with port := { s.port with freeze := f } }) (.of_same rfl rfl rfl) (movesOnly_partStore _ _ _)

theorem movesOnly_freezeImage (s : State) : MovesOnly p q r s s.freezeImage :=
  (movesOnly_setFreeze s .frozen).trans (.of_steady (steady_latch _ _))

theorem movesOnly_freezeCommand (s : State) : MovesOnly p q r s s.freezeCommand :=
  .ite (fun _ => .refl s) (.ite (fun _ => movesOnly_setFreeze s _) (movesOnly_freezeImage s))

theorem movesOnly_thawCommand (s : State) : MovesOnly p q r s s.thawCommand :=
  .ite (fun _ => .refl s) (movesOnly_setFreeze s _)

theorem movesOnly_refreshStart (s : State) : MovesOnly p q r s s.refreshStart := by
  unfold State.refreshStart
  extract_lets n src t
  have ht : MovesOnly p q r s t := .of_same rfl rfl rfl
  exact .ite (fun _ => ht.trans (movesOnly_partStore t _ _)) (.refl s)

theorem movesOnly_refreshFinish (s : State) : MovesOnly p q r s s.refreshFinish := by
  unfold State.refreshFinish
  extract_lets src t u
  have ht : MovesOnly p q r s t := .of_same rfl rfl rfl
  have hu : MovesOnly p q r s u := ht.trans (movesOnly_partStore t _ _)
  exact .ite (fun _ => hu.trans (.ite (fun _ => movesOnly_freezeImage u) (.refl u))) (.refl s)

theorem movesOnly_enterConfig (s : State) : MovesOnly p q r s s.enterConfig := by
  unfold State.enterConfig
  extract_lets t src u
  have ht : MovesOnly p q r s t := (movesOnly_setPhase s _).trans (.of_steady (steady_faultToConfig _))
  have hu : Steady t u := steady_setHold t false
  have hdone : Steady u (u.settingsStatus 0 0).settle := (steady_settingsStatus u _ _).trans (steady_settle _)
  exact .ite (fun _ => .refl s) (.ite (fun _ => .of_steady (steady_settingsStatus s _ _)) (ht.trans (.of_steady (hu.trans hdone))))

theorem movesOnly_acceptSettings (hq : q) (s : State) : MovesOnly p q r s s.acceptSettings := by
  unfold State.acceptSettings
  extract_lets t u v
  have ht : MovesOnly p q r s t := ⟨.inr fun _ _ => rfl, .inl hq, .inr rfl⟩
  have hu : MovesOnly p q r t u := (MovesOnly.of_steady (steady_acceptHeader t)).trans (movesOnly_setPhase _ _)
  have hv : Steady u v := steady_leaveRest u
  exact (ht.trans hu).trans (.of_steady (((hv.trans (steady_settle v)).trans (steady_testActivation _)).trans (steady_settlePlan _)))

theorem movesOnly_leaveConfig (hq : q) (s : State) : MovesOnly p q r s s.leaveConfig := by
  unfold State.leaveConfig
  refine .ite (fun _ => .refl s) ?_
  split
  · exact .of_steady (steady_settingsStatus s _ _)
  · exact movesOnly_acceptSettings hq s

theorem movesOnly_blocksReset (hr : r) (s : State) : MovesOnly p q r s s.blocksReset :=
  ⟨.inr fun _ _ => rfl, .inr rfl, .inl hr⟩

theorem movesOnly_lineReset (hr : r) (s : State) : MovesOnly p q r s s.lineReset := by
  unfold State.lineReset
  extract_lets t u v w
  have ht : Steady s t := ((steady_composeAll s).trans (steady_clearEntries _)).trans (steady_resetOrders _)
  have hu : Steady t u := (steady_resetCounts t).trans (steady_zeroMirror _)
  have hv : MovesOnly p q r u v := movesOnly_partStore u _ _
  have hw : MovesOnly p q r v w := movesOnly_blocksReset hr v
  have hheader : MovesOnly p q r w ((w.header 0x0A 1 0).header 0x04 1 0) :=
    (movesOnly_partStore w _ _).trans (movesOnly_partStore _ _ _)
  exact .ite (fun _ => .refl s) ((((MovesOnly.of_steady (ht.trans hu)).trans hv).trans hw).trans hheader)

theorem movesOnly_hostWriteWord (hp : p) (s : State) (a : BitVec 13) (v : Word) : MovesOnly p q r s (s.hostWriteWord a v) :=
  .ite (fun _ => ⟨.inl hp, .inr rfl, .inr rfl⟩) (.refl s)

/-- CONTROL moves the settings by code 6 and the positions by code 7 alone (10.5). -/
theorem movesOnly_control (s : State) (v : Word) (hq : v = 6 → q) (hr : v = 7 → r) : MovesOnly p q r s (s.control v) := by
  unfold State.control
  exact .ite (fun _ => .refl s) (.ite (fun _ => movesOnly_attention s) (.ite (fun _ => movesOnly_freezeCommand s)
    (.ite (fun _ => movesOnly_thawCommand s) (.ite (fun _ => .of_steady (steady_resume s))
      (.ite (fun _ => movesOnly_enterConfig s) (.ite (fun h => movesOnly_leaveConfig (hq h) s)
        (.ite (fun h => movesOnly_lineReset (hr h) s) (.refl s))))))))

end

/-! ### Every command -/

/-- The commands that store a byte of the host. -/
def writesHostBytes (c : Instr) : Prop := ∃ a v, c = .exchangeWrite a v

/-- LEAVE CONFIG, commanded or written. -/
def takesSettings (c : Instr) : Prop := c = .leaveConfig ∨ c = .registerWrite .control 6

/-- The encoders, the speed measurement, and LINE RESET, commanded or written. -/
def movesPositions (c : Instr) : Prop :=
  (∃ e d, c = .encoderTransition e d) ∨ c = .speedMeasurement ∨ c = .lineReset ∨ c = .registerWrite .control 7

theorem exec_movesOnly (c : Instr) (s : State) (hpower : c ≠ .powerOn) (hreset : c ≠ .resetPin) :
    ∃ t, exec c s = .next t ∧ MovesOnly (writesHostBytes c) (takesSettings c) (movesPositions c) s t := by
  by_cases hc : movesInputs c = false
  · obtain ⟨t, ht, hsteady⟩ := exec_steady c s hc
    exact ⟨t, ht, .of_steady hsteady⟩
  cases c
  case powerOn => exact absurd rfl hpower
  case resetPin => exact absurd rfl hreset
  case encoderTransition enc sense => exact ⟨_, rfl, movesOnly_transition (.inl ⟨_, _, rfl⟩) s enc sense⟩
  case speedMeasurement => exact ⟨_, rfl, movesOnly_measureSpeed (.inr (.inl rfl)) s⟩
  case frameReturn hop slots => exact ⟨_, rfl, movesOnly_frameReturned s _ slots⟩
  case labelStatus body => exact ⟨_, rfl, movesOnly_labelStatus s body⟩
  case exchangeWrite addr value => exact ⟨_, rfl, movesOnly_hostWriteWord ⟨_, _, rfl⟩ s addr value⟩
  case noticeWrite value => exact ⟨_, rfl, .of_same rfl rfl rfl⟩
  case routeWrite value => exact ⟨_, rfl, .of_same rfl rfl rfl⟩
  case registerWrite register value =>
    cases register with
    | status => exact ⟨_, rfl, .refl s⟩
    | control =>
      exact ⟨_, rfl, movesOnly_control s value (fun h => .inr (congrArg _ h)) (fun h => .inr (.inr (.inr (congrArg _ h))))⟩
  case attention => exact ⟨_, rfl, movesOnly_attention s⟩
  case freeze => exact ⟨_, rfl, movesOnly_freezeCommand s⟩
  case thaw => exact ⟨_, rfl, movesOnly_thawCommand s⟩
  case enterConfig => exact ⟨_, rfl, movesOnly_enterConfig s⟩
  case leaveConfig => exact ⟨_, rfl, movesOnly_leaveConfig (.inl rfl) s⟩
  case lineReset => exact ⟨_, rfl, movesOnly_lineReset (.inr (.inr (.inl rfl))) s⟩
  case sweepTimer => exact ⟨_, rfl, .ite (fun _ => movesOnly_askSweep s) (.refl s)⟩
  case sweepEnd => exact ⟨_, rfl, movesOnly_endSweep s⟩
  case refreshTick => exact ⟨_, rfl, movesOnly_refreshStart s⟩
  case refreshEnd => exact ⟨_, rfl, movesOnly_refreshFinish s⟩
  all_goals exact absurd rfl hc

/-- The host's commands are discarded in STARTING (R175). -/
theorem exec_of_starting {c : Instr} {s : State} (h : s.port.phase = .starting)
    (hc : c = .attention ∨ c = .freeze ∨ c = .thaw ∨ c = .resume ∨ c = .enterConfig ∨ c = .leaveConfig ∨ c = .lineReset) :
    exec c s = .next s := by
  obtain rfl | rfl | rfl | rfl | rfl | rfl | rfl := hc
  · exact congrArg Host.Outcome.next (attention_starting s h)
  · exact congrArg Host.Outcome.next (freezeCommand_starting s h)
  · exact congrArg Host.Outcome.next (thawCommand_starting s h)
  · exact congrArg Host.Outcome.next (resume_starting s h)
  · exact congrArg Host.Outcome.next (enterConfig_starting s h)
  · exact congrArg Host.Outcome.next (leaveConfig_starting s h)
  · exact congrArg Host.Outcome.next (lineReset_starting s h)

/-- Settles O60: what a command may move is read off `exec_movesOnly`. -/
theorem onlyTheirCommandsChange : Obligations.OnlyTheirCommandsChange := by
  intro c s t h hpower hreset
  obtain ⟨u, hu, hmoves⟩ := exec_movesOnly c s hpower hreset
  cases h.symm.trans hu
  refine ⟨fun hwrite => ?_, fun hleave hcontrol => ?_, fun henc hspeed hline hcontrol => ?_, fun hphase hc => ?_⟩
  · exact hmoves.host.resolve_left fun ⟨a, v, hav⟩ => hwrite a v hav
  · exact hmoves.settings.resolve_left fun hset => hset.elim hleave hcontrol
  · refine hmoves.coord.resolve_left fun hpos => ?_
    obtain ⟨e, d, hed⟩ | hs | hl | hw := hpos
    exacts [henc e d hed, hspeed hs, hline hl, hcontrol hw]
  · cases h.symm.trans (exec_of_starting hphase hc)
    rfl

end Sys2Proof.Proofs.EveryCommand
end

section
/-! PROOFS. The fault unit (chapter 9) in small facts: what the fault list's writes leave alone, what a raise and a clear do to the
active-fault set, and what follows from them in the loops. -/

namespace Sys2Proof.Proofs.FaultFacts
open Sys2Proof.Machine

/-! ## The fault list (9.4) writes the list alone -/

/-- From `s` to `t` only the fault list has moved: exchange memory, notices and exchange counter, and the entry sequence, the free
slots and the acknowledgements of the fault unit. -/
structure ListOnly (s t : State) : Prop where
  fault : t.fault = { s.fault with entrySeq := t.fault.entrySeq, free := t.fault.free, acked := t.fault.acked }
  rest : t = { s with mem := t.mem, port := t.port, fault := t.fault }

theorem ListOnly.refl (s : State) : ListOnly s s := ⟨rfl, rfl⟩

theorem ListOnly.trans {s t u : State} (h : ListOnly s t) (k : ListOnly t u) : ListOnly s u :=
  ⟨by rw [k.fault, h.fault], by rw [k.rest, h.rest]⟩

theorem ListOnly.ite {c : Prop} [Decidable c] {s t u : State} (h : ListOnly s t) (k : ListOnly s u) :
    ListOnly s (if c then t else u) := by
  split
  · exact h
  · exact k

theorem listOnly_partStore (s : State) (a : Nat) (bs : List Byte) : ListOnly s (s.partStore a bs) := by
  unfold State.partStore
  split <;> exact ⟨rfl, rfl⟩

theorem listOnly_latch (s : State) (f : Factor) : ListOnly s (s.latch f) := ⟨rfl, rfl⟩

theorem listOnly_free (s : State) (x : List Bool) : ListOnly s { s with fault := { s.fault with free := x } } := ⟨rfl, rfl⟩

theorem listOnly_tagWritten (s : State) : ListOnly s s.tagWritten :=
  ListOnly.trans (t := { s with port := { s.port with counter := nextCyclic 255 s.port.counter } }) ⟨rfl, rfl⟩
    (listOnly_partStore _ 0x0A (natBytes 1 (nextCyclic 255 s.port.counter)))

theorem listOnly_writeFaultTag (s : State) (n : Nat) (advance : Bool) : ListOnly s (s.writeFaultTag n advance) := by
  unfold State.writeFaultTag
  extract_lets t u src v
  have h : ListOnly s v := (listOnly_partStore s _ _).trans ⟨rfl, rfl⟩
  exact .ite (h.trans (listOnly_tagWritten v)) h

theorem listOnly_newEntry (s : State) (code subject : Nat) : ListOnly s (s.newEntry code subject) := by
  unfold State.newEntry
  extract_lets q src t
  have ht : ListOnly s t := ⟨rfl, rfl⟩
  split
  · exact ht.trans (listOnly_partStore t _ _)
  · extract_lets
    exact (((ht.trans (listOnly_partStore t _ _)).trans (listOnly_free _ _)).trans (listOnly_writeFaultTag _ _ _)).trans
      (listOnly_latch _ _)

theorem listOnly_countEntry (s : State) (n code : Nat) : ListOnly s (s.countEntry n code) := by
  unfold State.countEntry
  extract_lets a t u v
  have hu : ListOnly s u := (listOnly_partStore s _ _).trans (listOnly_partStore t _ _)
  have hv : ListOnly u v := .ite (listOnly_partStore u _ _) (.refl u)
  exact (hu.trans hv).trans (listOnly_writeFaultTag v _ _)

theorem listOnly_clearEntry (s : State) (n code : Nat) (advance : Bool) : ListOnly s (s.clearEntry n code advance) :=
  ((listOnly_partStore s _ _).trans (listOnly_partStore _ _ _)).trans (listOnly_writeFaultTag _ _ _)

theorem listOnly_listRaise (s : State) (code subject : Nat) : ListOnly s (s.listRaise code subject) := by
  unfold State.listRaise
  refine .ite ?_ (.ite ?_ (listOnly_newEntry s _ _))
  all_goals
    split
    · exact listOnly_countEntry s _ _
    · exact listOnly_newEntry s _ _

section
variable {s t : State} (h : ListOnly s t)
include h

theorem ListOnly.active : t.fault.active = s.fault.active := by rw [h.fault]

theorem ListOnly.st : t.fault.st = s.fault.st := by rw [h.fault]

theorem ListOnly.settings : t.settings = s.settings := by rw [h.rest]

theorem ListOnly.reactionOf (code : Nat) : t.reactionOf code = s.reactionOf code := by
  simp only [State.reactionOf, State.setting, h.settings]

end

/-! ## The active-fault set (R156) -/

theorem faultActive_iff (s : State) (code subject : Nat) :
    s.faultActive code subject = true ↔ ({ code := code, subject := subject } : FaultId) ∈ s.fault.active := decide_eq_true_iff

@[simp] theorem faultSettle_active (s : State) : s.faultSettle.fault.active = s.fault.active := by
  unfold State.faultSettle
  split <;> rfl

@[simp] theorem enterStopped_active (s : State) : s.enterStopped.fault.active = s.fault.active := by
  unfold State.enterStopped
  split <;> rfl

/-- A condition joins the active-fault set at its end, once. -/
theorem raiseCore_active_condition (s : State) {code : Nat} (subject : Nat) (hc : isEventKind code = false) :
    (s.raiseCore code subject).fault.active
      = if s.faultActive code subject then s.fault.active else s.fault.active ++ [{ code := code, subject := subject }] := by
  have hlist := (listOnly_listRaise s code subject).active
  have hactive : (s.listRaise code subject).faultActive code subject = s.faultActive code subject := by
    simp only [State.faultActive, hlist]
  unfold State.raiseCore
  simp only [faultSettle_active, hc, Bool.false_eq_true, if_false, hactive]
  split <;> split <;> simp [hlist]

/-- An event leaves the active-fault set as it is. -/
theorem raiseCore_active_event (s : State) {code : Nat} (subject : Nat) (hc : isEventKind code = true) :
    (s.raiseCore code subject).fault.active = s.fault.active := by
  have hlist := (listOnly_listRaise s code subject).active
  unfold State.raiseCore
  simp only [faultSettle_active, hc, if_true]
  split <;> split <;> simp [hlist]

/-- A clear takes the fault alone out of the set. -/
theorem clearCore_active (s : State) (code subject : Nat) :
    (s.clearCore code subject).fault.active
      = s.fault.active.filter (fun f => decide (f ≠ ({ code := code, subject := subject } : FaultId))) := by
  unfold State.clearCore
  split
  next hactive =>
    simp only [faultSettle_active]
    split
    next n _ =>
      have hentry := ((listOnly_clearEntry s n code true).trans (listOnly_latch _ .fault)).active
      rw [hentry]
    next => rfl
  next hactive =>
    rw [faultActive_iff] at hactive
    refine (List.filter_eq_self.mpr fun f hf => decide_eq_true_iff.mpr ?_).symm
    rintro rfl
    exact hactive hf

theorem mem_clearCore_active (s : State) (code subject : Nat) (f : FaultId) :
    f ∈ (s.clearCore code subject).fault.active ↔ f ∈ s.fault.active ∧ f ≠ { code := code, subject := subject } := by
  rw [clearCore_active, List.mem_filter, decide_eq_true_iff]

/-! ## What the loops' reactions do to the set -/

@[simp] theorem loopsSettle_fault (s : State) : s.loopsSettle.fault = s.fault := rfl

/-- Handing a command over moves waiting commands alone. -/
theorem hand_eq (s : State) (t : Target) (c : LinkCmd) :
    (s.hand t c).1 = { s with link := { s.link with nodes := (s.hand t c).1.link.nodes } } := by
  unfold State.hand
  split
  · rfl
  · split
    · rfl
    · split
      · rfl
      · split
        · rfl
        · split <;> rfl

@[simp] theorem hand_fault (s : State) (t : Target) (c : LinkCmd) : (s.hand t c).1.fault = s.fault := by rw [hand_eq]

@[simp] theorem sendLift_fault (s : State) : s.sendLift.fault = s.fault := by
  unfold State.sendLift
  extract_lets src t
  have ht : (t.hand .emboss .lift).1.fault = s.fault := hand_fault t _ _
  split
  next heq => rwa [heq] at ht
  next heq =>
    rw [heq] at ht
    rw [hand_fault]
    exact ht

/-- Entry to LIFTED clears the two faults of the emboss drive and no other. -/
theorem mem_enterLifted_active (s : State) (f : FaultId) :
    f ∈ s.enterLifted.fault.active ↔ f ∈ s.fault.active ∧ f ≠ { code := embossDriveTimeout, subject := 0 }
      ∧ f ≠ { code := embossRegisterLoss, subject := 0 } := by
  unfold State.enterLifted
  extract_lets src t u src2
  have hu : f ∈ u.fault.active ↔ f ∈ s.fault.active ∧ f ≠ { code := embossDriveTimeout, subject := 0 }
      ∧ f ≠ { code := embossRegisterLoss, subject := 0 } := by
    rw [mem_clearCore_active, mem_clearCore_active, and_assoc]
  split
  · exact hu
  · split
    · exact hu
    · exact hu

/-- What the emboss loop's reaction may take out of the set. -/
theorem mem_embossSettle_active (s : State) (f : FaultId) :
    (f ∈ s.embossSettle.fault.active → f ∈ s.fault.active)
    ∧ (f ∈ s.fault.active → f ≠ { code := embossDriveTimeout, subject := 0 } →
        f ≠ { code := embossRegisterLoss, subject := 0 } → f ∈ s.embossSettle.fault.active) := by
  have same {t : State} (h : t.fault = s.fault) : (f ∈ t.fault.active → f ∈ s.fault.active)
      ∧ (f ∈ s.fault.active → f ≠ { code := embossDriveTimeout, subject := 0 } →
          f ≠ { code := embossRegisterLoss, subject := 0 } → f ∈ t.fault.active) := by
    rw [h]
    exact ⟨id, fun hf _ _ => hf⟩
  unfold State.embossSettle
  split
  · exact same rfl
  · split <;> exact same rfl
  · split
    · exact ⟨fun hf => ((mem_enterLifted_active s f).mp hf).1, fun hf h1 h2 => (mem_enterLifted_active s f).mpr ⟨hf, h1, h2⟩⟩
    · exact same rfl
  · split <;> exact same rfl
  · split
    · exact same (sendLift_fault s)
    · exact same rfl
  · exact same rfl

theorem mem_settle_active (s : State) {f : FaultId} (h : f ∈ s.fault.active)
    (h1 : f.code ≠ embossDriveTimeout) (h2 : f.code ≠ embossRegisterLoss) : f ∈ s.settle.fault.active :=
  (mem_embossSettle_active s.loopsSettle f).2 h (fun e => h1 (by rw [e])) (fun e => h2 (by rw [e]))

theorem mem_of_settle_active (s : State) {f : FaultId} (h : f ∈ s.settle.fault.active) : f ∈ s.fault.active :=
  (mem_embossSettle_active s.loopsSettle f).1 h

/-! ## Raise and clear -/

theorem raiseCore_faultActive (s : State) {code : Nat} (subject : Nat) (hc : isEventKind code = false) :
    (s.raiseCore code subject).faultActive code subject = true := by
  rw [faultActive_iff, raiseCore_active_condition s subject hc]
  split
  next hactive => exact (faultActive_iff s code subject).mp hactive
  next => simp

/-- A raised condition is active; only the two kinds that an entry to LIFTED clears may be gone again at once. -/
theorem raise_faultActive (s : State) {code : Nat} (subject : Nat) (hc : isEventKind code = false)
    (h1 : code ≠ embossDriveTimeout) (h2 : code ≠ embossRegisterLoss) :
    (s.raise code subject).faultActive code subject = true := by
  rw [faultActive_iff]
  exact mem_settle_active _ ((faultActive_iff _ _ _).mp (raiseCore_faultActive s subject hc)) h1 h2

/-- A cleared fault is not active. -/
theorem clear_faultActive (s : State) (code subject : Nat) : (s.clear code subject).faultActive code subject = false := by
  rw [Bool.eq_false_iff, Ne, faultActive_iff]
  intro h
  exact ((mem_clearCore_active s code subject _).mp (mem_of_settle_active _ h)).2 rfl

/-- A raise keeps what was active, but for the two kinds that an entry to LIFTED clears. -/
theorem raise_keeps_active (s : State) {code subject : Nat} {f : FaultId} (h : f ∈ s.fault.active)
    (h1 : f.code ≠ embossDriveTimeout) (h2 : f.code ≠ embossRegisterLoss) : f ∈ (s.raise code subject).fault.active := by
  refine mem_settle_active _ ?_ h1 h2
  by_cases hc : isEventKind code = true
  · rwa [raiseCore_active_event s subject hc]
  · rw [raiseCore_active_condition s subject (by simpa using hc)]
    split
    · exact h
    · exact List.mem_append_left _ h

end Sys2Proof.Proofs.FaultFacts
end

section
/-! PROOFS. The coordinate unit (1.1): encoder counts with the high-water marks, REVERSE_LIMIT, the speed measurement with the
low-speed hold cause of the station loops, and the events that are not due. -/

namespace Sys2Proof.Proofs.Coordinates
open Sys2Proof.Machine Sys2Proof.Proofs.FaultFacts

/-! ## Counts (R1, R2) -/

/-- A forward count below the greatest position adds 1. -/
theorem forwardPosition_toNat {w : Position} {idx : Nat} (h : (w.toNat : Int) < 2 ^ 48 - 1) :
    (forwardPosition w idx).toNat = w.toNat + 1 := by
  have hw : w.toNat < 2 ^ 48 - 1 := by omega
  rw [forwardPosition, if_neg (by simp only [maxPosition]; omega), BitVec.toNat_add]
  have hone : (1 : Position).toNat = 1 := rfl
  rw [hone, Nat.mod_eq_of_lt (by omega)]

theorem forwardUse_eq_zero {w : Position} (h : (w.toNat : Int) < 2 ^ 48 - 1) : forwardUse w = 0 :=
  if_neg (by simp only [maxPosition]; omega)

theorem reversePosition_toNat (w : Position) : (reversePosition w).toNat = w.toNat - 1 := by
  unfold reversePosition
  split
  next h => rw [h]; rfl
  next h =>
    have hpos : w.toNat ≠ 0 := fun h0 => h (BitVec.eq_of_toNat_eq h0)
    have hlt := w.isLt
    have hone : (1 : Position).toNat = 1 := rfl
    rw [BitVec.toNat_sub, hone]
    omega

theorem highWater_toNat (h w : Position) : (highWater h w).toNat = max h.toNat w.toNat := by
  unfold highWater
  split <;> omega

theorem posW_eq_zero_iff (s : State) : s.posW = 0 ↔ s.coord.w = 0 := by
  rw [State.posW, Int.natCast_eq_zero]
  exact ⟨fun h => BitVec.eq_of_toNat_eq h, fun h => by rw [h]; rfl⟩

theorem posW_eq_posH_iff (s : State) : s.posW = s.posH ↔ s.coord.w = s.coord.h := by
  rw [State.posW, State.posH, Int.natCast_inj]
  exact ⟨BitVec.eq_of_toNat_eq, congrArg BitVec.toNat⟩

/-! ## PE counts and REVERSE_LIMIT (R4) -/

/-- The positions after a forward PE count. -/
def peAdvanced (s : State) : Coord :=
  { s.coord with w := forwardPosition s.coord.w s.freeIdx, h := highWater s.coord.h (forwardPosition s.coord.w s.freeIdx) }

theorem peForward_eq (s : State) (h : s.posW < 2 ^ 48 - 1) :
    s.peForward = if (peAdvanced s).w = (peAdvanced s).h then State.clear { s with coord := peAdvanced s } reverseLimitFault 0
      else { s with coord := peAdvanced s } := by
  simp only [State.peForward, forwardUse_eq_zero h, Nat.add_zero]
  rfl

/-- Settles O3: the count moves W and H, and only a W at H lets the clear of REVERSE_LIMIT follow. -/
theorem peForwardCounts : Obligations.PeForwardCounts := by
  intro s hs
  refine ⟨s.peForward, rfl, ?_⟩
  have hw : ((peAdvanced s).w.toNat : Int) = s.posW + 1 := congrArg Nat.cast (forwardPosition_toNat hs)
  have hh : ((peAdvanced s).h.toNat : Int) = max s.posH (s.posW + 1) := by
    rw [← hw, State.posH, ← Nat.cast_max]
    exact congrArg Nat.cast (highWater_toNat _ _)
  have hreach : State.faultReach { s with coord := peAdvanced s } s.peForward := by
    rw [peForward_eq s hs]
    exact .ite (reach_clear _ _ _) (.refl _)
  have hcoord : s.peForward.coord = peAdvanced s := hreach.inputs.coord
  have hposW : s.peForward.posW = s.posW + 1 := by rw [State.posW, hcoord, hw]
  have hposH : s.peForward.posH = max s.posH (s.posW + 1) := by rw [State.posH, hcoord, hh]
  have hmark : s.peForward.posW = s.peForward.posH ↔ (peAdvanced s).w = (peAdvanced s).h := by
    rw [posW_eq_posH_iff, hcoord]
  refine ⟨hposW, hposH, by rw [State.posWF, hcoord]; rfl, by rw [State.posHF, hcoord]; rfl, by rw [hcoord]; rfl,
    by rw [hcoord]; rfl, fun hlt => ?_, fun heq => ?_, by rw [hcoord]; exact hreach⟩
  · have hne : ¬ (peAdvanced s).w = (peAdvanced s).h := fun h => hlt.ne (hmark.mpr h)
    rw [hcoord, peForward_eq s hs, if_neg hne]
  · rw [peForward_eq s hs, if_pos (hmark.mp heq)]
    exact clear_faultActive _ _ _

/-- The positions after a reverse PE count. -/
def peReversed (s : State) : Coord := { s.coord with w := reversePosition s.coord.w }

theorem peReverse_eq (s : State) (h : 0 < s.posW) :
    s.peReverse = if s.reverseLimit < s.posH - (s.posW - 1) ∧ ¬ s.faultActive reverseLimitFault 0 then
        State.raise { s with coord := peReversed s } reverseLimitFault 0
      else { s with coord := peReversed s } := by
  have hw : ((reversePosition s.coord.w).toNat : Int) = s.posW - 1 := by
    rw [reversePosition_toNat, State.posW]
    simp only [State.posW] at h
    omega
  have hne : ¬ s.coord.w = 0 := fun h0 => h.ne' ((posW_eq_zero_iff s).mpr h0)
  rw [State.peReverse, if_neg hne, ← hw]
  rfl

/-- Settles O4: W falls by 1, and REVERSE_LIMIT is raised beyond the limit where it is not active. -/
theorem peReverseCounts : Obligations.PeReverseCounts := by
  refine fun s => ⟨fun h0 => congrArg Host.Outcome.next (if_pos ((posW_eq_zero_iff s).mp h0)), fun hpos => ?_⟩
  refine ⟨s.peReverse, rfl, ?_⟩
  have hreach : State.faultReach { s with coord := peReversed s } s.peReverse := by
    rw [peReverse_eq s hpos]
    exact .ite (reach_raise _ _ _) (.refl _)
  have hcoord : s.peReverse.coord = peReversed s := hreach.inputs.coord
  have hposW : s.peReverse.posW = s.posW - 1 := by
    rw [State.posW, hcoord, peReversed, reversePosition_toNat, State.posW]
    simp only [State.posW] at hpos
    omega
  have hposH : s.peReverse.posH = s.posH := by rw [State.posH, hcoord]; rfl
  refine ⟨hposW, by rw [hcoord]; rfl, fun hbelow => ?_, fun hbeyond => ?_, by rw [hcoord]; exact hreach⟩
  · rw [hposW, hposH] at hbelow
    have hnot : ¬ (s.reverseLimit < s.posH - (s.posW - 1) ∧ ¬ s.faultActive reverseLimitFault 0) := by
      rintro ⟨hlimit, hinactive⟩
      exact hbelow.elim (fun h => absurd hlimit (not_lt.mpr h)) (fun h => hinactive h)
    rw [hcoord, peReverse_eq s hpos, if_neg hnot]
  · rw [hposW, hposH] at hbeyond
    rw [peReverse_eq s hpos]
    split
    · exact raise_faultActive _ 0 rfl (by decide) (by decide)
    next hnot => exact not_not.mp fun hinactive => hnot ⟨hbeyond, hinactive⟩

/-- Settles O5: an FE count writes W_F and H_F, and a transition without direction writes nothing. -/
theorem feCountsAndLostDirection : Obligations.FeCountsAndLostDirection := by
  refine fun s => ⟨fun hs => ?_, ?_, rfl, rfl⟩
  · have hw := forwardPosition_toNat (w := s.coord.wF) (idx := s.freeIdx) hs
    have hh := highWater_toNat s.coord.hF (forwardPosition s.coord.wF s.freeIdx)
    refine ⟨s.feForward, rfl, ?_, congrArg Nat.cast hw, ?_⟩
    · simp only [State.feForward, forwardUse_eq_zero hs, Nat.add_zero]
    · rw [hw] at hh
      exact (congrArg Nat.cast hh).trans (Nat.cast_max ..)
  · refine ⟨s.feReverse, rfl, rfl, ?_⟩
    show ((reversePosition s.coord.wF).toNat : Int) = max 0 ((s.coord.wF.toNat : Int) - 1)
    rw [reversePosition_toNat]
    omega

/-! ## Station loops under their causes (R33) -/

theorem settled_off {l : Loop} (holds : Bool) (h : l.st = .off) : l.settled holds = l := by simp only [Loop.settled, h]

/-- A cause takes every running loop to HOLD. -/
theorem settled_hold {l : Loop} (h : l.st ≠ .off) : (l.settled true).st = .hold := by
  cases hst : l.st
  case off => exact absurd hst h
  all_goals simp [Loop.settled, hst]

/-- A loop in HOLD without a cause goes to ACQUIRE. -/
theorem settled_acquire {l : Loop} (h : l.st = .hold) :
    l.settled false = { l with st := .acquire, valid := 0, miss := 0, settle := 0, reload := false } := by
  simp [Loop.settled, h]

/-- After the reaction of the loops, each station's loop is its loop before under its causes. -/
theorem loop_loopsSettle (s : State) {st : Nat} (h : 1 ≤ st) : s.loopsSettle.loop st = (s.loop st).settled (s.holds st) := by
  have hst : st - 1 + 1 = st := by omega
  have hreset (b : Bool) : Loop.reset.settled b = Loop.reset := settled_off b rfl
  simp only [State.loop, State.loopsSettle, List.getD_eq_getElem?_getD, List.getElem?_mapIdx, hst]
  cases s.reg.loops[st - 1]? with
  | none => exact (hreset _).symm
  | some l => rfl

/-! ## The speed measurement (R5) -/

/-- The state in which the loops meet the new speed. -/
def speedTaken (s : State) : State :=
  { s with
    coord := { s.coord with speed := s.measuredSpeed, speedBase := s.coord.w },
    reg := { s.reg with lowSpeed := decide (s.measuredSpeed < s.setting 47) } }

theorem measureSpeed_eq (s : State) : s.measureSpeed = (speedTaken s).loopsSettle := rfl

/-- Settles O6: the measurement sets the low-speed cause, and each loop follows its causes. -/
theorem speedMeasured : Obligations.SpeedMeasured := by
  intro s
  refine ⟨s.measureSpeed, rfl, rfl, rfl, decide_eq_true_iff, fun st h1 _ => ?_⟩
  have hspeed : s.measureSpeed.coord.speed = s.measuredSpeed := rfl
  have hloop : s.measureSpeed.loop st = (s.loop st).settled ((speedTaken s).holds st) := loop_loopsSettle (speedTaken s) h1
  refine ⟨fun hlow hrun => ?_, fun hfast hsplice hlost hstop hnode hhold => ?_, fun hoff => ?_⟩
  · have hcause : (speedTaken s).holds st = true := by
      simp only [State.holds, speedTaken, decide_eq_true (hspeed ▸ hlow), Bool.true_or]
    rw [hloop, hcause]
    exact settled_hold hrun
  · have hlow : decide (s.measuredSpeed < s.setting 47) = false := decide_eq_false (not_lt.mpr hfast)
    have hnone : (speedTaken s).holds st = false := by
      show (decide (s.measuredSpeed < s.setting 47) || s.spliceHold || s.faultActive referenceLost 0
        || decide (s.fault.st = .stopped) || !s.nodePresent (.station st)) = false
      simp [hlow, hsplice, hlost, hstop, hnode]
    rw [hloop, hnone, settled_acquire hhold]
    exact ⟨rfl, rfl, rfl⟩
  · rw [hloop, settled_off _ hoff]

/-! ## What is not due (log 1) -/

theorem reached_eq_false {s : State} {x : Option Int} (h : ∀ y, x = some y → s.posHF < y) : s.reached x = false := by
  cases x with
  | none => rfl
  | some y => simp [State.reached, h y rfl]

theorem blockEvent_early (s : State) (h : ∀ b, s.reg.block = some b → s.posH ≤ b.closeAfter) : s.blockEvent = s := by
  unfold State.blockEvent
  split
  next b hb => exact if_neg (not_lt.mpr (h b hb))
  next => rfl

theorem windowEvent_early (s : State) (h : ∀ c, s.reg.cPrev = some c → s.posH ≤ c + floorDiv (9 * s.reg.lExp) 8) :
    s.windowEvent = s := by
  unfold State.windowEvent State.refWindowEnd
  cases hc : s.reg.cPrev with
  | none => rfl
  | some c => exact if_neg (not_lt.mpr (h c hc))

theorem embossWindowEvent_early (s : State) (c : Int)
    (h : ∀ u, s.unit? c = some u → u.g.isSome = true ∨ s.posH ≤ u.c + u.winX + s.emb.delta + u.winHalf) :
    s.embossWindowEvent c = s := by
  unfold State.embossWindowEvent
  split
  next u hu =>
    refine if_neg fun hdue => ?_
    rw [Bool.and_eq_true, decide_eq_true_iff, UnitRec.unmatched, Option.isNone_iff_eq_none] at hdue
    obtain hg | hend := h u hu
    · simp [hdue.1] at hg
    · exact absurd hdue.2 (not_lt.mpr hend)
  next => rfl

theorem leaveEvent_early (s : State)
    (h : ∀ u rest, s.track.units = u :: rest → ∀ x, u.leaveAt = some x → s.posHF < x) : s.leaveEvent = s := by
  unfold State.leaveEvent State.leavingUnit
  cases hu : s.track.units with
  | nil => rfl
  | cons u rest =>
    have hearly := h u rest hu
    cases hx : u.leaveAt with
    | none => simp [hx]
    | some x => simp [hx, not_le.mpr (hearly x hx)]

theorem nipEvent_early (s : State) (c : Int) (h : ∀ u x, s.unit? c = some u → u.nipAt = some x → s.posHF < x) :
    s.nipEvent c = s := by
  unfold State.nipEvent
  split
  next u hu => exact if_neg (by simp [reached_eq_false fun x => h u x hu])
  next => rfl

theorem shadeEvent_early (s : State) (c : Int) (h : ∀ u x, s.unit? c = some u → u.shadeAt = some x → s.posHF < x) :
    s.shadeEvent c = s := by
  unfold State.shadeEvent
  split
  next u hu => exact if_neg (by simp [reached_eq_false fun x => h u x hu])
  next => rfl

theorem horizonEvent_early (s : State) (c : Int) (h : ∀ u x, s.unit? c = some u → u.horizonAt = some x → s.posHF < x) :
    s.horizonEvent c = s := by
  unfold State.horizonEvent
  split
  next u hu => exact if_neg (by simp [reached_eq_false fun x => h u x hu])
  next => rfl

theorem leadEvent_early (s : State) (h : ∀ l, s.winder.lead = some l → l.fired = true ∨ s.posHF < l.threshold) :
    s.leadEvent = s := by
  unfold State.leadEvent State.leadDue
  cases hl : s.winder.lead with
  | none => rfl
  | some l =>
    obtain hf | ht := h l hl
    · simp [Option.filter, hf]
    · simp [Option.filter, not_le.mpr ht]

theorem leadPassedEvent_early (s : State)
    (h : s.winder.st ≠ .stalled ∨ ∀ l, s.winder.lead = some l → l.fired = false ∨ s.posHF ≤ l.threshold) :
    s.leadPassedEvent = s := by
  refine if_neg ?_
  unfold State.leadPassed
  obtain hst | hl := h
  · simp [hst]
  · cases hlead : s.winder.lead with
    | none => simp
    | some l => obtain hf | ht := hl l hlead <;> simp [*]

/-- Settles O7: one lemma for each event, and the four sensor edges by R3. -/
theorem notDueChangesNothing : Obligations.NotDueChangesNothing := by
  intro s
  have next {t : State} (h : t = s) : Host.Outcome.next (φ := Fault) (ρ := Refusal) t = .next s := congrArg _ h
  have hpe (h : s.coord.w ≠ s.coord.h) : ¬ s.peAtMark = true := by simp [State.peAtMark, h]
  have hfe (h : s.coord.wF ≠ s.coord.hF) : ¬ s.feAtMark = true := by simp [State.feAtMark, h]
  refine ⟨fun h => ⟨next (if_neg (hpe h)), next (if_neg (hpe h))⟩, fun h => ⟨next (if_neg (hfe h)), next (if_neg (hfe h))⟩,
    fun h => next (blockEvent_early s h), fun h => next (windowEvent_early s h),
    fun c h => next (embossWindowEvent_early s c h), fun h => next (leaveEvent_early s h),
    fun c h => next (nipEvent_early s c h), fun c h => next (shadeEvent_early s c h),
    fun c h => next (horizonEvent_early s c h), fun h => next (leadEvent_early s h),
    fun h => next (leadPassedEvent_early s h), fun h => next ?_⟩
  rw [State.missEvent, h]

end Sys2Proof.Proofs.Coordinates
end

section
/-! PROOFS. Look-ups after updates: the loop of a station, the record of an order slot, and the units of the track; and how a frame
`State.faultReach` is carried past an update of what it leaves open. -/

namespace Sys2Proof.Proofs.Lookups
open Sys2Proof.Machine

/-! ## Lists -/

theorem modifyAt_eq_modify {α : Type} (f : α → α) (i : Nat) (l : List α) : modifyAt f i l = l.modify i f := by
  induction l generalizing i with
  | nil => cases i <;> rfl
  | cons a l ih =>
    cases i with
    | zero => rfl
    | succ i => simp [modifyAt, ih]

theorem getElem?_modifyAt {α : Type} (f : α → α) (i j : Nat) (l : List α) :
    (modifyAt f i l)[j]? = if i = j then l[j]?.map f else l[j]? := by
  rw [modifyAt_eq_modify, List.getElem?_modify]
  split <;> simp

theorem getD_modifyAt_ne {α : Type} (f : α → α) {i j : Nat} (h : i ≠ j) (l : List α) (d : α) :
    (modifyAt f i l).getD j d = l.getD j d := by
  simp only [List.getD_eq_getElem?_getD, getElem?_modifyAt, if_neg h]

theorem getD_modifyAt_same {α : Type} (f : α → α) {i : Nat} {l : List α} (h : i < l.length) (d : α) :
    (modifyAt f i l).getD i d = f (l.getD i d) := by
  simp [List.getD_eq_getElem?_getD, getElem?_modifyAt, h]

@[simp] theorem length_modifyAt {α : Type} (f : α → α) (i : Nat) (l : List α) : (modifyAt f i l).length = l.length := by
  rw [modifyAt_eq_modify, List.length_modify]

/-! ## Orders and loops -/

theorem order_setOrder_ne (s : State) {n m : Nat} (f : OrderRec → OrderRec) (h : m ≠ n) :
    (s.setOrder n f).order m = s.order m := getD_modifyAt_ne f (Ne.symm h) _ _

theorem order_setOrder_same (s : State) {n : Nat} (f : OrderRec → OrderRec) (h : n < s.ord.orders.length) :
    (s.setOrder n f).order n = f (s.order n) := getD_modifyAt_same f h _

theorem order_congr {s t : State} (h : t.ord = s.ord) (n : Nat) : t.order n = s.order n := by rw [State.order, h]; rfl

theorem body_congr {s t : State} (h : t.ord = s.ord) (n : Nat) : t.body n = s.body n := by
  rw [State.body, order_congr h]; rfl

theorem setting_congr {s t : State} (h : t.settings = s.settings) (i : Nat) : t.setting i = s.setting i := by
  rw [State.setting, h]; rfl

theorem loop_congr {s t : State} (h : t.reg.loops = s.reg.loops) (st : Nat) : t.loop st = s.loop st := by
  rw [State.loop, h]; rfl

/-- A loop that runs has a place in the list of loops. -/
theorem lt_length_of_running {s : State} {st : Nat} (h : (s.loop st).st ≠ .off) : st - 1 < s.reg.loops.length := by
  by_contra hlen
  exact h (by rw [State.loop, List.getD_eq_default _ _ (not_lt.mp hlen)]; rfl)

theorem loop_setLoop_ne (s : State) {st st' : Nat} (f : Loop → Loop) (h : st' - 1 ≠ st - 1) :
    (s.setLoop st f).loop st' = s.loop st' := getD_modifyAt_ne f (Ne.symm h) _ _

theorem loop_setLoop_same (s : State) {st : Nat} (f : Loop → Loop) (h : st - 1 < s.reg.loops.length) :
    (s.setLoop st f).loop st = f (s.loop st) := getD_modifyAt_same f h _

theorem loop_setLoop_of_running {s : State} {st : Nat} (f : Loop → Loop) (h : (s.loop st).st ≠ .off) :
    (s.setLoop st f).loop st = f (s.loop st) := loop_setLoop_same s f (lt_length_of_running h)

/-! ## Units -/

theorem unit?_c {s : State} {c : Int} {u : UnitRec} (h : s.unit? c = some u) : u.c = c :=
  of_decide_eq_true (List.find?_some (p := fun u : UnitRec => decide (u.c = c)) h)

theorem unit?_eq_none_iff (s : State) (c : Int) : s.unit? c = none ↔ ∀ u ∈ s.track.units, u.c ≠ c := by
  simp [State.unit?]

theorem unit?_congr {s t : State} (h : t.track.units = s.track.units) (c : Int) : t.unit? c = s.unit? c := by
  rw [State.unit?, h]; rfl

/-- In a track of rising coordinates a record is found by its own coordinate. -/
theorem unit?_of_mem {s : State} (hrise : (s.track.units.map UnitRec.c).Pairwise (fun a b => a < b)) {u : UnitRec}
    (h : u ∈ s.track.units) : s.unit? u.c = some u := by
  unfold State.unit?
  generalize s.track.units = us at hrise h
  induction us with
  | nil => cases h
  | cons v us ih =>
    rw [List.map_cons, List.pairwise_cons] at hrise
    obtain rfl | hmem := List.mem_cons.mp h
    · simp
    · have hne : v.c ≠ u.c := (hrise.1 u.c (List.mem_map_of_mem hmem)).ne
      rw [List.find?_cons_of_neg (by simpa using hne)]
      exact ih hrise.2 hmem

/-! ## Frames -/

/-- From `s` to `t` nothing has changed but track, register unit and orders, and what a raise or clear of a fault reaches. -/
def ReachOpen (s t : State) : Prop := State.faultReach { s with track := t.track, reg := t.reg, ord := t.ord } t

/-- What a raise or clear reaches after an update of track, register unit and orders. -/
theorem ReachOpen.of_reach {s t : State} {a : Track} {b : RegisterUnit} {c : OrderUnit}
    (h : State.faultReach { s with track := a, reg := b, ord := c } t) : ReachOpen s t where
  pending := h.pending
  inputs := ⟨h.inputs.coord, h.inputs.settings, h.inputs.printer, h.inputs.port, h.inputs.notice, h.inputs.host⟩
  track := rfl
  register := rfl
  draw := h.draw
  shade := h.shade
  cut := h.cut
  winder := h.winder
  rolls := h.rolls
  orders := rfl
  freeIdx := h.freeIdx
  link := h.link
  nodes := h.nodes
  bytes := h.bytes

theorem ReachOpen.trans {s t u : State} (h : ReachOpen s t) (k : ReachOpen t u) : ReachOpen s u where
  pending := k.pending.trans h.pending
  inputs := ⟨k.inputs.coord.trans h.inputs.coord, k.inputs.settings.trans h.inputs.settings,
    k.inputs.printer.trans h.inputs.printer, by rw [k.inputs.port, h.inputs.port],
    fun i hi => k.inputs.notice i (h.inputs.notice i hi), fun a ha => (k.inputs.host a ha).trans (h.inputs.host a ha)⟩
  track := rfl
  register := rfl
  draw := k.draw.trans h.draw
  shade := k.shade.trans h.shade
  cut := k.cut.trans h.cut
  winder := k.winder.trans h.winder
  rolls := k.rolls.trans h.rolls
  orders := rfl
  freeIdx := k.freeIdx.trans h.freeIdx
  link := by rw [k.link, h.link]
  nodes := k.nodes.trans h.nodes
  bytes := fun a ha => (k.bytes a ha).trans (h.bytes a ha)

theorem ReachOpen.refl (s : State) : ReachOpen s s := .of_reach (a := s.track) (b := s.reg) (c := s.ord) (.refl s)

theorem ReachOpen.of_faultReach {s t : State} (h : s.faultReach t) : ReachOpen s t :=
  .of_reach (a := s.track) (b := s.reg) (c := s.ord) h

theorem ReachOpen.setReg {s t : State} (h : ReachOpen s t) (x : RegisterUnit) : ReachOpen s { t with reg := x } :=
  h.trans (.of_reach (.refl { t with track := t.track, reg := x, ord := t.ord }))

/-- From `s` to `t` nothing has changed but the track, and what a raise or clear of a fault reaches. -/
structure TrackStep (s t : State) : Prop where
  reach : ReachOpen s t
  reg : t.reg = { s.reg with loops := t.reg.loops }
  ord : t.ord = s.ord

theorem TrackStep.refl (s : State) : TrackStep s s := ⟨.refl s, rfl, rfl⟩

theorem TrackStep.trans {s t u : State} (h : TrackStep s t) (k : TrackStep t u) : TrackStep s u :=
  ⟨h.reach.trans k.reach, by rw [k.reg, h.reg], k.ord.trans h.ord⟩

theorem TrackStep.of_faultReach {s t : State} (h : s.faultReach t) : TrackStep s t :=
  ⟨.of_faultReach h, h.register, h.orders⟩

theorem trackStep_track (s : State) (x : Track) : TrackStep s { s with track := x } :=
  ⟨.of_reach (a := x) (b := s.reg) (c := s.ord) (.refl _), rfl, rfl⟩

theorem TrackStep.faultReach {s t : State} (h : TrackStep s t) : State.faultReach { s with track := t.track } t where
  pending := h.reach.pending
  inputs := ⟨h.reach.inputs.coord, h.reach.inputs.settings, h.reach.inputs.printer, h.reach.inputs.port,
    h.reach.inputs.notice, h.reach.inputs.host⟩
  track := rfl
  register := h.reg
  draw := h.reach.draw
  shade := h.reach.shade
  cut := h.reach.cut
  winder := h.reach.winder
  rolls := h.reach.rolls
  orders := h.ord
  freeIdx := h.reach.freeIdx
  link := h.reach.link
  nodes := h.reach.nodes
  bytes := h.reach.bytes

theorem TrackStep.settings {s t : State} (h : TrackStep s t) : t.settings = s.settings := h.reach.inputs.settings

end Sys2Proof.Proofs.Lookups
end

section
/-! PROOFS. Creation of unit records (R6, R7, R12) and the reference (R24 to R30): an accepted reference, the marks that start no
unit, and an expired acceptance window. -/

namespace Sys2Proof.Proofs.Reference
open Sys2Proof.Machine Sys2Proof.Proofs.FaultFacts Sys2Proof.Proofs.Lookups

/-! ## A creation (R6) -/

/-- What a creation at `c` makes of a record: the previous one takes its L_rh and the splices it holds. -/
def precedingUpdated (s : State) (c : Int) (v : UnitRec) : UnitRec :=
  if s.track.prevC = some v.c then
    { v with
      lRh := some (c - v.c),
      flags := { v.flags with splice := v.flags.splice || s.track.splices.any (fun e =>
        decide (e.owner = .unsettled) && decide (e.p < c) && decide (v.c ≤ e.p)) } }
  else v

/-- The track after a creation. -/
def createdTrack (s : State) (n : Nat) (c : Int) (synthetic : Bool) : Track :=
  { s.track with
    units := s.track.units.map (precedingUpdated s c) ++ [s.newUnit n c synthetic], prevC := some c,
    lastNumber := (s.order n).nextUnit, splices := s.track.splices.map (settleSplice s.prevUnit? c s.xES) }

/-- The state of a creation before the pulse ends. -/
def created (s : State) (n : Nat) (c : Int) (synthetic : Bool) : State :=
  { s.setOrder n (fun o => { o with nextUnit := nextCyclic 65535 o.nextUnit, hasUnits := true }) with
    track := createdTrack s n c synthetic }

/-- Without a previous record in the track no record is changed. -/
theorem map_precedingUpdated_of_none {s : State} (h : s.prevUnit? = none) (c : Int) :
    s.track.units.map (precedingUpdated s c) = s.track.units := by
  refine (List.map_congr_left fun v hv => ?_).trans (List.map_id _)
  refine if_neg fun hprev => ?_
  rw [State.prevUnit?, hprev] at h
  exact (unit?_eq_none_iff s v.c).mp h v hv rfl

theorem map_precedingUpdated_of_some {s : State} {p : UnitRec} (h : s.prevUnit? = some p) (c : Int) :
    s.track.units.map (precedingUpdated s c) = s.track.units.map (fun u => if u.c = p.c then
      { u with lRh := some (c - u.c),
               flags := { u.flags with splice := u.flags.splice || ownsNewSplice p c s.track.splices } } else u) := by
  obtain ⟨pc, hpc, hp⟩ := Option.bind_eq_some_iff.mp h
  have hc := unit?_c hp
  refine List.map_congr_left fun v _ => ?_
  unfold precedingUpdated
  by_cases hv : v.c = p.c
  · rw [if_pos hv, if_pos (by rw [hpc, hv, hc]), hv]; rfl
  · rw [if_neg hv, if_neg (fun he => hv (by rw [hpc] at he; rw [hc]; exact (Option.some.inj he).symm))]

theorem addUnit_eq (s : State) (n : Nat) (c : Int) (synthetic : Bool) :
    s.addUnit n c synthetic = (created s n c synthetic).endPulse.settle := by
  unfold State.addUnit created createdTrack
  cases h : s.prevUnit? with
  | none => rw [map_precedingUpdated_of_none h]; rfl
  | some p => rw [map_precedingUpdated_of_some h]; rfl
theorem reach_addUnit (s : State) (n : Nat) (c : Int) (synthetic : Bool) :
    (created s n c synthetic).faultReach (s.addUnit n c synthetic) := by
  rw [addUnit_eq]
  exact (reach_endPulse _).trans (reach_settle _)

theorem reachOpen_addUnit (s : State) (n : Nat) (c : Int) (synthetic : Bool) : ReachOpen s (s.addUnit n c synthetic) :=
  .of_reach (b := s.reg) (reach_addUnit s n c synthetic)

/-! ## Creation requests (R6, R7) -/

section
variable {s : State} {n : Nat} {c : Int} {synthetic : Bool}

theorem coordinateOrder_iff : s.coordinateOrder n c = true ↔ ∀ p, s.track.prevC = some p →
    floorDiv (roundHalfAway ((s.body n).nominal * 100000) s.peP) 2 < c - p := by
  unfold State.coordinateOrder
  cases s.track.prevC with
  | none => simp
  | some p =>
    rw [decide_eq_true_iff]
    exact ⟨fun h q hq => Option.some.inj hq ▸ h, fun h => h p rfl⟩

theorem create_inactive (h : s.ord.active = none) : s.create c synthetic = (s, false) := by
  simp only [State.create, h]

theorem create_full (h : s.ord.active = some n) (hlen : 256 ≤ s.track.units.length) :
    s.create c synthetic = (s.raise trackFull 0, false) := by
  simp only [State.create, h, if_pos hlen]

theorem create_tooClose (h : s.ord.active = some n) (hlen : s.track.units.length < 256)
    (hc : s.coordinateOrder n c = false) : s.create c synthetic = (s, false) := by
  simp [State.create, h, not_le.mpr hlen, hc]

theorem create_granted (h : s.ord.active = some n) (hlen : s.track.units.length < 256)
    (hc : s.coordinateOrder n c = true) : s.create c synthetic = (s.addUnit n c synthetic, true) := by
  simp [State.create, h, not_le.mpr hlen, hc]

end

/-! ## The judgement of a candidate (R25, R26) -/

/-- Where no window ends below the candidate none expires. -/
theorem expireBelow_of_no_window (s : State) (m : Int) (h : ∀ c, s.reg.cPrev = some c → m ≤ windowEnd c s.reg.lExp) :
    s.expireBelow m (s.expiryFuel m) = s := by
  have hfuel : s.expiryFuel m = 0 := by
    unfold State.expiryFuel State.refWindowEnd
    cases hc : s.reg.cPrev with
    | none => rfl
    | some c => exact if_neg (not_lt.mpr (h c hc))
  rw [hfuel]
  rfl

theorem judgeCandidate_inside (s : State) (m : Int)
    (h : ∀ c, s.reg.cPrev = some c → windowStart c s.reg.lExp ≤ m ∧ m ≤ windowEnd c s.reg.lExp) :
    s.judgeCandidate m = s.acceptReference m := by
  unfold State.judgeCandidate
  rw [expireBelow_of_no_window s m fun c hc => (h c hc).2]
  cases hc : s.reg.cPrev with
  | none => simp only [hc]
  | some c => simp only [hc, if_pos (h c hc)]

theorem judgeCandidate_early (s : State) (m : Int) {c : Int} (hc : s.reg.cPrev = some c)
    (hstart : m < windowStart c s.reg.lExp) (hend : m ≤ windowEnd c s.reg.lExp) : s.judgeCandidate m = s := by
  have hnone : ∀ d, s.reg.cPrev = some d → m ≤ windowEnd d s.reg.lExp := fun d hd => by
    rw [hc, Option.some.injEq] at hd
    exact hd ▸ hend
  unfold State.judgeCandidate
  simp only [expireBelow_of_no_window s m hnone, hc]
  exact if_neg fun h => absurd h.1 (not_le.mpr hstart)

/-- A request that the track does not grant leaves the reference without effect of its own (R26). -/
theorem acceptReference_refused {s t : State} {m : Int} (h : s.create m false = (t, false)) : s.acceptReference m = t := by
  simp only [State.acceptReference, h]

/-- The expectation after an accepted reference (R26). -/
def nextExpectation (s : State) (m : Int) : Int :=
  match s.prevUnit? with
  | some p => if p.flags.synthetic then s.reg.lExp else m - p.c
  | none => s.reg.lExp

/-- The register unit after a granted reference, before REFERENCE_LOST ends. -/
def referenceTaken (s a : State) (g : Geometry) (m : Int) : State :=
  { a with reg := { s.reg with
      loops := a.reg.loops, cPrev := some m, synthCount := 0, lExp := nextExpectation s m,
      block := some { r := m, half := g.half, offsets := g.offsets, marks := [], closeAfter := m + g.offsets.getLastD 0 + g.half } } }

theorem acceptReference_granted {s : State} {n : Nat} {m : Int} {g : Geometry} (hg : s.reg.geom = some g)
    (h : s.create m false = (s.addUnit n m false, true)) :
    s.acceptReference m = (referenceTaken s (s.addUnit n m false) g m).clear referenceLost 0 := by
  have hreg : (s.addUnit n m false).reg = { s.reg with loops := (s.addUnit n m false).reg.loops } :=
    (reach_addUnit s n m false).register
  have hgeom : (s.addUnit n m false).reg.geom = some g := by rw [hreg]; exact hg
  have hlExp : (s.addUnit n m false).reg.lExp = s.reg.lExp := by rw [hreg]
  simp only [State.acceptReference, h, hgeom, hlExp, Option.map_some]
  congr 1
  unfold referenceTaken nextExpectation
  rw [hreg]
  simp only [hg]
  cases s.prevUnit? <;> rfl

/-! ## The classification of a stamp (R24) -/

section
variable {s : State} {m : Int} {g : Geometry}

/-- A MARK stamp leaves its coordinate as the last edge. -/
def withEdge (s : State) (m : Int) : State := { s with reg := { s.reg with lastEdge := some m } }

theorem takeMark_no_geometry (h : s.reg.geom = none) : s.takeMark m = withEdge s m := by
  simp only [State.takeMark, h, withEdge]

theorem takeMark_in_block {b : Block} (hg : s.reg.geom = some g) (hb : s.reg.block = some b) (hend : m ≤ b.closeAfter) :
    s.takeMark m = withEdge (s.placeMark b m) m := by
  simp [State.takeMark, hg, hb, not_lt.mpr hend, withEdge]

theorem takeMark_candidate (hg : s.reg.geom = some g) (hb : s.reg.block = none)
    (hquiet : ∀ e, s.reg.lastEdge = some e → g.quiet < m - e) : s.takeMark m = withEdge (s.judgeCandidate m) m := by
  simp only [State.takeMark, hg, hb]
  cases he : s.reg.lastEdge with
  | none => rfl
  | some e => simp only [if_pos (hquiet e he), withEdge]

theorem takeMark_not_quiet {e : Int} (hg : s.reg.geom = some g) (hb : s.reg.block = none) (he : s.reg.lastEdge = some e)
    (hquiet : m - e ≤ g.quiet) : s.takeMark m = withEdge s m := by
  simp [State.takeMark, hg, hb, he, not_lt.mpr hquiet, withEdge]

/-- A candidate whose judgement changes nothing moves the last edge alone, after a quiet gap or without one. -/
theorem takeMark_judged_away (hg : s.reg.geom = some g) (hb : s.reg.block = none) (h : s.judgeCandidate m = s) :
    s.takeMark m = withEdge s m := by
  simp only [State.takeMark, hg, hb, h]
  cases s.reg.lastEdge with
  | none => rfl
  | some e => simp only [ite_self, withEdge]

/-- A candidate without an expectation is judged by the track alone. -/
theorem takeMark_refused (hg : s.reg.geom = some g) (hb : s.reg.block = none) (hc : s.reg.cPrev = none)
    (h : s.create m false = (s, false)) : s.takeMark m = withEdge s m := by
  refine takeMark_judged_away hg hb ?_
  rw [judgeCandidate_inside s m (fun c h' => nomatch hc.symm.trans h'), acceptReference_refused h]

end

theorem exec_markEdge {s : State} (h : s.coord.w = s.coord.h) : exec .markEdge s = .next (s.takeMark s.posW) :=
  congrArg Host.Outcome.next (if_pos (decide_eq_true h))

/-- Settles O8: the creation, the reference taken, the clear of REFERENCE_LOST and the last edge, one after another. -/
theorem referenceAccepted : Obligations.ReferenceAccepted := by
  intro s g n hw hg hb hquiet hwindow hactive hn hlen horder
  let a := s.addUnit n s.posW false
  let b := referenceTaken s a g s.posW
  let t := withEdge (b.clear referenceLost 0) s.posW
  have hgranted : s.create s.posW false = (a, true) := create_granted hactive hlen (coordinateOrder_iff.mpr horder)
  have ht : s.takeMark s.posW = t := by
    rw [takeMark_candidate hg hb hquiet, judgeCandidate_inside s _ hwindow, acceptReference_granted hg hgranted]
  have ha : (created s n s.posW false).faultReach a := reach_addUnit s n s.posW false
  have hclear : b.faultReach (b.clear referenceLost 0) := reach_clear _ _ _
  have htrack : t.track = createdTrack s n s.posW false := hclear.track.trans ha.track
  have hord : t.ord = (created s n s.posW false).ord := hclear.orders.trans ha.orders
  have hreg : t.reg = { s.reg with
      lastEdge := some s.posW, cPrev := some s.posW, synthCount := 0, lExp := nextExpectation s s.posW, loops := t.reg.loops,
      block := some { r := s.posW, half := g.half, offsets := g.offsets, marks := [],
                      closeAfter := s.posW + g.offsets.getLastD 0 + g.half } } := by
    show { (b.clear referenceLost 0).reg with lastEdge := some s.posW } = _
    rw [hclear.register]
    rfl
  have hlExp : t.reg.lExp = nextExpectation s s.posW := by rw [hreg]
  refine ⟨t, s.newUnit n s.posW false, (exec_markEdge hw).trans (congrArg _ ht), congrArg Track.units htrack, rfl, rfl, rfl,
    rfl, rfl, rfl, rfl, rfl, rfl, rfl, rfl, rfl, rfl, by rw [htrack]; rfl, by rw [hlExp]; exact hreg, hlExp, ?_, ?_, ?_,
    clear_faultActive b referenceLost 0, ?_⟩
  · rw [order_congr hord]
    exact congrArg OrderRec.nextUnit (order_setOrder_same s _ hn)
  · rw [hord]
    rfl
  · intro m hm
    rw [order_congr hord]
    exact order_setOrder_ne s _ hm
  · exact (((reachOpen_addUnit s n s.posW false).setReg _).trans (.of_faultReach hclear)).setReg _

/-! ## Marks that start no unit -/

theorem magnitude_eq_natAbs (v : Int) : magnitude v = (v.natAbs : Int) := by
  unfold magnitude
  split <;> omega

/-- A mark in no station's window is discarded (R28). -/
theorem placeMark_outside (s : State) (b : Block) (m : Int)
    (h : ∀ o ∈ b.offsets, b.half < ((m - b.r - o).natAbs : Int)) : s.placeMark b m = s := by
  have hnone : stationOf b.offsets b.half (m - b.r) = none := by
    rw [stationOf, Option.map_eq_none_iff, List.findIdx?_eq_none_iff]
    intro o ho
    rw [decide_eq_false_iff_not, magnitude_eq_natAbs]
    exact not_le.mpr (h o ho)
  rw [State.placeMark, hnone]

/-- A mark goes to the lowest-numbered station whose window holds it (R28). -/
theorem placeMark_inside (s : State) (b : Block) (m : Int) {i : Nat} (hi : i < b.offsets.length)
    (hin : ((m - b.r - b.offsets.getD i 0).natAbs : Int) ≤ b.half)
    (hbefore : ∀ j, j < i → b.half < ((m - b.r - b.offsets.getD j 0).natAbs : Int)) :
    s.placeMark b m = { s with reg := { s.reg with block := some { b with marks := b.marks ++ [(i + 2, m)] } } } := by
  have hsome : stationOf b.offsets b.half (m - b.r) = some (i + 2) := by
    rw [stationOf, Option.map_eq_some_iff]
    refine ⟨i, List.findIdx?_eq_some_iff_getElem.mpr ⟨hi, ?_, fun j hj => ?_⟩, rfl⟩
    · rw [decide_eq_true_iff, magnitude_eq_natAbs, ← List.getD_eq_getElem _ 0 hi]
      exact hin
    · rw [decide_eq_true_iff, magnitude_eq_natAbs, ← List.getD_eq_getElem _ 0 (hj.trans hi)]
      exact not_le.mpr (hbefore j hj)
  rw [State.placeMark, hsome]

/-- Settles O9: each mark is followed through its classification to the state with the new last edge. -/
theorem marksThatStartNoUnit : Obligations.MarksThatStartNoUnit := by
  intro s hw
  have edge {t : State} (h : s.takeMark s.posW = t) : exec .markEdge s = .next t := (exec_markEdge hw).trans (congrArg _ h)
  refine ⟨fun hg => edge (takeMark_no_geometry hg), fun g b hg hb hend hout => edge ?_,
    fun g b i hg hb hend hi hin hbefore => edge ?_, fun g e hg hb he hq => edge (takeMark_not_quiet hg hb he hq),
    fun g c hg hb hc hstart hend => edge (takeMark_judged_away hg hb (judgeCandidate_early s _ hc hstart hend)),
    fun g hg hb hc hactive => edge (takeMark_refused hg hb hc (create_inactive hactive)),
    fun g n p hg hb hc hactive hlen hp hclose => edge (takeMark_refused hg hb hc (create_tooClose hactive hlen ?_)), ?_⟩
  · rw [takeMark_in_block hg hb hend, placeMark_outside s b _ hout]
    rfl
  · rw [takeMark_in_block hg hb hend, placeMark_inside s b _ hi hin hbefore]
    rfl
  · rw [Bool.eq_false_iff, Ne, coordinateOrder_iff]
    exact fun h => absurd (h p hp) (not_lt.mpr hclose)
  · intro g n hg hb hquiet hwindow hactive hlen full
    refine ⟨edge ?_, raise_faultActive s 0 rfl (by decide) (by decide), (reach_raise s _ _).track⟩
    rw [takeMark_candidate hg hb hquiet, judgeCandidate_inside s _ hwindow,
      acceptReference_refused (create_full hactive hlen)]
    rfl

/-! ## An expired window (R29, R30) -/

/-- The expectation moved on, with the loops as the creation left them. -/
def expectationMoved (s : State) (c : Int) (count : Nat) : State :=
  { s with reg := { s.reg with cPrev := some c, synthCount := saturate 15 (count + 1) } }

/-- The settling loops count a synthetic unit (R39). -/
def settleCounted (s : State) (created : Bool) : State :=
  if created then { s with reg := { s.reg with loops := s.reg.loops.map Loop.settleFalls } } else s

/-- The faults of an expired window (R29, R30). -/
def windowFaults (s : State) : State :=
  let t := s.raise refMarkMiss 0
  if t.setting 44 ≤ (t.reg.synthCount : Int) ∧ ¬ t.faultActive referenceLost 0 then t.raise referenceLost 0 else t

theorem expireReference_eq {s t : State} {cp : Int} {made : Bool} (hc : s.reg.cPrev = some cp)
    (h : s.create (cp + s.reg.lExp) true = (t, made)) :
    s.expireReference = windowFaults (expectationMoved (settleCounted t made) (cp + s.reg.lExp)
      (settleCounted t made).reg.synthCount) := by
  simp only [State.expireReference, hc, h]
  rfl

theorem reach_windowFaults (s : State) : s.faultReach (windowFaults s) :=
  (reach_raise s _ _).trans (.ite (reach_raise _ _ _) (.refl _))

theorem windowFaults_referenceLost (s : State) (h : s.setting 44 ≤ (s.reg.synthCount : Int)) :
    (windowFaults s).faultActive referenceLost 0 = true := by
  have hreach : s.faultReach (s.raise refMarkMiss 0) := reach_raise s _ _
  have hlimit : (s.raise refMarkMiss 0).setting 44 ≤ ((s.raise refMarkMiss 0).reg.synthCount : Int) := by
    rw [setting_congr hreach.inputs.settings, hreach.register]
    exact h
  unfold windowFaults
  extract_lets t
  split
  · exact raise_faultActive _ 0 rfl (by decide) (by decide)
  next hnot => exact not_not.mp fun hinactive => hnot ⟨hlimit, hinactive⟩

theorem windowFaults_trackFull (s : State) (h : s.faultActive trackFull 0 = true) :
    (windowFaults s).faultActive trackFull 0 = true := by
  rw [faultActive_iff] at h ⊢
  have hmiss : _ ∈ (s.raise refMarkMiss 0).fault.active := raise_keeps_active s h (by decide) (by decide)
  unfold windowFaults
  extract_lets t
  split
  · exact raise_keeps_active _ hmiss (by decide) (by decide)
  · exact hmiss

theorem settleCounted_fields (s : State) (made : Bool) :
    (settleCounted s made).track = s.track ∧ (settleCounted s made).ord = s.ord ∧ (settleCounted s made).fault = s.fault
      ∧ (settleCounted s made).settings = s.settings
      ∧ (settleCounted s made).reg = { s.reg with loops := (settleCounted s made).reg.loops } := by
  cases made <;> exact ⟨rfl, rfl, rfl, rfl, rfl⟩

theorem reachOpen_settleCounted (s : State) (made : Bool) : ReachOpen s (settleCounted s made) := by
  cases made
  · exact .refl s
  · exact (ReachOpen.refl s).setReg _

/-- A creation request opens track, register and orders alone. -/
theorem create_reach (s : State) (c : Int) (synthetic : Bool) :
    ReachOpen s (s.create c synthetic).1
      ∧ (s.create c synthetic).1.reg = { s.reg with loops := (s.create c synthetic).1.reg.loops } := by
  unfold State.create
  split
  · exact ⟨.refl s, rfl⟩
  next n _ =>
    split
    · exact ⟨.of_faultReach (reach_raise s _ _), (reach_raise s _ _).register⟩
    · split
      · exact ⟨reachOpen_addUnit s n c synthetic, (reach_addUnit s n c synthetic).register⟩
      · exact ⟨.refl s, rfl⟩

/-- A request that is not granted leaves track and orders. -/
theorem create_refused_keeps {s : State} {c : Int} {synthetic : Bool}
    (h : s.ord.active = none ∨ 256 ≤ s.track.units.length ∨ ∃ n p, s.ord.active = some n ∧ s.track.prevC = some p ∧
      c - p ≤ floorDiv (roundHalfAway ((s.body n).nominal * 100000) s.peP) 2) :
    (s.create c synthetic).1.track = s.track ∧ (s.create c synthetic).1.ord = s.ord := by
  cases hactive : s.ord.active with
  | none => rw [create_inactive hactive]; exact ⟨rfl, rfl⟩
  | some n =>
    by_cases hlen : 256 ≤ s.track.units.length
    · rw [create_full hactive hlen]
      exact ⟨(reach_raise s _ _).track, (reach_raise s _ _).orders⟩
    · obtain hnone | hfull | ⟨m, p, hm, hp, hclose⟩ := h
      · rw [hactive] at hnone; cases hnone
      · exact absurd hfull hlen
      · obtain rfl : n = m := Option.some.inj (hactive.symm.trans hm)
        have hrefuse : s.coordinateOrder n c = false := by
          rw [Bool.eq_false_iff, Ne, coordinateOrder_iff]
          exact fun h => absurd (h p hp) (not_lt.mpr hclose)
        rw [create_tooClose hactive (not_le.mp hlen) hrefuse]
        exact ⟨rfl, rfl⟩

/-- Settles O12: the request to the track, the expectation moved on, and the faults of the window. -/
theorem referenceWindowExpires : Obligations.ReferenceWindowExpires := by
  intro s cp hc hend
  obtain ⟨hopen, hreg⟩ := create_reach s (cp + s.reg.lExp) true
  generalize hrequest : s.create (cp + s.reg.lExp) true = request at hopen hreg
  obtain ⟨t, made⟩ := request
  obtain ⟨htrack, hord, hfault, hsettings, hloops⟩ := settleCounted_fields t made
  have hexp := expireReference_eq hc hrequest
  have hcount : (settleCounted t made).reg.synthCount = s.reg.synthCount := by rw [hloops, hreg]
  let v := expectationMoved (settleCounted t made) (cp + s.reg.lExp) s.reg.synthCount
  rw [hcount] at hexp
  have hw : v.faultReach (windowFaults v) := reach_windowFaults v
  have hvtrack : (windowFaults v).track = t.track := hw.track.trans htrack
  have hvord : (windowFaults v).ord = t.ord := hw.orders.trans hord
  have hevent : s.windowEvent = windowFaults v := by
    rw [State.windowEvent, State.refWindowEnd, hc]
    exact (if_pos hend).trans hexp
  refine ⟨windowFaults v, congrArg _ hevent, ?_, ?_, ?_, ?_, ?_, ?_⟩
  · have hvreg : v.reg = { s.reg with
        cPrev := some (cp + s.reg.lExp), synthCount := min 15 (s.reg.synthCount + 1), loops := v.reg.loops } := by
      simp only [v, expectationMoved, saturate]
      rw [hloops, hreg]
    rw [hw.register, hvreg]
  · intro hlimit
    refine windowFaults_referenceLost v ?_
    have hvset : v.settings = s.settings := hsettings.trans hopen.inputs.settings
    rw [setting_congr hvset]
    exact hlimit
  · intro n hactive hlen horder
    rw [create_granted hactive hlen (coordinateOrder_iff.mpr horder)] at hrequest
    obtain ⟨rfl, -⟩ := Prod.mk.inj hrequest
    refine ⟨s.newUnit n (cp + s.reg.lExp) true, ?_, rfl, rfl, rfl, rfl, rfl, rfl, fun x hx => List.eq_of_mem_replicate hx⟩
    rw [hvtrack, (reach_addUnit s n _ true).track]
    rfl
  · intro hrefused
    obtain ⟨hsame, hsameOrd⟩ := create_refused_keeps (c := cp + s.reg.lExp) (synthetic := true) hrefused
    rw [hrequest] at hsame hsameOrd
    exact ⟨hvtrack.trans hsame, hvord.trans hsameOrd⟩
  · intro hactive hlen
    obtain ⟨n, hn⟩ := Option.isSome_iff_exists.mp hactive
    rw [create_full hn hlen] at hrequest
    obtain ⟨rfl, -⟩ := Prod.mk.inj hrequest
    refine windowFaults_trackFull v ?_
    have hv : v.fault = (s.raise trackFull 0).fault := hfault
    rw [State.faultActive, hv]
    exact raise_faultActive s 0 rfl (by decide) (by decide)
  · exact ((hopen.trans (reachOpen_settleCounted t made)).setReg _).trans (.of_faultReach hw)

end Sys2Proof.Proofs.Reference
end

section
/-! PROOFS. The station loops (2.2): what a raise or clear does to them, one station's result, the close of a mark block, the filter
with its correction, and the register zones. -/

namespace Sys2Proof.Proofs.StationLoops
open Sys2Proof.Machine Sys2Proof.Proofs.FaultFacts Sys2Proof.Proofs.Lookups Sys2Proof.Proofs.Coordinates

/-! ## The fault unit's own part of a raise or clear -/

/-- From `s` to `t` only exchange memory, exchange port and fault unit have moved. -/
def FaultOnly (s t : State) : Prop := t = { s with mem := t.mem, port := t.port, fault := t.fault }

theorem FaultOnly.refl (s : State) : FaultOnly s s := rfl

theorem FaultOnly.trans {s t u : State} (h : FaultOnly s t) (k : FaultOnly t u) : FaultOnly s u := by
  rw [FaultOnly] at h k ⊢
  rw [k, h]

theorem FaultOnly.ite {c : Prop} [Decidable c] {s t u : State} (h : FaultOnly s t) (k : FaultOnly s u) :
    FaultOnly s (if c then t else u) := by
  split
  · exact h
  · exact k

theorem faultOnly_fault (s : State) (x : FaultUnit) : FaultOnly s { s with fault := x } := rfl

theorem faultOnly_faultSettle (s : State) : FaultOnly s s.faultSettle := by
  unfold State.faultSettle
  split <;> rfl

theorem faultOnly_enterStopped (s : State) : FaultOnly s s.enterStopped := .ite rfl rfl

theorem faultOnly_raiseCore (s : State) (code subject : Nat) : FaultOnly s (s.raiseCore code subject) := by
  unfold State.raiseCore
  extract_lets
  have hlist : FaultOnly s (s.listRaise code subject) := (listOnly_listRaise s code subject).rest
  exact ((hlist.trans (.ite (.ite (faultOnly_fault _ _) (.refl _)) (.ite (.refl _) (faultOnly_fault _ _)))).trans
    (.ite (faultOnly_enterStopped _) (.refl _))).trans (faultOnly_faultSettle _)

theorem faultOnly_clearCore (s : State) (code subject : Nat) : FaultOnly s (s.clearCore code subject) := by
  unfold State.clearCore
  refine .ite ?_ rfl
  extract_lets t
  have ht : FaultOnly s t := by
    dsimp only [t]
    split
    · exact ((listOnly_clearEntry s _ _ _).trans (listOnly_latch _ _)).rest
    · rfl
  exact (ht.trans (faultOnly_fault t _)).trans (faultOnly_faultSettle _)

section
variable {s t : State} (h : FaultOnly s t)
include h

theorem FaultOnly.reg : t.reg = s.reg := by rw [h]

theorem FaultOnly.emb : t.emb = s.emb := by rw [h]

theorem FaultOnly.link : t.link = s.link := by rw [h]

theorem FaultOnly.ord : t.ord = s.ord := by rw [h]

end

/-! ## The reaction of the emboss loop leaves the register unit -/

@[simp] theorem hand_reg (s : State) (t : Target) (c : LinkCmd) : (s.hand t c).1.reg = s.reg := by rw [hand_eq]

@[simp] theorem sendLift_reg (s : State) : s.sendLift.reg = s.reg := by
  unfold State.sendLift
  extract_lets src t
  have ht : (t.hand .emboss .lift).1.reg = s.reg := hand_reg t _ _
  split
  next heq => rwa [heq] at ht
  next heq =>
    rw [heq] at ht
    rw [hand_reg]
    exact ht

@[simp] theorem enterLifted_reg (s : State) : s.enterLifted.reg = s.reg := by
  unfold State.enterLifted
  extract_lets src t u
  have hu : u.reg = s.reg := ((faultOnly_clearCore t _ _).trans (faultOnly_clearCore _ _ _)).reg
  split
  · exact hu
  · split <;> exact hu

@[simp] theorem embossSettle_reg (s : State) : s.embossSettle.reg = s.reg := by
  unfold State.embossSettle
  split
  · rfl
  · split <;> rfl
  · split
    · exact enterLifted_reg s
    · rfl
  · split <;> rfl
  · split
    · exact sendLift_reg s
    · rfl
  · rfl

/-! ## Loops that are OFF stay OFF, and no other goes there -/

/-- From `s` to `t` the same loops are OFF. -/
def OffKept (s t : State) : Prop := ∀ st, 1 ≤ st → ((t.loop st).st = .off ↔ (s.loop st).st = .off)

theorem OffKept.refl (s : State) : OffKept s s := fun _ _ => Iff.rfl

theorem OffKept.trans {s t u : State} (h : OffKept s t) (k : OffKept t u) : OffKept s u :=
  fun st hst => (k st hst).trans (h st hst)

theorem OffKept.ite {c : Prop} [Decidable c] {s t u : State} (h : OffKept s t) (k : OffKept s u) :
    OffKept s (if c then t else u) := by
  split
  · exact h
  · exact k

theorem OffKept.of_reg {s t : State} (h : t.reg = s.reg) : OffKept s t := fun st _ => by rw [State.loop, h]; rfl

theorem settled_off_iff (l : Loop) (holds : Bool) : (l.settled holds).st = .off ↔ l.st = .off := by
  cases h : l.st <;> cases holds <;> simp [Loop.settled, h]

theorem offKept_loopsSettle (s : State) : OffKept s s.loopsSettle := fun st hst => by
  rw [loop_loopsSettle s hst]
  exact settled_off_iff _ _

theorem offKept_settle (s : State) : OffKept s s.settle := (offKept_loopsSettle s).trans (.of_reg (embossSettle_reg _))

theorem offKept_raise (s : State) (code subject : Nat) : OffKept s (s.raise code subject) :=
  (OffKept.of_reg (faultOnly_raiseCore s code subject).reg).trans (offKept_settle _)

theorem offKept_clear (s : State) (code subject : Nat) : OffKept s (s.clear code subject) :=
  (OffKept.of_reg (faultOnly_clearCore s code subject).reg).trans (offKept_settle _)

theorem offKept_setLoop (s : State) (st : Nat) (f : Loop → Loop)
    (h : (f (s.loop st)).st = .off ↔ (s.loop st).st = .off) : OffKept s (s.setLoop st f) := by
  intro st' _
  by_cases hne : st' - 1 = st - 1
  · have hloop (x : State) : x.loop st' = x.loop st := by rw [State.loop, hne]; rfl
    rw [hloop, hloop]
    by_cases hlen : st - 1 < s.reg.loops.length
    · rw [loop_setLoop_same s f hlen]
      exact h
    · have hsame : modifyAt f (st - 1) s.reg.loops = s.reg.loops := by
        rw [modifyAt_eq_modify, List.modify_eq_self (not_lt.mp hlen)]
      rw [loop_congr (t := s.setLoop st f) hsame]
  · rw [loop_setLoop_ne s f hne]

/-! ## One station's operations: a loop, and what a raise or clear reaches -/

/-- From `s` to `t` the loops and what a raise or clear reaches have moved, and no loop went to OFF or left it. -/
structure LoopStep (s t : State) : Prop where
  reach : s.faultReach t
  off : OffKept s t

theorem LoopStep.refl (s : State) : LoopStep s s := ⟨.refl s, .refl s⟩

theorem LoopStep.trans {s t u : State} (h : LoopStep s t) (k : LoopStep t u) : LoopStep s u :=
  ⟨h.reach.trans k.reach, h.off.trans k.off⟩

theorem LoopStep.ite {c : Prop} [Decidable c] {s t u : State} (h : LoopStep s t) (k : LoopStep s u) :
    LoopStep s (if c then t else u) := ⟨.ite h.reach k.reach, .ite h.off k.off⟩

theorem loopStep_raise (s : State) (code subject : Nat) : LoopStep s (s.raise code subject) :=
  ⟨reach_raise s _ _, offKept_raise s _ _⟩

theorem loopStep_clear (s : State) (code subject : Nat) : LoopStep s (s.clear code subject) :=
  ⟨reach_clear s _ _, offKept_clear s _ _⟩

theorem loopStep_setLoop (s : State) (st : Nat) (f : Loop → Loop)
    (h : (f (s.loop st)).st = .off ↔ (s.loop st).st = .off) : LoopStep s (s.setLoop st f) :=
  ⟨reach_loops s _, offKept_setLoop s st f h⟩

theorem loopStep_hand (s : State) (t : Target) (c : LinkCmd) : LoopStep s (s.hand t c).1 :=
  ⟨reach_hand s t c, .of_reg (hand_reg s t c)⟩

theorem loopStep_printTrimLost (s : State) (st : Nat) : LoopStep s (s.printTrimLost st) := by
  refine loopStep_setLoop s st _ ?_
  split
  next h => simp [Loop.toTracking, h]
  next => rfl

theorem loopStep_correctStation (s : State) (st : Nat) (hrun : (s.loop st).st ≠ .off) : LoopStep s (s.correctStation st) := by
  unfold State.correctStation
  refine .ite (.refl s) (.ite (.refl s) ?_)
  extract_lets d t
  have ht : LoopStep s t := loopStep_setLoop s st _ (by simp [hrun])
  have hhand : LoopStep s (t.hand (.station st) (.phaseTrim (s.printCorrection (s.loop st).e16))).1 := ht.trans (loopStep_hand t _ _)
  split
  next heq => rwa [heq] at hhand
  next heq =>
    rw [heq] at hhand
    exact hhand.trans (loopStep_printTrimLost _ st)

theorem loopStep_stationMisses (s : State) (st : Nat) (hrun : (s.loop st).st ≠ .off) : LoopStep s (s.stationMisses st) := by
  unfold State.stationMisses
  extract_lets miss t
  have ht : LoopStep s t := loopStep_setLoop s st _ Iff.rfl
  have hloop : (t.loop st).st ≠ .off := by rw [loop_setLoop_of_running _ hrun]; exact hrun
  exact .ite ((ht.trans (loopStep_setLoop t st _ (by simp [hloop]))).trans (loopStep_raise _ _ _)) ht

theorem settleFalls_off_iff (l : Loop) : l.settleFalls.st = .off ↔ l.st = .off := by
  unfold Loop.settleFalls
  split
  next h => split <;> simp [Loop.toTracking, h]
  next => rfl

theorem loopStep_stationValid (s : State) (st : Nat) (e : Int) : LoopStep s (s.stationValid st e) := by
  have keep (f : Loop → Loop) (hf : (f (s.loop st)).st = (s.loop st).st) : LoopStep s (s.setLoop st f) :=
    loopStep_setLoop s st f (by rw [hf])
  have running (f : Loop → Loop) (hrun : (s.loop st).st ≠ .off) (hf : (f (s.loop st)).st = (s.loop st).st) :
      ((s.setLoop st f).loop st).st ≠ .off := by rw [loop_setLoop_of_running f hrun, hf]; exact hrun
  unfold State.stationValid
  split
  next => exact .refl s
  next h =>
    extract_lets k v t u
    have hrun : (s.loop st).st ≠ .off := by simp [h]
    have ht : LoopStep s t := keep _ rfl
    have hu : LoopStep t u := loopStep_clear t _ _
    have hu_run : (u.loop st).st ≠ .off := by
      by_cases hst : 1 ≤ st
      · exact fun hoff => running _ hrun rfl ((hu.off st hst).mp hoff)
      · obtain rfl : st = 0 := by omega
        exact fun hoff => running _ hrun rfl ((hu.off 1 le_rfl).mp hoff)
    refine .ite ?_ (ht.trans hu)
    have htrack := loopStep_setLoop u st (fun l => { l with st := .tracking, e16 := 16 * e, reload := false }) (by simp [hu_run])
    refine ((ht.trans hu).trans htrack).trans (loopStep_correctStation _ st ?_)
    rw [loop_setLoop_of_running _ hu_run]
    simp
  next h =>
    have hrun : (s.loop st).st ≠ .off := by simp [h]
    exact (keep _ rfl).trans (loopStep_correctStation _ st (running _ hrun rfl))
  next => exact loopStep_setLoop s st _ (settleFalls_off_iff _)
  next => exact (keep _ rfl).trans (loopStep_clear _ _ _)
  next h => exact (loopStep_setLoop s st _ (by simp [h])).trans (loopStep_clear _ _ _)

theorem loopStep_stationMissing (s : State) (st : Nat) : LoopStep s (s.stationMissing st) := by
  unfold State.stationMissing
  split
  next => exact .refl s
  next h =>
    have hrun : (s.loop st).st ≠ .off := by simp [h]
    refine (loopStep_setLoop s st _ Iff.rfl).trans (loopStep_stationMisses _ st ?_)
    rw [loop_setLoop_of_running _ hrun]
    exact hrun
  next h => exact loopStep_stationMisses s st (by simp [h])
  next h =>
    exact (loopStep_stationMisses s st (by simp [h])).trans (loopStep_setLoop _ st _ (settleFalls_off_iff _))
  next => exact .refl s
  next => exact .refl s

theorem loopStep_stationMeasured (s : State) (st : Nat) (e : Int) : LoopStep s (s.stationMeasured st e) :=
  loopStep_setLoop s st _ Iff.rfl

/-! ## The results of a block (R28, R42) -/

/-- REGISTER is set on the record of `unit` when `out` holds. -/
def registerSet (unit : Int) (out : Bool) (u : UnitRec) : UnitRec :=
  if u.c = unit then { u with flags := { u.flags with register := u.flags.register || out } } else u

theorem registerSet_false (unit : Int) (u : UnitRec) : registerSet unit false u = u := by
  unfold registerSet
  split
  · rw [Bool.or_false]
  · rfl

theorem registerSet_registerSet (unit : Int) (a b : Bool) (u : UnitRec) :
    registerSet unit b (registerSet unit a u) = registerSet unit (a || b) u := by
  unfold registerSet
  by_cases h : u.c = unit
  · simp [h, Bool.or_assoc]
  · simp [h]

/-- What the results of some stations of a unit do, `out` saying that one of them lies beyond the tolerance. -/
structure ResultStep (unit : Int) (out : Bool) (s t : State) : Prop where
  track : t.track = { s.track with units := s.track.units.map (registerSet unit out) }
  reg : t.reg = { s.reg with loops := t.reg.loops }
  ord : t.ord = s.ord
  reach : ReachOpen s t
  off : OffKept s t

theorem ResultStep.of_loopStep {unit : Int} {s t : State} (h : LoopStep s t) : ResultStep unit false s t where
  track := by
    rw [List.map_congr_left fun u _ => registerSet_false unit u, List.map_id']
    exact h.reach.track
  reg := h.reach.register
  ord := h.reach.orders
  reach := .of_faultReach h.reach
  off := h.off

theorem ResultStep.trans {unit : Int} {a b : Bool} {s t u : State} (h : ResultStep unit a s t) (k : ResultStep unit b t u) :
    ResultStep unit (a || b) s u where
  track := by
    rw [k.track, h.track, List.map_map]
    exact congrArg (fun us => { s.track with units := us })
      (List.map_congr_left fun v _ => registerSet_registerSet unit a b v)
  reg := by rw [k.reg, h.reg]
  ord := k.ord.trans h.ord
  reach := h.reach.trans k.reach
  off := h.off.trans k.off

/-- Setting REGISTER of a unit or not. -/
theorem resultStep_setUnit (s : State) (unit : Int) (out : Bool) : ResultStep unit out s
    (if out then s.setUnit unit (fun u => { u with flags := { u.flags with register := true } }) else s) := by
  cases out
  · exact .of_loopStep (.refl s)
  · have hunit (u : UnitRec) : registerSet unit true u
        = if u.c = unit then { u with flags := { u.flags with register := true } } else u := by
      rw [registerSet, Bool.or_true]
    refine ⟨?_, rfl, rfl, .of_reach (b := s.reg) (c := s.ord) (.refl _), .of_reg rfl⟩
    exact congrArg (fun us => { s.track with units := us }) (List.map_congr_left fun u _ => (hunit u).symm)

/-- Beyond the tolerance of R42. -/
def beyondTolerance (s : State) (e : Int) : Bool := decide (s.registerTol < magnitude e)

theorem resultStep_stationTolerance (s : State) (st : Nat) (unit e : Int) (counted : Bool) :
    ResultStep unit (beyondTolerance s e) s (s.stationTolerance st unit e counted) := by
  unfold State.stationTolerance
  extract_lets out t u v
  have ht : ResultStep unit (beyondTolerance s e) s t := resultStep_setUnit s unit out
  have hu : LoopStep t u := loopStep_setLoop t st _ Iff.rfl
  have hv : LoopStep t v := loopStep_setLoop t st _ Iff.rfl
  clear_value u v t
  rw [← Bool.or_false (beyondTolerance s e)]
  exact ht.trans (.of_loopStep (.ite (.ite (.ite (hu.trans (loopStep_raise _ _ _)) hu)
    (.ite (hv.trans (loopStep_clear _ _ _)) hv)) (.refl t)))

/-- Whether a station's result is beyond the tolerance, of a loop that is not OFF. -/
def resultOut (s : State) (st : Nat) (result : Option Int) : Bool :=
  decide ((s.loop st).st ≠ .off) && result.any (beyondTolerance s)

theorem beyondTolerance_congr {s t : State} (h : t.settings = s.settings) : beyondTolerance t = beyondTolerance s := by
  have htol : t.registerTol = s.registerTol := by simp only [State.registerTol, State.peP, setting_congr h]
  funext e
  rw [beyondTolerance, htol]
  rfl

theorem resultStep_stationResult (s : State) (st : Nat) (unit : Int) (result : Option Int) :
    ResultStep unit (resultOut s st result) s (s.stationResult st unit result) := by
  unfold State.stationResult
  extract_lets before
  cases result with
  | none =>
    have hnone : resultOut s st none = false := Bool.and_false _
    rw [hnone]
    exact .of_loopStep (loopStep_stationMissing s st)
  | some e =>
    by_cases hoff : (s.loop st).st = .off
    · have hfalse : resultOut s st (some e) = false := by simp [resultOut, hoff]
      rw [hfalse]
      simp only [before, if_pos hoff]
      exact .of_loopStep (.refl s)
    · have hout : resultOut s st (some e) = (false || beyondTolerance s e) := by simp [resultOut, hoff]
      simp only [before, if_neg hoff]
      have hmark : LoopStep s (if s.markSpent st unit = true then s.stationMeasured st e else s.stationValid st e) :=
        .ite (loopStep_stationMeasured s st e) (loopStep_stationValid s st e)
      rw [hout, ← beyondTolerance_congr hmark.reach.inputs.settings]
      exact (ResultStep.of_loopStep hmark).trans (resultStep_stationTolerance _ st unit e _)

theorem resultOut_congr {unit : Int} {out : Bool} {s t : State} (h : ResultStep unit out s t) {st : Nat} (hst : 1 ≤ st)
    (result : Option Int) : resultOut t st result = resultOut s st result := by
  have hoff : decide ((t.loop st).st ≠ .off) = decide ((s.loop st).st ≠ .off) := decide_eq_decide.mpr (not_congr (h.off st hst))
  have hset : t.settings = s.settings := h.reach.inputs.settings
  rw [resultOut, resultOut, beyondTolerance_congr hset, hoff]

theorem any_congr {α : Type} {p q : α → Bool} {l : List α} (h : ∀ a ∈ l, p a = q a) : l.any p = l.any q := by
  rw [Bool.eq_iff_iff, List.any_eq_true, List.any_eq_true]
  exact exists_congr fun a => and_congr_right fun ha => by rw [h a ha]

theorem resultStep_foldl (b : Block) (sts : List Nat) (hsts : ∀ st ∈ sts, 1 ≤ st) (s : State) :
    ResultStep b.r (sts.any (fun st => resultOut s st (b.result st))) s
      (sts.foldl (fun s st => s.stationResult st b.r (b.result st)) s) := by
  induction sts generalizing s with
  | nil => exact .of_loopStep (.refl s)
  | cons st sts ih =>
    have hhead := resultStep_stationResult s st b.r (b.result st)
    have htail := ih (fun x hx => hsts x (List.mem_cons_of_mem st hx)) (s.stationResult st b.r (b.result st))
    have hsame : (sts.any fun x => resultOut (s.stationResult st b.r (b.result st)) x (b.result x))
        = sts.any fun x => resultOut s x (b.result x) :=
      any_congr fun x hx => resultOut_congr hhead (hsts x (List.mem_cons_of_mem st hx)) _
    rw [hsame] at htail
    exact hhead.trans htail

/-- The state in which a closing block hands its results to the loops: the block is gone and its unit has its errors. -/
def blockClosed (s : State) (b : Block) : State :=
  State.setUnit { s with reg := { s.reg with block := none } } b.r (fun u => { u with errors := b.stations.map b.result })

theorem closeBlock_eq {s : State} {b : Block} (h : s.reg.block = some b) :
    s.closeBlock = b.stations.foldl (fun s st => s.stationResult st b.r (b.result st)) (blockClosed s b) := by
  rw [State.closeBlock, h]
  rfl

theorem stations_pos (b : Block) : ∀ st ∈ b.stations, 1 ≤ st := by
  intro st hst
  obtain ⟨i, _, rfl⟩ := List.mem_map.mp hst
  omega

/-- One of the block's results is beyond the tolerance. -/
theorem any_resultOut_iff (s : State) (b : Block) :
    (b.stations.any fun st => resultOut (blockClosed s b) st (b.result st)) = true ↔
      ∃ j e, (b.stations.map b.result)[j]? = some (some e) ∧ (s.loop (j + 2)).st ≠ .off
        ∧ max 1 (roundHalfAway (s.setting 46 * 1000) s.peP) < (e.natAbs : Int) := by
  have hloop (st : Nat) : (blockClosed s b).loop st = s.loop st := rfl
  have htol (e : Int) : beyondTolerance (blockClosed s b) e
      = decide (max 1 (roundHalfAway (s.setting 46 * 1000) s.peP) < (e.natAbs : Int)) := by
    rw [beyondTolerance, Reference.magnitude_eq_natAbs]
    rfl
  simp only [List.any_eq_true, resultOut, Bool.and_eq_true, decide_eq_true_iff, Option.any_eq_true, hloop, htol,
    Block.stations, List.map_map]
  constructor
  · rintro ⟨st, hst, hrun, e, he, hbeyond⟩
    obtain ⟨j, hj, rfl⟩ := List.mem_map.mp hst
    exact ⟨j, e, by simp [List.mem_range.mp hj, he], hrun, hbeyond⟩
  · rintro ⟨j, e, hj, hrun, hbeyond⟩
    obtain ⟨hlt, he⟩ : j < b.offsets.length ∧ b.result (j + 2) = some e := by
      rw [List.getElem?_map, Option.map_eq_some_iff] at hj
      obtain ⟨i, hi, he⟩ := hj
      obtain ⟨hlt, rfl⟩ := List.getElem?_eq_some_iff.mp hi
      simp only [List.length_range] at hlt
      simp only [List.getElem_range] at he
      exact ⟨hlt, he⟩
    exact ⟨j + 2, List.mem_map.mpr ⟨j, List.mem_range.mpr hlt, rfl⟩, hrun, e, he, hbeyond⟩

/-- Settles O10: the errors are written first, then each station's result may set REGISTER and move its loop. -/
theorem blockCloses : Obligations.BlockCloses := by
  intro s b hb hend
  have hevent : s.blockEvent = s.closeBlock := by
    rw [State.blockEvent, hb]
    exact if_pos hend
  have hstep := resultStep_foldl b b.stations (stations_pos b) (blockClosed s b)
  rw [← closeBlock_eq hb] at hstep
  have hunits : s.closeBlock.track.units = s.track.units.map (fun u => registerSet b.r
      (b.stations.any fun st => resultOut (blockClosed s b) st (b.result st))
      (if u.c = b.r then { u with errors := b.stations.map b.result } else u)) := by
    rw [hstep.track]
    exact List.map_map
  have hord : s.closeBlock.ord = s.ord := hstep.ord
  have hreach : ReachOpen s s.closeBlock := ReachOpen.trans (t := blockClosed s b)
    (.of_reach (a := (blockClosed s b).track) (b := (blockClosed s b).reg) (c := s.ord) (.refl _)) hstep.reach
  refine ⟨s.closeBlock, congrArg _ hevent, by rw [hstep.reg]; rfl, by rw [hstep.track]; rfl, by rw [hunits, List.length_map],
    fun i u hu => ⟨_, by rw [hunits, List.getElem?_map, hu]; rfl, fun hne => ?_, fun heq => ?_⟩, ?_⟩
  · simp only [if_neg hne, registerSet]
  · simp only [if_pos heq, registerSet]
    refine ⟨trivial, by simp [Block.stations], fun j hj => ?_, ?_⟩
    · have hstation : b.stations[j]? = some (j + 2) := by simp [Block.stations, hj]
      rw [List.getElem?_map, hstation]
      rfl
    · rw [Bool.or_eq_true, any_resultOut_iff]
  · have := hreach
    rwa [ReachOpen, hord] at this

/-! ## The filter and the correction (R37 to R39) -/

theorem setLoop_congr {s : State} {st : Nat} {f g : Loop → Loop} (h : f (s.loop st) = g (s.loop st)) :
    s.setLoop st f = s.setLoop st g := by
  have hlist : modifyAt f (st - 1) s.reg.loops = modifyAt g (st - 1) s.reg.loops := by
    refine List.ext_getElem? fun i => ?_
    rw [getElem?_modifyAt, getElem?_modifyAt]
    split
    next hi =>
      subst hi
      rw [State.loop, List.getD_eq_getElem?_getD] at h
      cases hl : s.reg.loops[st - 1]? with
      | none => rfl
      | some l => rw [hl] at h; exact congrArg some h
    next => rfl
  rw [State.setLoop, hlist]
  rfl

theorem clamp_le {v x : Int} (h : 0 ≤ x) : ((clamp v x).natAbs : Int) ≤ x := by
  unfold clamp
  split
  · omega
  · split <;> omega

/-- A loop that tracks, after its filter has taken an error. -/
def filteredLoop (e e16 : Int) (l : Loop) : Loop := { l with miss := 0, lastE := some e, e16 := e16, reload := false }

/-- The filtered error of R37. -/
def filteredError (s : State) (st : Nat) (e : Int) : Int :=
  if (s.loop st).reload then 16 * e
  else (s.loop st).e16 + floorDiv (16 * e - (s.loop st).e16) (2 ^ (s.setting 31).toNat)

theorem stationValid_tracking {s : State} {st : Nat} (e : Int) (h : (s.loop st).st = .tracking) :
    s.stationValid st e = (s.setLoop st (filteredLoop e (filteredError s st e))).correctStation st := by
  simp only [State.stationValid, h]
  exact congrArg (fun x => State.correctStation x st) (setLoop_congr (g := filteredLoop e (filteredError s st e)) rfl)

/-- No correction is made within the deadband, or when it rounds to 0. -/
theorem correctStation_none {s : State} {st : Nat}
    (h : magnitude (s.loop st).e16 ≤ 16 * s.printDeadband ∨ s.printCorrection (s.loop st).e16 = 0) : s.correctStation st = s := by
  unfold State.correctStation
  by_cases hband : magnitude (s.loop st).e16 ≤ 16 * s.printDeadband
  · exact if_pos hband
  · rw [if_neg hband]
    exact if_pos (h.resolve_left hband)

/-- The state of a loop that begins to settle. -/
def settlingLoop (d : Nat) (l : Loop) : Loop := { l with st := .settling, settle := d + 1 }

theorem correctStation_made {s : State} {st : Nat} (hband : ¬ magnitude (s.loop st).e16 ≤ 16 * s.printDeadband)
    (hc : s.printCorrection (s.loop st).e16 ≠ 0) :
    s.correctStation st =
      (let handed := (s.setLoop st (settlingLoop (s.settleUnits st))).hand (.station st)
        (.phaseTrim (s.printCorrection (s.loop st).e16))
       if handed.2 then handed.1.printTrimLost st else handed.1) := by
  unfold State.correctStation
  rw [if_neg hband]
  refine (if_neg hc).trans ?_
  have taken (p : State × Bool) : (match p with
      | (t, false) => t
      | (t, true) => t.printTrimLost st) = if p.2 then p.1.printTrimLost st else p.1 := by
    obtain ⟨t, _ | _⟩ := p <;> rfl
  exact taken _

/-- Settles O11: the filter of a loop in TRACKING, its correction, and the mark that a lost trim has spent. -/
theorem trackingFiltersAndCorrects : Obligations.TrackingFiltersAndCorrects := by
  intro s st e _ htrack e16 db c d filtered settling t
  have hrun : (s.loop st).st ≠ .off := by simp [htrack]
  have ht : t = filtered.correctStation st := stationValid_tracking e htrack
  have hfiltered : filtered.loop st = filteredLoop e e16 (s.loop st) := loop_setLoop_of_running _ hrun
  have he16 : (filtered.loop st).e16 = e16 := by rw [hfiltered]; rfl
  have hsettling : settling.loop st = settlingLoop d (filtered.loop st) :=
    loop_setLoop_of_running _ (by rw [hfiltered]; exact hrun)
  have hcorrection : filtered.printCorrection (filtered.loop st).e16 = c := by rw [he16]; rfl
  have hmade (hband : 16 * db < (e16.natAbs : Int)) (hc : c ≠ 0) : t =
      if (settling.hand (.station st) (.phaseTrim c)).2 then
        (settling.hand (.station st) (.phaseTrim c)).1.printTrimLost st
      else (settling.hand (.station st) (.phaseTrim c)).1 := by
    rw [ht, correctStation_made (by rw [he16, Reference.magnitude_eq_natAbs]; exact not_le.mpr hband)
      (by rw [hcorrection]; exact hc), hcorrection]
    rfl
  have hloop : (settling.hand (.station st) (.phaseTrim c)).1.loop st = settlingLoop d (filtered.loop st) := by
    rw [loop_congr (congrArg RegisterUnit.loops (hand_reg settling _ _)), hsettling]
  refine ⟨fun hnone => ?_, fun hband hc htaken => ?_, fun hband hc hlost => ?_, clamp_le, fun unit hspent => ?_,
    fun unit hspent => ?_⟩
  · rw [ht]
    refine correctStation_none ?_
    rw [hcorrection, he16, Reference.magnitude_eq_natAbs]
    exact hnone
  · have hhand := hmade hband hc
    rw [htaken] at hhand
    refine ⟨hhand, ?_⟩
    rw [hhand]
    simp only [Bool.false_eq_true, if_false]
    rw [hloop, hfiltered]
    exact ⟨rfl, rfl, rfl⟩
  · have hhand := hmade hband hc
    rw [hlost, if_pos rfl] at hhand
    rw [hhand, State.printTrimLost, loop_setLoop_of_running _ (by rw [hloop]; simp [settlingLoop]), hloop]
    simp [settlingLoop, Loop.toTracking]
  · simp [State.stationResult, State.markSpent, htrack, hspent, t]
  · simp [State.stationResult, State.markSpent, htrack, hspent, State.stationMeasured]

/-! ## Register zones (R34) -/

/-- The state with other register zones. -/
def withZones (s : State) (zs : List Zone) : State := { s with reg := { s.reg with zones := zs } }

/-- Once a zone has begun every running loop is in HOLD. -/
theorem loop_of_zone_begun (s : State) {zs : List Zone} {z : Zone} (hz : z ∈ zs) (hbegun : z.begun = true) {st : Nat}
    (hst : 1 ≤ st) (hrun : (s.loop st).st ≠ .off) : ((withZones s zs).loopsSettle.loop st).st = .hold := by
  have hsplice : (withZones s zs).spliceHold = true := List.any_eq_true.mpr ⟨z, hz, hbegun⟩
  have hcause : (withZones s zs).holds st = true := by simp [State.holds, hsplice]
  rw [loop_loopsSettle _ hst, hcause]
  exact settled_hold hrun

/-- Without a begun zone, and without another cause, a loop in HOLD goes to ACQUIRE. -/
theorem loop_of_no_zone (s : State) {zs : List Zone} (hz : ∀ z ∈ zs, z.begun = false) (hlow : s.reg.lowSpeed = false)
    (hlost : s.faultActive referenceLost 0 = false) (hstop : s.fault.st ≠ .stopped) {st : Nat} (hst : 1 ≤ st)
    (hnode : s.nodePresent (.station st) = true) (hhold : (s.loop st).st = .hold) :
    ((withZones s zs).loopsSettle.loop st).st = .acquire := by
  have hsplice : (withZones s zs).spliceHold = false := by
    rw [State.spliceHold, List.any_eq_false]
    exact fun z hmem => Bool.eq_false_iff.mp (hz z hmem)
  have hnone : (withZones s zs).holds st = false := by
    show (s.reg.lowSpeed || (withZones s zs).spliceHold || s.faultActive referenceLost 0 || decide (s.fault.st = .stopped)
      || !s.nodePresent (.station st)) = false
    simp [hlow, hsplice, hlost, hstop, hnode]
  rw [loop_loopsSettle _ hst, hnone]
  exact congrArg Loop.st (settled_acquire hhold)

/-- Settles O21: the zones change first, and the loops follow the splice cause. -/
theorem registerZoneHolds : Obligations.RegisterZoneHolds := by
  intro s p
  refine ⟨⟨s.zoneStart p, rfl, rfl, ?_⟩, ⟨s.zoneEnd p, rfl, rfl, ?_⟩⟩
  · rintro ⟨z, hz, hp, hstart⟩ st hst hrun
    have hbegun : { z with begun := true } ∈ beginZones p s.posH s.reg.zones :=
      List.mem_map.mpr ⟨z, hz, if_pos ⟨hp, hstart⟩⟩
    exact loop_of_zone_begun s hbegun rfl hst hrun
  · exact fun hz hlow hlost hstop st hst hnode hhold => loop_of_no_zone s hz hlow hlost hstop hst hnode hhold

end Sys2Proof.Proofs.StationLoops
end

section
/-! PROOFS. The emboss loop (3.1, 3.2): what the hand-over of a command does, the reaction to lift causes, the drive timer, the lock
test, the nip, and the phase measurements of an index stamp. -/

namespace Sys2Proof.Proofs.EmbossLoop
open Sys2Proof.Machine Sys2Proof.Proofs.FaultFacts Sys2Proof.Proofs.Lookups Sys2Proof.Proofs.StationLoops

/-! ## Handing a command over (R144) -/

@[simp] theorem hand_emb (s : State) (t : Target) (c : LinkCmd) : (s.hand t c).1.emb = s.emb := by rw [hand_eq]

@[simp] theorem hand_ord (s : State) (t : Target) (c : LinkCmd) : (s.hand t c).1.ord = s.ord := by rw [hand_eq]

theorem modifyAt_eq_set {α : Type} (f : α → α) {i : Nat} {l : List α} {a : α} (h : l[i]? = some a) :
    modifyAt f i l = l.set i (f a) := by
  refine List.ext_getElem? fun j => ?_
  rw [getElem?_modifyAt, List.getElem?_set]
  obtain ⟨hlt, rfl⟩ := List.getElem?_eq_some_iff.mp h
  split
  next hij => subst hij; simp [hlt]
  next => rfl

section
variable {s : State} {t : Target} {c : LinkCmd}

theorem nodePresent_iff : s.nodePresent t = true ↔ ∃ i n, s.nodeIndex t = some i ∧ s.link.nodes[i]? = some n ∧ n.st = .present := by
  unfold State.nodePresent
  cases s.nodeIndex t with
  | none => simp
  | some i => cases hn : s.link.nodes[i]? <;> simp [hn]

/-- A command for a node that is not PRESENT is discarded. -/
theorem hand_absent (h : s.nodePresent t = false) : s.hand t c = (s, false) := by
  have hnot : ∀ i n, s.nodeIndex t = some i → s.link.nodes[i]? = some n → n.st ≠ .present := fun i n hi hn hst => by
    rw [nodePresent_iff.mpr ⟨i, n, hi, hn, hst⟩] at h
    cases h
  unfold State.hand
  split
  next => rfl
  next i hi =>
    split
    next => rfl
    next n hn => exact if_pos (hnot i n hi hn)

/-- A command other than DRAW TRIM joins what waits at a PRESENT node with room. -/
theorem hand_joins {i : Nat} {n : Node} (hi : s.nodeIndex t = some i) (hn : s.link.nodes[i]? = some n) (hst : n.st = .present)
    (hdraw : c.isDrawTrim = false) (hroom : n.waiting.length < 10) :
    s.hand t c = (s.setNode i (fun n => { n with waiting := n.waiting ++ [c] }), false) := by
  simp [State.hand, hi, hn, hst, hdraw, not_le.mpr hroom]

end

/-! ## The reaction to lift causes -/

/-- Every path of LIFT leaves the loop in LIFTING with the drive timer running; only re-sent depends on the link. -/
theorem sendLift_emb (s : State) : s.sendLift.emb = { s.emb with
    st := .lifting, timer := true, resent := s.sendLift.emb.resent, settle := 0, lock := 0 } := by
  unfold State.sendLift
  extract_lets src t
  have ht := hand_emb t .emboss .lift
  split
  next heq =>
    rw [heq] at ht
    rw [ht]
  next heq =>
    rw [heq] at ht
    simp only [hand_emb]
    rw [ht]

/-- The emboss unit right after entry to LIFTED, before the loop goes on. -/
def liftedEmb (e : EmbossUnit) : EmbossUnit :=
  { e with st := .lifted, timer := false, loss := 0, liftPending := false, settle := 0, lock := 0 }

/-- The state after entry to LIFTED with the two faults cleared. -/
def liftedState (s : State) : State :=
  (State.clearCore { s with emb := liftedEmb s.emb } embossDriveTimeout 0).clearCore embossRegisterLoss 0

theorem enterLifted_eq (s : State) : s.enterLifted =
    if !(liftedState s).embossOrder then
      { liftedState s with emb := { (liftedState s).emb with st := .off, phasePending := [] } }
    else if (liftedState s).lifts then liftedState s else (liftedState s).enterSyncing := rfl

theorem faultOnly_liftedState (s : State) : FaultOnly { s with emb := liftedEmb s.emb } (liftedState s) :=
  (faultOnly_clearCore _ _ _).trans (faultOnly_clearCore _ _ _)

theorem liftedState_emb (s : State) : (liftedState s).emb = liftedEmb s.emb := (faultOnly_liftedState s).emb

theorem embossOrder_congr {s t : State} (h : t.ord = s.ord) : t.embossOrder = s.embossOrder := by
  have hbody : t.body = s.body := funext fun n => body_congr h n
  rw [State.embossOrder, State.activeBody, h, hbody]
  rfl

theorem liftedState_embossOrder (s : State) : (liftedState s).embossOrder = s.embossOrder :=
  embossOrder_congr (s := s) (faultOnly_liftedState s).ord

/-- With an emboss order active the phase-pending list stays on entry to LIFTED. -/
theorem enterLifted_phasePending (s : State) (h : s.embossOrder = true) :
    s.enterLifted.emb.phasePending = s.emb.phasePending := by
  rw [enterLifted_eq, liftedState_embossOrder, h]
  have hkept : (liftedState s).emb.phasePending = s.emb.phasePending := by rw [liftedState_emb]; rfl
  split
  next hnot => cases hnot
  next => split <;> exact hkept

theorem enterLifted_keeps (s : State) :
    s.enterLifted.emb.guards = s.emb.guards ∧ s.enterLifted.emb.lastPhi = s.emb.lastPhi := by
  rw [enterLifted_eq]
  have hkept : (liftedState s).emb.guards = s.emb.guards ∧ (liftedState s).emb.lastPhi = s.emb.lastPhi := by
    rw [liftedState_emb]
    exact ⟨rfl, rfl⟩
  split
  · exact hkept
  · split <;> exact hkept

theorem embossSettle_guards (s : State) : s.embossSettle.emb.guards = s.emb.guards := by
  unfold State.embossSettle
  split
  · rfl
  · split <;> rfl
  · split
    · exact (enterLifted_keeps s).1
    · rfl
  · split <;> rfl
  · split
    · rw [sendLift_emb]
    · rfl
  · rfl

theorem lifts_of_guard {s : State} (h : s.spliceGuard = true) : s.lifts = true := by simp [State.lifts, h]

/-- Under a splice guard a loop that synchronises goes to LIFTED and stays there. -/
theorem enterLifted_of_guard (s : State) (hguard : s.spliceGuard = true) (horder : s.embossOrder = true) :
    s.enterLifted.emb.st = .lifted := by
  have hkept : (liftedState s).spliceGuard = true := by
    rw [State.spliceGuard, liftedState_emb]
    exact hguard
  rw [enterLifted_eq, liftedState_embossOrder, horder, if_neg (by decide), if_pos (lifts_of_guard hkept), liftedState_emb]
  rfl

/-! ## Splice guards (R53) -/

/-- The state with other guard intervals. -/
def withGuards (s : State) (zs : List Zone) : State := { s with emb := { s.emb with guards := zs } }

theorem guardStart_lifts (s : State) {zs : List Zone} {z : Zone} (hz : z ∈ zs) (hbegun : z.begun = true) :
    let t := (withGuards s zs).embossSettle
    (s.emb.st = .engaged → t.emb.st = .lifting ∧ t.emb.timer = true)
    ∧ (s.emb.st = .engaging → t.emb.st = .engaging ∧ t.emb.liftPending = true)
    ∧ (s.emb.st = .syncing → s.embossOrder = true → t.emb.st = .lifted) := by
  have hguard : (withGuards s zs).spliceGuard = true := List.any_eq_true.mpr ⟨z, hz, hbegun⟩
  have hlifts := lifts_of_guard hguard
  refine ⟨fun h => ?_, fun h => ?_, fun h horder => ?_⟩
  all_goals have hst : (withGuards s zs).emb.st = s.emb.st := rfl
  all_goals rw [h] at hst
  · simp only [State.embossSettle, hst, if_pos hlifts]
    rw [sendLift_emb]
    exact ⟨rfl, rfl⟩
  · simp [State.embossSettle, hst, hlifts]
  · simp only [State.embossSettle, hst, if_pos hlifts]
    exact enterLifted_of_guard _ hguard horder

theorem lifts_eq_false_iff (s : State) : s.lifts = false ↔
    s.spliceGuard = false ∧ s.reaction.code < 2 ∧ s.atTemperature = true ∧ s.faultActive embossMarkLost 0 = false
      ∧ s.faultActive embossRegisterLoss 0 = false ∧ s.embossOrder = true := by
  simp [State.lifts, and_assoc]

theorem guardEnd_syncs (s : State) {zs : List Zone} (hz : ∀ z ∈ zs, z.begun = false) (hst : s.emb.st = .lifted)
    (horder : s.embossOrder = true) (htemp : s.atTemperature = true) (hreaction : s.reaction.code < 2)
    (hmark : s.faultActive embossMarkLost 0 = false) (hloss : s.faultActive embossRegisterLoss 0 = false) :
    (withGuards s zs).embossSettle.emb.st = .syncing ∧ (withGuards s zs).embossSettle.emb.reload = true := by
  have hguard : (withGuards s zs).spliceGuard = false := by
    rw [State.spliceGuard, List.any_eq_false]
    exact fun z hmem => Bool.eq_false_iff.mp (hz z hmem)
  have hnone : (withGuards s zs).lifts = false :=
    (lifts_eq_false_iff _).mpr ⟨hguard, hreaction, htemp, hmark, hloss, horder⟩
  have hlifted : (withGuards s zs).emb.st = .lifted := hst
  have hemboss : (withGuards s zs).embossOrder = true := horder
  simp only [State.embossSettle, hlifted, hemboss, hnone, Bool.not_false, Bool.and_true, if_true]
  exact ⟨rfl, rfl⟩

/-- Settles O22: the guards change first, and the emboss loop follows the splice-guard cause. -/
theorem guardIntervalLifts : Obligations.GuardIntervalLifts := by
  intro s p
  refine ⟨⟨s.guardStart p, rfl, embossSettle_guards _, ?_, (reach_emb s _).trans (reach_embossSettle _)⟩,
    ⟨s.guardEnd p, rfl, embossSettle_guards _, ?_, (reach_emb s _).trans (reach_embossSettle _)⟩⟩
  · rintro ⟨z, hz, hp, hstart⟩
    have hbegun : { z with begun := true } ∈ beginZones p s.posHF s.emb.guards :=
      List.mem_map.mpr ⟨z, hz, if_pos ⟨hp, hstart⟩⟩
    exact guardStart_lifts s hbegun rfl
  · intro hz hst horder htemp hreaction hmark hloss
    have hguards : (s.guardEnd p).emb.guards = endZones p s.posHF s.emb.guards := embossSettle_guards _
    rw [hguards] at hz
    exact guardEnd_syncs s hz hst horder htemp hreaction hmark hloss

/-! ## The nip (R61) -/

theorem reached_some {s : State} {t : Option Int} {x : Int} (h : t = some x) (hx : x ≤ s.posHF) : s.reached t = true := by
  rw [h]
  exact decide_eq_true hx

/-- Settles O23: the check is one write to the unit. -/
theorem nipChecked : Obligations.NipChecked := by
  intro s u x hu hx hreached
  have hengaged : (match s.emb.report with
      | some r => decide (r.position = .engaged)
      | none => false) = s.emb.report.any (fun r => decide (r.position = .engaged)) := by
    cases s.emb.report <;> rfl
  have hevent : s.nipEvent u.c = s.setUnit u.c (fun v => { v with nipAt := none, flags := { v.flags with
      unembossed := v.flags.unembossed || (decide ((s.body u.order).emboss = 1)
        && !(s.emb.report.any (fun r => decide (r.position = .engaged)))) } }) := by
    simp only [State.nipEvent, hu, if_pos (reached_some hx hreached), State.checkNip]
    rw [← hengaged] <;> rfl
  exact ⟨_, congrArg Host.Outcome.next hevent, rfl⟩

/-! ## The drive timer (R56, R57) -/

/-- In ENGAGING and LIFTING a reaction hands no command over and clears no fault. -/
theorem embossSettle_waiting {s : State} (h : s.emb.st = .engaging ∨ s.emb.st = .lifting) :
    s.embossSettle.link = s.link ∧ s.embossSettle.fault = s.fault := by
  unfold State.embossSettle
  obtain h | h := h
  · rw [h]
    dsimp only
    split <;> exact ⟨rfl, rfl⟩
  · rw [h]
    exact ⟨rfl, rfl⟩

theorem raise_waiting (s : State) (code subject : Nat) (h : s.emb.st = .engaging ∨ s.emb.st = .lifting) :
    (s.raise code subject).link = s.link ∧ (s.raise code subject).fault = (s.raiseCore code subject).fault := by
  have hcore := faultOnly_raiseCore s code subject
  have hst : (s.raiseCore code subject).loopsSettle.emb.st = s.emb.st := congrArg EmbossUnit.st hcore.emb
  obtain ⟨hlink, hfault⟩ := embossSettle_waiting (s := (s.raiseCore code subject).loopsSettle) (by rwa [hst])
  exact ⟨hlink.trans hcore.link, hfault⟩

theorem nodeIndex_congr {s t : State} (h : t.link = s.link) (x : Target) : t.nodeIndex x = s.nodeIndex x := by
  cases x <;> simp only [State.nodeIndex, h]

theorem nodePresent_congr {s t : State} (h : t.link = s.link) (x : Target) : t.nodePresent x = s.nodePresent x := by
  simp only [State.nodePresent, nodeIndex_congr h, h]

/-- A LIFT that joins what waits at the drive. -/
theorem sendLift_joins {s : State} {i : Nat} {n : Node} (hi : s.nodeIndex .emboss = some i) (hn : s.link.nodes[i]? = some n)
    (hst : n.st = .present) (hroom : n.waiting.length < 10) :
    s.sendLift.emb.resent = false ∧ s.sendLift.link.nodes = s.link.nodes.set i { n with waiting := n.waiting ++ [.lift] } := by
  unfold State.sendLift
  extract_lets src t
  have ht : t.hand .emboss .lift = (t.setNode i (fun n => { n with waiting := n.waiting ++ [.lift] }), false) :=
    hand_joins hi hn hst rfl hroom
  rw [ht]
  exact ⟨rfl, modifyAt_eq_set _ hn⟩

theorem sendLift_absent {s : State} (h : s.nodePresent .emboss = false) : s.sendLift.link = s.link := by
  unfold State.sendLift
  extract_lets src t
  have ht : t.hand .emboss .lift = (t, false) := hand_absent h
  rw [ht]

/-- Settles O18: EMBOSS_DRIVE_TIMEOUT is raised in a state that hands nothing over of itself, then LIFT goes to the drive. -/
theorem driveTimerRunsOut : Obligations.DriveTimerRunsOut := by
  intro s
  constructor
  · intro htimer hst
    obtain ⟨hlink, hfault⟩ := raise_waiting s embossDriveTimeout 0 hst
    have hdue : s.driveTimeout = (s.raise embossDriveTimeout 0).sendLift := if_pos (by simp [htimer, hst])
    refine ⟨_, congrArg Host.Outcome.next hdue, rfl, by rw [sendLift_emb], by rw [sendLift_emb], ?_,
      (reach_raise s _ _).trans (reach_sendLift _), fun i n hi hn hpresent hroom => ?_, fun habsent => ?_⟩
    · rw [State.faultActive, sendLift_fault, hfault]
      exact raiseCore_faultActive s 0 rfl
    · rw [← nodeIndex_congr hlink] at hi
      rw [← hlink] at hn ⊢
      exact sendLift_joins hi hn hpresent hroom
    · rw [← nodePresent_congr hlink] at habsent
      exact (sendLift_absent habsent).trans hlink
  · intro h
    refine congrArg Host.Outcome.next (if_neg ?_)
    obtain htimer | ⟨h1, h2⟩ := h
    · simp [htimer]
    · simp [h1, h2]

/-! ## The lock test (R55) -/

/-- A correction moves the settle count, the lock count and the reload mark alone. -/
theorem correctEmboss_emb (s : State) : s.correctEmboss.emb = { s.emb with
    settle := s.correctEmboss.emb.settle, lock := s.correctEmboss.emb.lock, reload := s.correctEmboss.emb.reload }
    ∧ (s.emb.lock = 0 → s.correctEmboss.emb.lock = 0) := by
  unfold State.correctEmboss
  extract_lets phi c src
  split
  · exact ⟨rfl, id⟩
  · split
    · have hhand := hand_emb { s with emb := { s.emb with settle := 2, lock := 0 } } .emboss (.phaseTrim c)
      split
      next heq =>
        rw [heq] at hhand
        rw [hhand]
        exact ⟨rfl, fun _ => rfl⟩
      next heq =>
        rw [heq] at hhand
        unfold State.embossTrimLost
        split <;> rw [hhand] <;> exact ⟨rfl, fun _ => rfl⟩
    · exact ⟨rfl, id⟩

/-- The state of the lock test with its count taken. -/
def lockCounted (s : State) (ok : Bool) : State :=
  { s with emb := { s.emb with lock := if ok then saturate 3 (s.emb.lock + 1) else 0 } }

/-- Whether the present filtered phase is inside the lock window. -/
def insideLock (s : State) : Bool := decide (magnitude s.emb.phi16 ≤ 16 * s.lockWindow)

theorem lockTest_eq (s : State) : s.lockTest =
    if insideLock s && decide (3 ≤ (lockCounted s (insideLock s)).emb.lock) && !s.lifts && s.nodePresent .emboss then
      (lockCounted s (insideLock s)).sendEngage
    else (lockCounted s (insideLock s)).correctEmboss := rfl

theorem insideLock_iff (s : State) : insideLock s = true ↔
    (s.emb.phi16.natAbs : Int) ≤ 16 * max 1 (roundHalfAway (s.setting 39 * 1000) s.feP) := by
  rw [insideLock, decide_eq_true_iff, Reference.magnitude_eq_natAbs]
  rfl

theorem correctEmboss_st (s : State) : s.correctEmboss.emb.st = s.emb.st := by rw [(correctEmboss_emb s).1]

theorem lockCounted_full_iff (s : State) : 3 ≤ (lockCounted s true).emb.lock ↔ 2 ≤ s.emb.lock := by
  simp only [lockCounted, saturate, if_true]
  omega

/-- Settles O17: the lock test engages on its third success without a lift cause, and corrects otherwise. -/
theorem engageOnlyWhenSafe : Obligations.EngageOnlyWhenSafe := by
  intro s hst inside t engaging
  have hstay (b : Bool) : (lockCounted s b).correctEmboss.emb.st = .syncing := (correctEmboss_st _).trans hst
  refine ⟨fun hout => ?_, fun hin hcause => ?_, fun hin hlock hlifts hnode htaken => ?_, fun hengaging => ?_⟩
  · have hok : insideLock s = false := Bool.eq_false_iff.mpr fun h => hout ((insideLock_iff s).mp h)
    have ht : t = (lockCounted s false).correctEmboss := by
      show s.lockTest = _
      rw [lockTest_eq, hok]
      rfl
    rw [ht]
    exact ⟨hstay false, (correctEmboss_emb _).2 rfl⟩
  · have hok : insideLock s = true := (insideLock_iff s).mpr hin
    have ht : t = (lockCounted s true).correctEmboss := by
      show s.lockTest = _
      rw [lockTest_eq, hok]
      refine if_neg ?_
      have hfull := lockCounted_full_iff s
      obtain hlow | hlifts | hnode := hcause
      · simp [hfull, not_le.mpr hlow]
      · simp [hlifts]
      · simp [hnode]
    rw [ht]
    exact hstay true
  · have hok : insideLock s = true := (insideLock_iff s).mpr hin
    have hcounted : lockCounted s true = { s with emb := { s.emb with lock := 3 } } := by
      have hthree : saturate 3 (s.emb.lock + 1) = 3 := by simp only [saturate]; omega
      simp only [lockCounted, if_true, hthree]
    have ht : t = (lockCounted s true).sendEngage := by
      show s.lockTest = _
      rw [lockTest_eq, hok]
      exact if_pos (by simp [lockCounted_full_iff, hlock, hlifts, hnode])
    have hsent : t = (engaging.hand .emboss .engage).1 := by
      have hpair : engaging.hand .emboss .engage = ((engaging.hand .emboss .engage).1, false) := Prod.ext rfl htaken
      rw [ht, hcounted, State.sendEngage]
      show (match engaging.hand .emboss .engage with
        | (s, false) => s
        | (s, true) => s.engageLost) = _
      rw [hpair]
    rw [hsent]
    exact ⟨rfl, by rw [hand_emb]⟩
  · have hlifts : s.lifts = false := by
      by_contra hcause
      have ht : t = (lockCounted s (insideLock s)).correctEmboss := by
        show s.lockTest = _
        rw [lockTest_eq]
        exact if_neg (by simp [Bool.not_eq_false _ ▸ hcause])
      rw [ht, hstay] at hengaging
      cases hengaging
    obtain ⟨hguard, hreaction, htemp, hmark, hloss, horder⟩ := (lifts_eq_false_iff s).mp hlifts
    exact ⟨horder, htemp, hguard, hreaction, hmark, hloss⟩

/-! ## The phase of a unit (R48) -/

/-- The reduction takes off a multiple of the circumference and lands in the half-open interval around 0. -/
theorem reducePhase_range (v : Int) {c : Int} (hc : 0 < c) :
    -c < 2 * reducePhase v c ∧ 2 * reducePhase v c ≤ c ∧ ∃ k : Int, v = reducePhase v c + k * c := by
  have hlow := Int.emod_nonneg v hc.ne'
  have hhigh := Int.emod_lt_of_pos v hc
  have hdiv := Int.emod_add_mul_ediv v c
  unfold reducePhase
  extract_lets m
  split
  · refine ⟨by omega, by omega, v / c + 1, ?_⟩
    rw [Int.add_mul, mul_comm (v / c) c]
    omega
  · refine ⟨by omega, by omega, v / c, ?_⟩
    rw [mul_comm (v / c) c]
    omega

/-- The states of the loop in which a phase is measured. -/
def Measuring (s : State) : Prop := s.emb.st = .syncing ∨ s.emb.st = .engaging ∨ s.emb.st = .engaged

/-- From `s` to `t` only what a raise or clear reaches has moved, and phase-pending list and last phase are as they were. -/
structure PhaseStep (s t : State) : Prop where
  reach : s.faultReach t
  pending : t.emb.phasePending = s.emb.phasePending
  last : t.emb.lastPhi = s.emb.lastPhi

theorem PhaseStep.refl (s : State) : PhaseStep s s := ⟨.refl s, rfl, rfl⟩

theorem PhaseStep.trans {s t u : State} (h : PhaseStep s t) (k : PhaseStep t u) : PhaseStep s u :=
  ⟨h.reach.trans k.reach, k.pending.trans h.pending, k.last.trans h.last⟩

theorem PhaseStep.ite {c : Prop} [Decidable c] {s t u : State} (h : c → PhaseStep s t) (k : ¬c → PhaseStep s u) :
    PhaseStep s (if c then t else u) := by
  split
  next hc => exact h hc
  next hc => exact k hc

theorem phaseStep_emb (s : State) (x : EmbossUnit) (h : x.phasePending = s.emb.phasePending) (k : x.lastPhi = s.emb.lastPhi) :
    PhaseStep s { s with emb := x } := ⟨reach_emb s x, h, k⟩

theorem phaseStep_hand (s : State) (t : Target) (c : LinkCmd) : PhaseStep s (s.hand t c).1 :=
  ⟨reach_hand s t c, by rw [hand_emb], by rw [hand_emb]⟩

theorem phaseStep_embossTrimLost (s : State) : PhaseStep s s.embossTrimLost :=
  .ite (fun _ => phaseStep_emb s _ rfl rfl) fun _ => .refl s

/-- Only the loss of the embossing order would empty the phase-pending list. -/
theorem phaseStep_enterLifted (s : State) (h : s.embossOrder = true) : PhaseStep s s.enterLifted :=
  ⟨reach_enterLifted s, enterLifted_phasePending s h, (enterLifted_keeps s).2⟩

theorem phaseStep_engageLost (s : State) (h : s.embossOrder = true) : PhaseStep s s.engageLost := by
  unfold State.engageLost
  refine .ite (fun _ => .refl s) fun _ => .ite (fun _ => ?_) fun _ => phaseStep_enterLifted s h
  have ht : PhaseStep s { s with emb := { s.emb with resent := true, timer := true } } := phaseStep_emb s _ rfl rfl
  have hhand := ht.trans (phaseStep_hand _ .emboss .engage)
  have hord : ({ s with emb := { s.emb with resent := true, timer := true } }.hand .emboss .engage).1.ord = s.ord := hand_ord _ _ _
  split
  next heq => rwa [heq] at hhand
  next heq =>
    rw [heq] at hhand hord
    exact hhand.trans (phaseStep_enterLifted _ ((embossOrder_congr hord).trans h))

theorem phaseStep_correctEmboss (s : State) : PhaseStep s s.correctEmboss := by
  refine ⟨?_, by rw [(correctEmboss_emb s).1], by rw [(correctEmboss_emb s).1]⟩
  unfold State.correctEmboss
  extract_lets phi c src
  refine .ite (.refl s) (.ite ?_ (.refl s))
  have hhand := (reach_emb s { s.emb with settle := 2, lock := 0 }).trans (reach_hand _ .emboss (.phaseTrim c))
  split
  next heq => rwa [heq] at hhand
  next heq =>
    rw [heq] at hhand
    exact hhand.trans (phaseStep_embossTrimLost _).reach

theorem phaseStep_sendEngage (s : State) (h : s.embossOrder = true) : PhaseStep s s.sendEngage := by
  unfold State.sendEngage
  extract_lets src t
  have ht : PhaseStep s t := phaseStep_emb s _ rfl rfl
  have hhand := ht.trans (phaseStep_hand t .emboss .engage)
  have hord : (t.hand .emboss .engage).1.ord = s.ord := hand_ord t _ _
  split
  next heq => rwa [heq] at hhand
  next heq =>
    rw [heq] at hhand hord
    exact hhand.trans (phaseStep_engageLost _ ((embossOrder_congr hord).trans h))

theorem phaseStep_lockTest (s : State) : PhaseStep s s.lockTest := by
  rw [lockTest_eq]
  have hcount : PhaseStep s (lockCounted s (insideLock s)) := phaseStep_emb s _ rfl rfl
  refine .ite (fun h => hcount.trans (phaseStep_sendEngage _ ?_)) fun _ => hcount.trans (phaseStep_correctEmboss _)
  simp only [Bool.and_eq_true, Bool.not_eq_true'] at h
  obtain ⟨⟨-, hlifts⟩, -⟩ := h
  exact ((lifts_eq_false_iff s).mp hlifts).2.2.2.2.2

/-- In ENGAGED a raise at most sends LIFT. -/
theorem phaseStep_raise_engaged (s : State) (code subject : Nat) (h : s.emb.st = .engaged) :
    PhaseStep s (s.raise code subject) := by
  have hemb : (s.raiseCore code subject).loopsSettle.emb = s.emb := (faultOnly_raiseCore s code subject).emb
  refine ⟨reach_raise s code subject, ?_, ?_⟩
  all_goals
    simp only [State.raise, State.settle, State.embossSettle, hemb, h]
    split
    · rw [sendLift_emb, hemb]
    · rw [hemb]

theorem phaseStep_lossTest (s : State) (phi : Int) (h : s.emb.st = .engaged) : PhaseStep s (s.lossTest phi) := by
  unfold State.lossTest
  extract_lets loss src t
  have ht : PhaseStep s t := phaseStep_emb s _ rfl rfl
  exact .ite (fun _ => ht.trans (phaseStep_raise_engaged t _ _ h)) fun _ => ht

theorem phaseStep_filterPhase (s : State) (phi : Int) : PhaseStep s (s.filterPhase phi) := phaseStep_emb s _ rfl rfl

theorem phaseStep_settlePhase (s : State) : PhaseStep s s.settlePhase := phaseStep_emb s _ rfl rfl

/-- A measurement notes its phase; the loop then acts by its state. -/
theorem measurePhase_step (s : State) (phi : Int) :
    PhaseStep { s with emb := { s.emb with lastPhi := some phi } } (s.measurePhase phi) := by
  unfold State.measurePhase
  extract_lets src t settling
  split
  next => exact .ite (fun _ => phaseStep_settlePhase t) fun _ => (phaseStep_filterPhase t phi).trans (phaseStep_lockTest _)
  next => exact .ite (fun _ => phaseStep_settlePhase t) fun _ => phaseStep_filterPhase t phi
  next hst =>
    have hmeasured : PhaseStep t (if settling = true then t.settlePhase else (t.filterPhase phi).correctEmboss) :=
      .ite (fun _ => phaseStep_settlePhase t) fun _ => (phaseStep_filterPhase t phi).trans (phaseStep_correctEmboss _)
    refine hmeasured.trans (phaseStep_lossTest _ phi ?_)
    split
    · exact hst
    · exact (correctEmboss_st _).trans hst
  all_goals exact .refl t

/-! ## The phases of an index stamp (R47, R48) -/

/-- The phase of a record with g against a stamp is written to it. -/
def phaseOf (s : State) (i : Int) (u : UnitRec) : Option Int := (u.g.map (fun g => s.phaseError g i)).or u.phi

/-- What the phases of the coordinates `w` make of a record. -/
def phaseWritten (s : State) (i : Int) (w : List Int) (u : UnitRec) : UnitRec :=
  if u.c ∈ w then { u with phi := phaseOf s i u } else u

theorem phaseError_congr {s t : State} (h : t.settings = s.settings) (g i : Int) : t.phaseError g i = s.phaseError g i := by
  simp only [State.phaseError, State.thetaF, State.cF, State.feP, setting_congr h]

theorem phaseWritten_cons (s t : State) (h : t.settings = s.settings) (i : Int) (c : Int) (w : List Int) (u : UnitRec) :
    phaseWritten t i w (phaseWritten s i [c] u) = phaseWritten s i (c :: w) u := by
  have hphase (v : UnitRec) : phaseOf t i v = phaseOf s i v := by simp only [phaseOf, phaseError_congr h]
  have htwice : phaseOf s i { u with phi := phaseOf s i u } = phaseOf s i u := by
    simp only [phaseOf]
    cases u.g <;> rfl
  by_cases hc : u.c = c
  · subst hc
    by_cases hw : u.c ∈ w
    · simp [phaseWritten, hw, hphase, htwice]
    · simp [phaseWritten, hw]
  · by_cases hw : u.c ∈ w
    · simp [phaseWritten, hc, hw, hphase]
    · simp [phaseWritten, hc, hw]

/-- The rising order of a track's coordinates (R7). -/
def Rising (s : State) : Prop := (s.track.units.map UnitRec.c).Pairwise (fun a b => a < b)

theorem phaseWritten_c (s : State) (i : Int) (w : List Int) (u : UnitRec) : (phaseWritten s i w u).c = u.c := by
  unfold phaseWritten
  split <;> rfl

/-- One pending unit is resolved in a state that measures: its phase is written and measured. -/
theorem resolvePhase_unit {s : State} {c i g : Int} {u : UnitRec} (hm : Measuring s) (hu : s.unit? c = some u)
    (hg : u.g = some g) : s.resolvePhase c i =
      (s.setUnit c (fun v => { v with phi := some (s.phaseError g i) })).measurePhase (s.phaseError g i) := by
  simp only [State.resolvePhase, hu, hg]
  exact if_pos hm

/-- Outside the measuring states nothing is resolved. -/
theorem resolvePhase_idle {s : State} (hm : ¬ Measuring s) (c i : Int) : s.resolvePhase c i = s := by
  unfold State.resolvePhase
  split
  next => rfl
  next => split <;> first | rfl | exact if_neg hm

theorem foldl_resolvePhase_idle {s : State} (hm : ¬ Measuring s) (i : Int) (l : List Int) :
    l.foldl (fun s c => s.resolvePhase c i) s = s := by
  induction l with
  | nil => rfl
  | cons c l ih => rw [List.foldl_cons, resolvePhase_idle hm, ih]

/-- What resolving some pending units does, `w` being those whose phases are written. -/
structure Resolved (i : Int) (w : List Int) (s t : State) : Prop where
  step : TrackStep s t
  track : t.track = { s.track with units := s.track.units.map (phaseWritten s i w) }
  pending : t.emb.phasePending = s.emb.phasePending

theorem resolvePhase_resolved {s : State} (hrise : Rising s) (hm : Measuring s) (c i : Int) :
    Resolved i [c] s (s.resolvePhase c i) := by
  have unchanged (h : ∀ u ∈ s.track.units, u.c = c → u.g = none) : Resolved i [c] s s := by
    refine ⟨.refl s, ?_, rfl⟩
    have hid : s.track.units.map (phaseWritten s i [c]) = s.track.units := by
      refine (List.map_congr_left fun u hu => ?_).trans (List.map_id _)
      unfold phaseWritten
      split
      next hc =>
        have hphase : phaseOf s i u = u.phi := by simp [phaseOf, h u hu (List.mem_singleton.mp hc)]
        rw [hphase]
        rfl
      next => rfl
    rw [hid]
  cases hu : s.unit? c with
  | none =>
    have hsame : s.resolvePhase c i = s := by simp only [State.resolvePhase, hu]
    rw [hsame]
    exact unchanged fun u hmem hc => absurd hc ((unit?_eq_none_iff s c).mp hu u hmem)
  | some u =>
    have hunique : ∀ v ∈ s.track.units, v.c = c → v = u := fun v hv hc => by
      have := unit?_of_mem hrise hv
      rw [hc, hu] at this
      exact (Option.some.inj this).symm
    cases hg : u.g with
    | none =>
      have hsame : s.resolvePhase c i = s := by simp only [State.resolvePhase, hu, hg]
      rw [hsame]
      exact unchanged fun v hv hc => by rw [hunique v hv hc]; exact hg
    | some g =>
      rw [resolvePhase_unit hm hu hg]
      have hstep := measurePhase_step (s.setUnit c (fun v => { v with phi := some (s.phaseError g i) })) (s.phaseError g i)
      have hreach := (reach_emb (s.setUnit c (fun v => { v with phi := some (s.phaseError g i) })) _).trans hstep.reach
      refine ⟨(trackStep_track s _).trans (.of_faultReach hreach), hreach.track.trans ?_, hstep.pending⟩
      refine congrArg (fun us => { s.track with units := us }) (List.map_congr_left fun v hv => ?_)
      unfold phaseWritten
      by_cases hc : v.c = c
      · rw [if_pos hc, if_pos (List.mem_singleton.mpr hc), hunique v hv hc]
        simp [phaseOf, hg]
      · rw [if_neg hc, if_neg (fun h => hc (List.mem_singleton.mp h))]

/-- The pending units are resolved in order, as long as the state measures. -/
theorem foldl_resolvePhase {s : State} (hrise : Rising s) (i : Int) (l : List Int) :
    ∃ w, w <+: l ∧ (Measuring s → l.head? = w.head?) ∧ Resolved i w s (l.foldl (fun s c => s.resolvePhase c i) s)
      ∧ (Measuring (l.foldl (fun s c => s.resolvePhase c i) s) → w = l) := by
  have none (t : State) : Resolved i [] t t := ⟨.refl t, by
    have : t.track.units.map (phaseWritten t i []) = t.track.units :=
      (List.map_congr_left fun u _ => if_neg List.not_mem_nil).trans (List.map_id _)
    rw [this], rfl⟩
  induction l generalizing s with
  | nil => exact ⟨[], List.nil_prefix, fun _ => rfl, none s, fun _ => rfl⟩
  | cons c l ih =>
    by_cases hm : Measuring s
    · have hone := resolvePhase_resolved hrise hm c i
      have hrise' : Rising (s.resolvePhase c i) := by
        have hcs : s.track.units.map (UnitRec.c ∘ phaseWritten s i [c]) = s.track.units.map UnitRec.c :=
          List.map_congr_left fun u _ => phaseWritten_c s i [c] u
        rw [Rising, hone.track, List.map_map, hcs]
        exact hrise
      obtain ⟨w, hw, -, hrest, hall⟩ := ih hrise'
      refine ⟨c :: w, List.cons_prefix_cons.mpr ⟨rfl, hw⟩, fun _ => rfl,
        ⟨hone.step.trans hrest.step, ?_, hrest.pending.trans hone.pending⟩, fun h => congrArg (c :: ·) (hall h)⟩
      rw [List.foldl_cons, hrest.track, hone.track, List.map_map]
      exact congrArg (fun us => { s.track with units := us })
        (List.map_congr_left fun u _ => phaseWritten_cons s _ hone.step.settings i c w u)
    · rw [foldl_resolvePhase_idle hm]
      exact ⟨[], List.nil_prefix, fun h => absurd h hm, none s, fun h => absurd h hm⟩

/-! ## An index stamp (R47) -/

theorem beforeStamp_eq (s : State) (i c : Int) :
    s.beforeStamp i c = (s.unit? c).any (fun u => u.g.any (fun g => decide (g < i))) := by
  unfold State.beforeStamp
  cases s.unit? c with
  | none => rfl
  | some u => cases hg : u.g <;> simp [hg]

/-- The state of an index stamp in which the units below it have left the phase-pending list. -/
def stampTaken (s : State) (i : Int) : State :=
  { s with emb := { s.emb with phasePending := s.emb.phasePending.filter (fun c =>
      !((s.unit? c).any (fun u => u.g.any (fun g => decide (g < i))))) } }

/-- The pending units below an index stamp. -/
def stampedUnits (s : State) (i : Int) : List Int :=
  s.emb.phasePending.filter (fun c => (s.unit? c).any (fun u => u.g.any (fun g => decide (g < i))))

/-- The stamp becomes I. -/
def withIndex (s : State) (i : Int) : State := { s with emb := { s.emb with lastIndex := some i } }

theorem takeIndex_first {s : State} (i : Int) (h : s.emb.lastIndex = none) : s.takeIndex i = withIndex (stampTaken s i) i := by
  unfold State.takeIndex stampTaken
  rw [h]
  simp only [← beforeStamp_eq]
  rfl

theorem takeIndex_later {s : State} (i : Int) {l : Int} (h : s.emb.lastIndex = some l) : s.takeIndex i =
    withIndex ((stampedUnits s i).foldl (fun s c => s.resolvePhase c l) (stampTaken s i)) i := by
  unfold State.takeIndex stampedUnits stampTaken
  rw [h]
  simp only [← beforeStamp_eq]
  rfl

theorem exec_eindexEdge {s : State} (h : s.coord.wF = s.coord.hF) : exec .eindexEdge s = .next (s.takeIndex s.posWF) :=
  congrArg Host.Outcome.next (if_pos (decide_eq_true h))

theorem trackStep_withIndex {s t : State} (h : TrackStep s t) (i : Int) : TrackStep s (withIndex t i) :=
  h.trans (.of_faultReach (reach_emb t _))

theorem trackStep_stampTaken (s : State) (i : Int) : TrackStep s (stampTaken s i) := .of_faultReach (reach_emb s _)

/-- Settles O16: the reduction, and the units below a stamp resolved in their order against the stamp before it. -/
theorem indexStampTaken : Obligations.IndexStampTaken := by
  refine ⟨fun v c hc => reducePhase_range v hc, ?_⟩
  intro s hw kept taken measuring phase
  refine ⟨fun hnone => ?_, ?_, ?_⟩
  · refine (exec_eindexEdge hw).trans (congrArg Host.Outcome.next ?_)
    cases hl : s.emb.lastIndex with
    | none => exact takeIndex_first s.posWF hl
    | some l =>
      rw [takeIndex_later s.posWF hl]
      obtain h | h | h := hnone
      · rw [hl] at h; cases h
      · rw [foldl_resolvePhase_idle (s := stampTaken s s.posWF) h]
        rfl
      · have hempty : stampedUnits s s.posWF = [] := h
        rw [hempty]
        rfl
  · intro i c u g hl hm htaken hu hg
    have hone : stampedUnits s s.posWF = [c] := htaken
    let b := (stampTaken s s.posWF).setUnit c (fun v => { v with phi := some (phase g i) })
    have hstep := measurePhase_step b (phase g i)
    have hreach := (reach_emb b _).trans hstep.reach
    let t := (stampTaken s s.posWF).resolvePhase c i
    have ht : t = b.measurePhase (phase g i) := resolvePhase_unit (s := stampTaken s s.posWF) hm hu hg
    have htrack : TrackStep s t := by
      rw [ht]
      exact ((trackStep_stampTaken s _).trans (trackStep_track _ _)).trans (.of_faultReach hreach)
    have hlast : t.emb.lastPhi = some (phase g i) := by rw [ht]; exact hstep.last
    refine ⟨withIndex t s.posWF, ?_, rfl, (congrArg (fun x : State => x.emb.phasePending) ht).trans hstep.pending, hlast, ?_,
      (trackStep_withIndex htrack _).faultReach⟩
    · refine (exec_eindexEdge hw).trans (congrArg Host.Outcome.next ?_)
      rw [takeIndex_later s.posWF hl, hone]
      rfl
    · have hphi : (withIndex t s.posWF).emb.lastPhi = some (phase g i) := hlast
      have hunits : t.track = b.track := by
        rw [ht]; exact hreach.track
      rw [hphi]
      exact hunits
  · intro i hl hm hrise
    obtain ⟨w, hprefix, hhead, hres, hall⟩ := foldl_resolvePhase (s := stampTaken s s.posWF) hrise i (stampedUnits s s.posWF)
    generalize htdef : (stampedUnits s s.posWF).foldl (fun s c => s.resolvePhase c i) (stampTaken s s.posWF) = t at hres hall
    have hphase (u : UnitRec) (g : Int) (hg : u.g = some g) : phaseOf (stampTaken s s.posWF) i u = some (phase g i) := by
      simp only [phaseOf, hg]
      rfl
    refine ⟨withIndex t s.posWF, ?_, rfl, hres.pending, ?_, ?_, fun k u hu => ?_,
      (trackStep_withIndex ((trackStep_stampTaken s _).trans hres.step) _).faultReach⟩
    · refine (exec_eindexEdge hw).trans (congrArg Host.Outcome.next ?_)
      rw [takeIndex_later s.posWF hl, htdef]
    · show t.track = { s.track with units := t.track.units }
      rw [hres.track]
      rfl
    · show t.track.units.length = _
      rw [hres.track]
      exact List.length_map _
    · refine ⟨phaseWritten (stampTaken s s.posWF) i w u, ?_, ?_, fun hnot => ?_, fun g _ hg => ?_, fun g hfirst hg => ?_,
        fun g hmt hin hg => ?_⟩
      · show t.track.units[k]? = _
        rw [hres.track]
        show (s.track.units.map _)[k]? = _
        rw [List.getElem?_map, hu]
        rfl
      · unfold phaseWritten
        split <;> rfl
      · exact if_neg fun hin => hnot (hprefix.subset hin)
      · unfold phaseWritten
        split
        · exact .inr (hphase u g hg)
        · exact .inl rfl
      · have hin : u.c ∈ w := by
          have hw1 : w.head? = some u.c := (hhead hm).symm.trans hfirst
          exact List.mem_of_mem_head? hw1
        rw [phaseWritten, if_pos hin]
        exact hphase u g hg
      · have hw1 : w = stampedUnits s s.posWF := hall hmt
        rw [phaseWritten, if_pos (hw1 ▸ hin)]
        exact hphase u g hg

end Sys2Proof.Proofs.EmbossLoop
end

section
/-! PROOFS. Units from the register head to the cutter (1.4): what the setting of a g does to the records of the track, the match
windows, and the records and splice entries that leave. -/

namespace Sys2Proof.Proofs.WebDownstream
open Sys2Proof.Machine Sys2Proof.Proofs.FaultFacts Sys2Proof.Proofs.Lookups Sys2Proof.Proofs.StationLoops
open Sys2Proof.Proofs.EmbossLoop (Rising)

/-! ## Records by their coordinate -/

/-- A look-up by coordinate sees a map of the records that keeps coordinates. -/
theorem unit?_map_congr {f : UnitRec → UnitRec} (hf : ∀ u, (f u).c = u.c) {s t : State}
    (h : t.track.units.map f = s.track.units.map f) (c : Int) : (t.unit? c).map f = (s.unit? c).map f := by
  have key (x : State) : (x.unit? c).map f = (x.track.units.map f).find? (fun u => decide (u.c = c)) := by
    rw [List.find?_map]
    simp only [State.unit?, Function.comp_def, hf]
  rw [key, key, h]

theorem unit?_setUnit_same (s : State) {c : Int} {f : UnitRec → UnitRec} (hf : ∀ u, (f u).c = u.c) :
    (s.setUnit c f).unit? c = (s.unit? c).map f := by
  unfold State.unit? State.setUnit
  rw [List.find?_map]
  have hpred : (fun u : UnitRec => decide (u.c = c)) ∘ (fun u : UnitRec => if u.c = c then f u else u)
      = fun u => decide (u.c = c) := by
    funext u
    by_cases h : u.c = c <;> simp [h, hf]
  rw [hpred]
  cases h : s.track.units.find? (fun u => decide (u.c = c)) with
  | none => rfl
  | some u =>
    have hc : u.c = c := unit?_c (s := s) h
    simp [hc]

theorem unit?_setUnit_ne (s : State) {c c' : Int} {f : UnitRec → UnitRec} (hf : ∀ u, (f u).c = u.c) (h : c' ≠ c) :
    (s.setUnit c f).unit? c' = s.unit? c' := by
  unfold State.unit? State.setUnit
  rw [List.find?_map]
  have hpred : (fun u : UnitRec => decide (u.c = c')) ∘ (fun u : UnitRec => if u.c = c then f u else u)
      = fun u => decide (u.c = c') := by
    funext u
    by_cases hu : u.c = c <;> simp [hu, hf]
  rw [hpred]
  cases hfind : s.track.units.find? (fun u => decide (u.c = c')) with
  | none => rfl
  | some u =>
    have hc : u.c = c' := unit?_c (s := s) hfind
    simp [hc, h]

/-- The record at `c` of a rising list is written alone. -/
theorem map_set_split {before after : List UnitRec} {u : UnitRec} (f : UnitRec → UnitRec)
    (hrise : ((before ++ u :: after).map UnitRec.c).Pairwise (fun a b => a < b)) :
    (before ++ u :: after).map (fun v => if v.c = u.c then f v else v) = before ++ f u :: after := by
  rw [List.map_append, List.map_cons, List.pairwise_append, List.pairwise_cons] at hrise
  obtain ⟨-, ⟨hafter, -⟩, hbefore⟩ := hrise
  have keep (l : List UnitRec) (h : ∀ v ∈ l, v.c ≠ u.c) : l.map (fun v => if v.c = u.c then f v else v) = l := by
    conv_rhs => rw [← List.map_id l]
    exact List.map_congr_left fun v hv => if_neg (h v hv)
  rw [List.map_append, List.map_cons, if_pos rfl,
    keep before fun v hv => (hbefore _ (List.mem_map_of_mem hv) _ List.mem_cons_self).ne,
    keep after fun v hv => (hafter _ (List.mem_map_of_mem hv)).ne']

theorem neighbours_split {before after : List UnitRec} {u : UnitRec} {c : Int} (hu : u.c = c) (h : ∀ v ∈ before, v.c ≠ c)
    (prev : Option UnitRec) : neighbours c (before ++ u :: after) prev = (before.getLast?.or prev, after.head?) := by
  induction before generalizing prev with
  | nil => simp [neighbours, hu]
  | cons v before ih =>
    rw [List.cons_append, neighbours, if_neg (h v List.mem_cons_self),
      ih (fun w hw => h w (List.mem_cons_of_mem _ hw)), List.getLast?_cons]
    cases before.getLast? <;> rfl

/-! ## Records up to their core and one final length -/

/-- A record without its final length, where it is the unit at `c`. -/
def blankLength (c : Int) (u : UnitRec) : UnitRec :=
  if u.c = c then { u with lFin := none, lFinal := false, lMeasured := false, leaveAt := none } else u

/-- The records are the same up to the core and the length of the unit at `c`. -/
def CoreBut (c : Int) (s t : State) : Prop :=
  t.track.units.map (fun u => blankLength c u.core) = s.track.units.map (fun u => blankLength c u.core)

theorem CoreBut.refl (c : Int) (s : State) : CoreBut c s s := rfl

theorem CoreBut.trans {c : Int} {s t u : State} (h : CoreBut c s t) (k : CoreBut c t u) : CoreBut c s u := Eq.trans k h

theorem CoreBut.of_kept {s t : State} (h : Kept s t) (c : Int) : CoreBut c s t := by
  have := congrArg (List.map (blankLength c)) h.units
  rwa [List.map_map, List.map_map] at this

@[simp] theorem blankLength_c (c : Int) (u : UnitRec) : (blankLength c u).c = u.c := by
  unfold blankLength
  split <;> rfl

theorem blankLength_g (c : Int) (u : UnitRec) : (blankLength c u).g = u.g := by
  unfold blankLength
  split <;> rfl

theorem blankLength_flags (c : Int) (u : UnitRec) : (blankLength c u).flags = u.flags := by
  unfold blankLength
  split <;> rfl

theorem CoreBut.coordinates {c : Int} {s t : State} (h : CoreBut c s t) :
    t.track.units.map (fun u => (u.c, u.g)) = s.track.units.map (fun u => (u.c, u.g)) := by
  have := congrArg (List.map (fun u : UnitRec => (u.c, u.g))) h
  simp only [List.map_map, Function.comp_def, blankLength_c, blankLength_g] at this
  exact this

theorem CoreBut.unit {c c' : Int} {s t : State} (h : CoreBut c s t) {u : UnitRec} (hu : s.unit? c' = some u) :
    ∃ v, t.unit? c' = some v ∧ blankLength c v.core = blankLength c u.core := by
  have := unit?_map_congr (f := fun u => blankLength c u.core) (fun u => blankLength_c c u.core) h c'
  rw [hu, Option.map_some, Option.map_eq_some_iff] at this
  exact this

/-- A unit keeps whether it is ESTIMATED. -/
theorem CoreBut.estimated {c c' : Int} {s t : State} (h : CoreBut c s t) {u : UnitRec} (hu : s.unit? c' = some u) :
    ∃ v, t.unit? c' = some v ∧ v.flags.estimated = u.flags.estimated := by
  obtain ⟨v, hv, hcore⟩ := h.unit hu
  have := congrArg (fun x : UnitRec => x.flags.estimated) hcore
  simp only [blankLength_flags] at this
  exact ⟨v, hv, this⟩

/-- Another unit keeps its length. -/
theorem CoreBut.length {c c' : Int} {s t : State} (h : CoreBut c s t) (hne : c' ≠ c) {u : UnitRec} (hu : s.unit? c' = some u) :
    ∃ v, t.unit? c' = some v ∧ v.lFin = u.lFin ∧ v.lFinal = u.lFinal ∧ v.lMeasured = u.lMeasured ∧ v.leaveAt = u.leaveAt := by
  obtain ⟨v, hv, hcore⟩ := h.unit hu
  rw [blankLength, if_neg (by rw [UnitRec.core, unit?_c hv]; exact hne), blankLength,
    if_neg (by rw [UnitRec.core, unit?_c hu]; exact hne)] at hcore
  exact ⟨v, hv, (congrArg UnitRec.lFin hcore :), (congrArg UnitRec.lFinal hcore :), (congrArg UnitRec.lMeasured hcore :),
    (congrArg UnitRec.leaveAt hcore :)⟩

/-! ## A length that becomes final -/

/-- The record of `u` with its final length, the next record being `v`. -/
def withFinal (s : State) (u v : UnitRec) (b e : Int) (r : UnitRec) : UnitRec :=
  { r with
    lFin := some (e - b), lFinal := true, leaveAt := some (e + s.yCut),
    lMeasured := !u.flags.estimated && !v.flags.estimated && decide (s.phaseF (s.body u.order) = s.phaseF (s.body v.order)) }

theorem kept_finalize (s : State) {u v : UnitRec} {g b e : Int} (hg : u.g = some g) (hb : s.spanStart u = some b)
    (he : s.spanStart v = some e) : Kept (s.setUnit u.c (withFinal s u v b e)) (s.finalize u v) := by
  unfold State.finalize
  rw [hg, hb, he]
  exact (((Kept.ite (kept_judgeMatch _ _ _ _) (.refl _)).trans (kept_drawFinal _ _ _ _)).trans
    (Kept.ite (kept_sampleStrain _ _ _) (.refl _))).trans (kept_spliceCoordinates _ _ _ _ _)

theorem coreBut_setUnit (s : State) {c : Int} {f : UnitRec → UnitRec}
    (h : ∀ u, u.c = c → blankLength c (f u).core = blankLength c u.core) : CoreBut c s (s.setUnit c f) := by
  unfold CoreBut State.setUnit
  rw [List.map_map]
  refine List.map_congr_left fun u _ => ?_
  simp only [Function.comp]
  split
  next hu => exact h u hu
  next => rfl

theorem coreBut_finalize (s : State) (u v : UnitRec) : CoreBut u.c s (s.finalize u v) := by
  have same (h : s.finalize u v = s) : CoreBut u.c s (s.finalize u v) := by rw [h]; exact .refl _ _
  cases hg : u.g with
  | none => exact same (by rw [State.finalize, hg])
  | some g =>
    cases hb : s.spanStart u with
    | none => exact same (by rw [State.finalize, hb, hg])
    | some b =>
      cases he : s.spanStart v with
      | none => exact same (by rw [State.finalize, hb, hg, he])
      | some e =>
        refine CoreBut.trans (coreBut_setUnit s fun r hr => ?_) (.of_kept (kept_finalize s hg hb he) _)
        have h1 : r.core.c = u.c := hr
        have h2 : (withFinal s u v b e r).core.c = u.c := hr
        rw [blankLength, if_pos h2, blankLength, if_pos h1]
        rfl

/-- What the first of the two lengths that a g may make final does. -/
def finalizeBefore (s : State) (c : Int) : State :=
  match (neighbours c s.track.units none).1, s.unit? c with
  | some p, some u => s.finalize p u
  | _, _ => s

/-- What the second of them does. -/
def finalizeOwn (s : State) (c : Int) : State :=
  match s.unit? c, (neighbours c s.track.units none).2 with
  | some u, some v => if v.g.isSome then s.finalize u v else s
  | _, _ => s

theorem finalizeAround_eq (s : State) (c : Int) : s.finalizeAround c = finalizeOwn (finalizeBefore s c) c := rfl

/-- The later of the two lengths is that of the unit itself. -/
theorem coreBut_finalizeOwn (s : State) (c : Int) : CoreBut c s (finalizeOwn s c) := by
  unfold finalizeOwn
  split
  next u v hu _ =>
    split
    · have := coreBut_finalize s u v
      rwa [unit?_c hu] at this
    · exact .refl _ _
  next => exact .refl _ _

/-! ## Setting g -/

/-- The record of a unit armed from its g. -/
def armed (s : State) (u : UnitRec) (g : Int) (estimated : Bool) (r : UnitRec) : UnitRec :=
  let start := g + s.phaseF (s.body u.order)
  let mid := start + floorDiv (s.estimate u) 2
  { r with
    g := some g, lFin := some (s.estimate u), nipAt := some (mid + s.yNip), shadeAt := some (mid + s.yShade),
    horizonAt := some (start + s.yCut - s.leadF), flags := { r.flags with estimated := r.flags.estimated || estimated } }

theorem armUnit_eq (s : State) (u : UnitRec) (g : Int) (estimated : Bool) :
    s.armUnit u g estimated = s.setUnit u.c (armed s u g estimated) := rfl

/-- Track, orders and settings, which the span starts are of. -/
structure SameSpans (s t : State) : Prop where
  track : t.track = s.track
  ord : t.ord = s.ord
  settings : t.settings = s.settings

theorem SameSpans.refl (s : State) : SameSpans s s := ⟨rfl, rfl, rfl⟩

theorem SameSpans.trans {s t u : State} (h : SameSpans s t) (k : SameSpans t u) : SameSpans s u :=
  ⟨k.track.trans h.track, k.ord.trans h.ord, k.settings.trans h.settings⟩

theorem SameSpans.of_faultReach {s t : State} (h : s.faultReach t) : SameSpans s t := ⟨h.track, h.orders, h.inputs.settings⟩

theorem SameSpans.ite {c : Prop} [Decidable c] {s t u : State} (h : SameSpans s t) (k : SameSpans s u) :
    SameSpans s (if c then t else u) := by
  split
  · exact h
  · exact k

theorem sameSpans_setPlan (s : State) (plan : List PlanEntry) : SameSpans s (s.setPlan plan) :=
  SameSpans.trans (t := s.setCut (fun p => { p with plan := plan })) ⟨rfl, rfl, rfl⟩
    (.ite (.of_faultReach (reach_clear _ _ _)) (.refl _))

theorem sameSpans_openRoll (s : State) (x : Int) : SameSpans s (s.openRoll x) := by
  unfold State.openRoll
  extract_lets opening spindle w t
  refine .ite (.refl s) ?_
  have ht : SameSpans s t := SameSpans.trans (t := w) ⟨rfl, rfl, rfl⟩ (sameSpans_setPlan w _)
  refine .ite ?_ ht
  split
  · exact ht.trans ⟨rfl, rfl, rfl⟩
  · exact ht

/-- The state that the two lengths are made final in: the unit is armed, and the roll and the count are opened. -/
def gTaken (s : State) (u : UnitRec) (g : Int) (estimated : Bool) : State :=
  let start := g + s.phaseF (s.body u.order)
  let t := (s.armUnit u g estimated).openRoll start
  if t.cut.k.isNone then t.moveCount start else t

theorem sameSpans_gTaken (s : State) (u : UnitRec) (g : Int) (estimated : Bool) :
    SameSpans (s.setUnit u.c (armed s u g estimated)) (gTaken s u g estimated) := by
  unfold gTaken
  extract_lets start t
  have ht : SameSpans (s.setUnit u.c (armed s u g estimated)) t := sameSpans_openRoll _ _
  exact .ite (ht.trans ⟨rfl, rfl, rfl⟩) ht

/-- After the first of the two lengths only the unit's own length changes in the cores of the records. -/
theorem coreBut_setG {s : State} {u : UnitRec} (hu : s.unit? u.c = some u) (g : Int) (estimated : Bool) :
    CoreBut u.c (finalizeBefore (gTaken s u g estimated) u.c) (s.setG u.c g estimated) := by
  unfold State.setG
  rw [hu]
  refine (coreBut_finalizeOwn _ _).trans ?_
  exact .of_kept ((((kept_overdueChecks _ _).trans (kept_settlePlan _)).trans (kept_orderHears _ _ _)).trans
    (kept_settlePlan _)) _

theorem coreBut_finalizeBefore (s : State) (c : Int) : ∃ c', CoreBut c' s (finalizeBefore s c) := by
  unfold finalizeBefore
  split
  · exact ⟨_, coreBut_finalize s _ _⟩
  · exact ⟨c, .refl _ _⟩

theorem spanStart_congr {s t : State} (ho : t.ord = s.ord) (hs : t.settings = s.settings) (u : UnitRec) :
    t.spanStart u = s.spanStart u := by
  simp only [State.spanStart, State.phaseF, State.feP, setting_congr hs, body_congr ho]

section
variable {s : State} {before after : List UnitRec} {u : UnitRec} (hunits : s.track.units = before ++ u :: after)
  (hrise : Rising s)
include hunits hrise

theorem unit?_split : s.unit? u.c = some u := unit?_of_mem hrise (by rw [hunits]; simp)

theorem before_ne : ∀ v ∈ before, v.c ≠ u.c := by
  intro v hv
  rw [Rising, hunits, List.map_append, List.map_cons, List.pairwise_append] at hrise
  exact (hrise.2.2 _ (List.mem_map_of_mem hv) _ List.mem_cons_self).ne

theorem gTaken_units (g : Int) (estimated : Bool) :
    (gTaken s u g estimated).track.units = before ++ armed s u g estimated u :: after := by
  rw [(sameSpans_gTaken s u g estimated).track, setUnit_track, hunits]
  exact map_set_split (armed s u g estimated) (by rwa [← hunits])

theorem gTaken_unit (g : Int) (estimated : Bool) :
    (gTaken s u g estimated).unit? u.c = some (armed s u g estimated u) := by
  rw [unit?_congr (congrArg Track.units (sameSpans_gTaken s u g estimated).track), 
    unit?_setUnit_same s (f := armed s u g estimated) (fun _ => rfl), unit?_split hunits hrise]
  rfl

/-- No other unit's coordinates change. -/
theorem setG_coordinates (g : Int) (estimated : Bool) : (s.setG u.c g estimated).track.units.map (fun v => (v.c, v.g))
    = (before ++ { u with g := some g } :: after).map (fun v => (v.c, v.g)) := by
  obtain ⟨c', hbefore⟩ := coreBut_finalizeBefore (gTaken s u g estimated) u.c
  rw [(coreBut_setG (unit?_split hunits hrise) g estimated).coordinates, hbefore.coordinates,
    gTaken_units hunits hrise, List.map_append, List.map_append]
  rfl

theorem setG_estimated (g : Int) (estimated : Bool) : ∃ v, (s.setG u.c g estimated).unit? u.c = some v
    ∧ v.flags.estimated = (u.flags.estimated || estimated) := by
  obtain ⟨c', hbefore⟩ := coreBut_finalizeBefore (gTaken s u g estimated) u.c
  obtain ⟨v, hv, hest⟩ := hbefore.estimated (gTaken_unit hunits hrise g estimated)
  obtain ⟨w, hw, hest'⟩ := (coreBut_setG (unit?_split hunits hrise) g estimated).estimated hv
  exact ⟨w, hw, hest'.trans hest⟩

/-- The length of the preceding unit becomes final (R8). -/
theorem setG_length {p : UnitRec} (hp : before.getLast? = some p) {gp : Int} (hgp : p.g = some gp) (g : Int) (estimated : Bool) :
    ∃ v, (s.setG u.c g estimated).unit? p.c = some v ∧ v.lFinal = true
      ∧ v.lFin = some ((g + s.phaseF (s.body u.order)) - (gp + s.phaseF (s.body p.order)))
      ∧ v.leaveAt = some (g + s.phaseF (s.body u.order) + s.yCut)
      ∧ v.lMeasured = (!p.flags.estimated && !(u.flags.estimated || estimated)
          && decide (s.phaseF (s.body p.order) = s.phaseF (s.body u.order))) := by
  have hmem : p ∈ before := List.mem_of_getLast? hp
  have hne : p.c ≠ u.c := before_ne hunits hrise p hmem
  have hspans := sameSpans_gTaken s u g estimated
  have hord : (gTaken s u g estimated).ord = s.ord := hspans.ord
  have hset : (gTaken s u g estimated).settings = s.settings := hspans.settings
  have hfind : s.unit? p.c = some p := unit?_of_mem hrise (by rw [hunits]; exact List.mem_append_left _ hmem)
  have hbefore : finalizeBefore (gTaken s u g estimated) u.c
      = (gTaken s u g estimated).finalize p (armed s u g estimated u) := by
    have hprev : (neighbours u.c (gTaken s u g estimated).track.units none).1 = some p := by
      rw [gTaken_units hunits hrise]
      rw [neighbours_split (u := armed s u g estimated u) (c := u.c) rfl (before_ne hunits hrise), hp]
      rfl
    rw [finalizeBefore, hprev, gTaken_unit hunits hrise]
  have hkept := kept_finalize (gTaken s u g estimated) (v := armed s u g estimated u) hgp
    (b := gp + s.phaseF (s.body p.order)) (e := g + s.phaseF (s.body u.order))
    (by rw [spanStart_congr hord hset, State.spanStart, hgp]; rfl)
    (by rw [spanStart_congr hord hset]; rfl)
  have hwritten := unit?_setUnit_same (gTaken s u g estimated) (c := p.c)
    (f := withFinal (gTaken s u g estimated) p (armed s u g estimated u) (gp + s.phaseF (s.body p.order))
      (g + s.phaseF (s.body u.order))) (fun _ => rfl)
  rw [unit?_congr (congrArg Track.units hspans.track), 
    unit?_setUnit_ne s (f := armed s u g estimated) (fun _ => rfl) hne, hfind] at hwritten
  have hstep := CoreBut.of_kept hkept u.c
  rw [← hbefore] at hstep
  obtain ⟨v, hv, hfin, hfinal, hmeas, hleave⟩ :=
    (hstep.trans (coreBut_setG (unit?_split hunits hrise) g estimated)).length hne hwritten
  have hphase (n : Nat) : (gTaken s u g estimated).phaseF ((gTaken s u g estimated).body n) = s.phaseF (s.body n) := by
    simp only [State.phaseF, State.feP, setting_congr hset, body_congr hord]
  have hcut : (gTaken s u g estimated).yCut = s.yCut := by
    simp only [State.yCut, State.feP, setting_congr hset]
  refine ⟨v, hv, hfinal, hfin, hleave.trans ?_, hmeas.trans ?_⟩
  · simp only [withFinal, hcut]
  · simp only [withFinal, hphase, armed]

end

/-! ## A match window that ends (R16) -/

theorem embossSettle_missCount (s : State) : s.embossSettle.emb.missCount = s.emb.missCount := by
  have hlifted : s.enterLifted.emb.missCount = s.emb.missCount := by
    rw [EmbossLoop.enterLifted_eq]
    have hkept : (EmbossLoop.liftedState s).emb.missCount = s.emb.missCount := by
      rw [EmbossLoop.liftedState_emb]
      rfl
    split
    · exact hkept
    · split <;> exact hkept
  have hlift : s.sendLift.emb.missCount = s.emb.missCount := by rw [EmbossLoop.sendLift_emb]
  unfold State.embossSettle
  split
  · rfl
  · split <;> rfl
  · split
    · exact hlifted
    · rfl
  · split <;> rfl
  · split
    · exact hlift
    · rfl
  · rfl

theorem raise_missCount (s : State) (code subject : Nat) : (s.raise code subject).emb.missCount = s.emb.missCount :=
  (embossSettle_missCount _).trans (congrArg EmbossUnit.missCount (faultOnly_raiseCore s code subject).emb)

/-- A unit without a g is charged with its miss after what its g brings about. -/
def missCounted (s : State) : State := { s with emb := { s.emb with missCount := s.emb.missCount + 1 } }

/-- The fourth miss makes EMBOSS_MARK_LOST active. -/
def missJudged (s : State) : State :=
  if 4 ≤ (missCounted s).emb.missCount ∧ ¬ (missCounted s).faultActive embossMarkLost 0 then (missCounted s).raise embossMarkLost 0
  else missCounted s

theorem expireUnit_unmatched {s : State} {u : UnitRec} (hu : s.unit? u.c = some u) (hg : u.g = none) :
    s.expireUnit u.c = missJudged (s.setG u.c (s.chainG u) true) := by
  have hunmatched : u.unmatched = true := by rw [UnitRec.unmatched, hg]; rfl
  rw [State.expireUnit, hu]
  exact if_pos hunmatched

theorem kept_missJudged (s : State) : Kept s (missJudged s) :=
  .ite ((kept_emb s _).trans (kept_raise _ _ _)) (kept_emb s _)

theorem missJudged_missCount (s : State) : (missJudged s).emb.missCount = s.emb.missCount + 1 := by
  unfold missJudged
  split
  · exact raise_missCount _ _ _
  · rfl

theorem missJudged_lost (s : State) (h : 4 ≤ (missJudged s).emb.missCount) :
    (missJudged s).faultActive embossMarkLost 0 = true := by
  rw [missJudged_missCount] at h
  unfold missJudged
  split
  next => exact raise_faultActive _ 0 rfl (by decide) (by decide)
  next hno => exact Classical.not_not.mp fun hoff => hno ⟨h, hoff⟩

/-- Every unit before the first unmatched one is matched, and every later one lies beyond it: its expiry is alone. -/
theorem expireThrough_first {s : State} {before after : List UnitRec} {u : UnitRec} (hunits : s.track.units = before ++ u :: after)
    (hrise : Rising s) (hbefore : ∀ v ∈ before, v.g.isSome = true) (hg : u.g = none) :
    s.expireThrough u.c = missJudged (s.setG u.c (s.chainG u) true) := by
  have hu : u.unmatched = true := by rw [UnitRec.unmatched, hg]; rfl
  have hfirst : before.filter (fun v => v.unmatched && decide (v.c ≤ u.c)) = [] := by
    refine List.filter_eq_nil_iff.mpr fun v hv => ?_
    simp [UnitRec.unmatched, Option.isSome_iff_ne_none.mp (hbefore v hv)]
  have hrest : after.filter (fun v => v.unmatched && decide (v.c ≤ u.c)) = [] := by
    refine List.filter_eq_nil_iff.mpr fun v hv => ?_
    rw [Rising, hunits, List.map_append, List.map_cons, List.pairwise_append, List.pairwise_cons] at hrise
    have hlt := hrise.2.1.1 _ (List.mem_map_of_mem hv)
    simp [hlt]
  have hlist : s.track.units.filter (fun v => v.unmatched && decide (v.c ≤ u.c)) = [u] := by
    rw [hunits, List.filter_append, List.filter_cons, if_pos (by simp [hu]), hfirst, hrest]
    rfl
  rw [State.expireThrough, hlist]
  exact expireUnit_unmatched (unit?_split hunits hrise) hg

/-- Settles O13: the first unmatched window expires alone, with the g of the chain. -/
theorem embossWindowExpires : Obligations.EmbossWindowExpires := by
  intro s before after u hunits hrise hbefore hg hdue estimate g
  have hchain : s.chainG u = g := by
    unfold State.chainG
    rw [hunits, neighbours_split rfl (before_ne hunits hrise), Option.or_none]
    dsimp only [g]
    cases hlast : before.getLast? with
    | none => rfl
    | some p =>
      obtain ⟨gp, hgp⟩ := Option.isSome_iff_exists.mp (hbefore p (List.mem_of_getLast? hlast))
      simp only [hgp]
      rfl
  have hevent : s.embossWindowEvent u.c = missJudged (s.setG u.c g true) := by
    have hnow : (u.unmatched && decide (u.winEnd s.emb.delta < s.posH)) = true := by
      rw [UnitRec.unmatched, hg, UnitRec.winEnd, UnitRec.winCentre, decide_eq_true hdue]
      rfl
    rw [State.embossWindowEvent, unit?_split hunits hrise]
    exact (if_pos hnow).trans (by rw [expireThrough_first hunits hrise hbefore hg, hchain])
  have hkept := kept_missJudged (s.setG u.c g true)
  refine ⟨_, congrArg Host.Outcome.next hevent, ?_, ?_, ?_, missJudged_missCount _, missJudged_lost _,
    hevent ▸ (steady_embossWindowEvent s u.c).leavesInputs⟩
  · rw [hkept.coordinates, setG_coordinates hunits hrise]
  · obtain ⟨v, hv, hest⟩ := setG_estimated hunits hrise g true
    obtain ⟨w, hw, hest'⟩ := (CoreBut.of_kept hkept u.c).estimated hv
    exact ⟨w, hw, by rw [hest', hest, Bool.or_true]⟩
  · intro p hp
    obtain ⟨gp, hgp⟩ := Option.isSome_iff_exists.mp (hbefore p (List.mem_of_getLast? hp))
    obtain ⟨v, hv, hfinal, hlen, -, hmeas⟩ := setG_length hunits hrise hp hgp g true
    obtain ⟨w, hw, hlen', hfinal', hmeas', -⟩ :=
      (CoreBut.of_kept hkept u.c).length (before_ne hunits hrise p (List.mem_of_getLast? hp)) hv
    refine ⟨w, hw, hfinal'.trans hfinal, ?_, ?_⟩
    · rw [hmeas', hmeas, Bool.or_true, Bool.not_true, Bool.and_false, Bool.false_and]
    · rw [hlen', hlen, hgp]
      rfl

/-! ## Stamps at the emboss sensor (R15, R17) -/

theorem exec_emarkEdge {s : State} (h : s.coord.wF = s.coord.hF) : exec .emarkEdge s = .next (s.takeEmark s.posW s.posWF) :=
  congrArg Host.Outcome.next (if_pos (decide_eq_true h))

theorem unmatched_iff (u : UnitRec) : u.unmatched = true ↔ u.g = none := Option.isNone_iff_eq_none

/-- With no window overdue a stamp goes to the first unmatched unit whose window holds it, or is spurious. -/
theorem takeEmark_eq {s : State} (sW sF : Int) (h : ∀ v ∈ s.track.units, v.g = none → sW ≤ v.winEnd s.emb.delta) :
    s.takeEmark sW sF = match s.track.units.find? (fun u =>
        u.unmatched && decide (magnitude (sW - u.winCentre s.emb.delta) ≤ u.winHalf)) with
      | some u => s.matchUnit u sW sF
      | none => s.chargeSpurious sW := by
  have hoverdue : s.track.units.filter (fun u => u.unmatched && decide (u.winEnd s.emb.delta < sW)) = [] := by
    refine List.filter_eq_nil_iff.mpr fun v hv hdue => ?_
    rw [Bool.and_eq_true, unmatched_iff, decide_eq_true_iff] at hdue
    exact absurd hdue.2 (not_lt.mpr (h v hv hdue.1))
  unfold State.takeEmark
  rw [hoverdue]
  rfl

/-- Settles O14: the stamp matches the first unmatched unit, and its g makes the length before it final. -/
theorem emarkMatched : Obligations.EmarkMatched := by
  intro s before after u hw hunits hrise hbefore hg hin hafter preceding raised g matched
  have hnear : magnitude (s.posW - u.winCentre s.emb.delta) ≤ u.winHalf := by
    rw [Reference.magnitude_eq_natAbs]
    exact hin
  have hself : s.posW ≤ u.winEnd s.emb.delta := by
    simp only [UnitRec.winEnd, UnitRec.winCentre]
    omega
  have hfind : s.track.units.find? (fun u =>
      u.unmatched && decide (magnitude (s.posW - u.winCentre s.emb.delta) ≤ u.winHalf)) = some u := by
    rw [hunits, List.find?_append, List.find?_cons_of_pos (by simp [(unmatched_iff u).mpr hg, hnear]),
      List.find?_eq_none.mpr fun v hv => by simp [UnitRec.unmatched, Option.isSome_iff_ne_none.mp (hbefore v hv)]]
    rfl
  have hnone : ∀ v ∈ s.track.units, v.g = none → s.posW ≤ v.winEnd s.emb.delta := by
    intro v hv hvg
    rw [hunits, List.mem_append, List.mem_cons] at hv
    rcases hv with hv | rfl | hv
    · exact absurd hvg (Option.isSome_iff_ne_none.mp (hbefore v hv))
    · exact hself
    · exact hafter v hv hvg
  have hpreceding : ((neighbours u.c s.track.units none).1).bind UnitRec.g = preceding := by
    rw [hunits, neighbours_split rfl (before_ne hunits hrise), Option.or_none]
  have hmatch : s.matchUnit u s.posW s.posWF = (if raised then matched else matched.pendPhase u.c).setG u.c g raised := by
    unfold State.matchUnit
    rw [hpreceding]
    refine congrArg (fun y => (if raised then matched else matched.pendPhase u.c).setG u.c y raised) ?_
    dsimp only [g]
    clear_value preceding
    cases preceding with
    | none => rfl
    | some p =>
      dsimp only
      split <;> omega
  have hevent : s.takeEmark s.posW s.posWF = (if raised then matched else matched.pendPhase u.c).setG u.c g raised := by
    rw [takeEmark_eq _ _ hnone, hfind, ← hmatch]
  have hspans : SameSpans s (if raised then matched else matched.pendPhase u.c) := by
    have hclear : SameSpans s matched := SameSpans.of_faultReach ((reach_emb s _).trans (reach_clear _ _ _))
    refine .ite hclear (hclear.trans ?_)
    unfold State.pendPhase
    exact .ite (.refl _) ⟨rfl, rfl, rfl⟩
  generalize hx : (if raised then matched else matched.pendPhase u.c) = x at hevent hspans
  have htrack : x.track = s.track := hspans.track
  have hunits' : x.track.units = before ++ u :: after := by rw [htrack, hunits]
  have hrise' : Rising x := by rwa [Rising, htrack]
  have hset : x.settings = s.settings := hspans.settings
  have hphase (n : Nat) : x.phaseF (x.body n) = s.phaseF (s.body n) := by
    simp only [State.phaseF, State.feP, setting_congr hset, body_congr (show x.ord = s.ord from hspans.ord)]
  have hcut : x.yCut = s.yCut := by simp only [State.yCut, State.feP, setting_congr hset]
  refine ⟨_, (exec_emarkEdge hw).trans (congrArg Host.Outcome.next hevent), rfl, setG_coordinates hunits' hrise' g raised,
    setG_estimated hunits' hrise' g raised, ?_, hevent ▸ (steady_takeEmark s _ _).leavesInputs⟩
  intro p hp
  obtain ⟨gp, hgp⟩ := Option.isSome_iff_exists.mp (hbefore p (List.mem_of_getLast? hp))
  obtain ⟨v, hv, hfinal, hlen, hleave, hmeas⟩ := setG_length hunits' hrise' hp hgp g raised
  rw [hphase, hphase] at hlen hmeas
  rw [hphase, hcut] at hleave
  refine ⟨v, hv, hfinal, by rw [hlen, hgp]; rfl, hleave, ?_⟩
  rw [hmeas]
  simp only [Bool.and_eq_true, Bool.not_eq_true', Bool.or_eq_false_iff, decide_eq_true_iff, and_assoc]

/-- Settles O15: with no window open or overdue the stamp is charged to the first record whose window it is not beyond. -/
theorem emarkSpurious : Obligations.EmarkSpurious := by
  intro s hw hnone
  have hfind : s.track.units.find? (fun u =>
      u.unmatched && decide (magnitude (s.posW - u.winCentre s.emb.delta) ≤ u.winHalf)) = none := by
    refine List.find?_eq_none.mpr fun v hv hin => ?_
    rw [Bool.and_eq_true, unmatched_iff, decide_eq_true_iff, Reference.magnitude_eq_natAbs] at hin
    exact absurd (hnone v hv hin.1).2 (not_lt.mpr hin.2)
  have hevent : s.takeEmark s.posW s.posWF = s.chargeSpurious s.posW := by
    rw [takeEmark_eq _ _ fun v hv hg => (hnone v hv hg).1, hfind]
  constructor
  · intro hall
    have hnobody : s.track.units.find? (fun u => decide (s.posW ≤ u.winEnd s.emb.delta)) = none := by
      refine List.find?_eq_none.mpr fun v hv hin => ?_
      exact absurd (of_decide_eq_true hin) (not_le.mpr (hall v hv))
    rw [exec_emarkEdge hw, hevent, State.chargeSpurious, hnobody]
  · intro before after u hunits hrise hbefore hu
    have hcharged : s.track.units.find? (fun u => decide (s.posW ≤ u.winEnd s.emb.delta)) = some u := by
      have hearlier : before.find? (fun u => decide (s.posW ≤ u.winEnd s.emb.delta)) = none :=
        List.find?_eq_none.mpr fun v hv hin => absurd (of_decide_eq_true hin) (not_le.mpr (hbefore v hv))
      rw [hunits, List.find?_append, hearlier,
        List.find?_cons_of_pos (p := fun v : UnitRec => decide (s.posW ≤ v.winEnd s.emb.delta)) (decide_eq_true hu)]
      rfl
    have hset := map_set_split (fun v => { v with spurious := saturate 255 (u.spurious + 1) }) (hunits ▸ hrise)
    rw [← hunits] at hset
    have hsat : saturate 255 (u.spurious + 1) = min 255 (u.spurious + 1) := rfl
    have hcharge : s.takeEmark s.posW s.posWF = if u.spurious = 3 then
        State.raise { s with track := { s.track with
          units := before ++ { u with spurious := min 255 (u.spurious + 1) } :: after } } spuriousMarks 0
        else { s with track := { s.track with units := before ++ { u with spurious := min 255 (u.spurious + 1) } :: after } } := by
      rw [hevent, State.chargeSpurious, hcharged, ← hsat, ← hset]
      rfl
    refine ⟨_, (exec_emarkEdge hw).trans (congrArg Host.Outcome.next hcharge), ?_⟩
    by_cases h3 : u.spurious = 3
    · rw [if_pos h3]
      have hreach := reach_raise { s with track := { s.track with
        units := before ++ { u with spurious := min 255 (u.spurious + 1) } :: after } } spuriousMarks 0
      refine ⟨hreach.track, fun h => absurd h3 h, fun _ => ?_, ?_⟩
      · rw [hreach.track]
      · rwa [hreach.track]
    · rw [if_neg h3]
      exact ⟨rfl, fun _ => rfl, fun h => absurd h h3, .refl _⟩

/-! ## A unit that leaves the track (R10, R97) -/

theorem modifyAt_split {α : Type} (f : α → α) (before : List α) (a : α) (after : List α) :
    modifyAt f before.length (before ++ a :: after) = before ++ f a :: after := by
  induction before with
  | nil => rfl
  | cons b before ih => exact congrArg (b :: ·) ih

theorem findIdx?_split {α : Type} {p : α → Bool} {before : List α} {a : α} (after : List α) (h : ∀ b ∈ before, p b = false)
    (ha : p a = true) : (before ++ a :: after).findIdx? p = some before.length := by
  rw [List.findIdx?_append, List.findIdx?_eq_none_iff.mpr h, List.findIdx?_cons, if_pos ha]
  simp

/-- A closing roll whose range holds a span start. -/
def holdsStart (b : Int) (c : ClosingRoll) : Bool := decide (c.roll.start ≤ b) && decide (b < c.stop)

theorem holdsStart_iff (b : Int) (c : ClosingRoll) : holdsStart b c = true ↔ c.roll.start ≤ b ∧ b < c.stop := by
  rw [holdsStart, Bool.and_eq_true, decide_eq_true_iff, decide_eq_true_iff]

/-- The unit joins the roll in progress. -/
def withUnit (s : State) (u : UnitRec) : State :=
  s.setWinder (fun w => { w with roll := w.roll.map (fun r => { r with units := r.units ++ [u] }) })

theorem kept_joinUnit_progress {s : State} {u : UnitRec}
    (h : ∀ c ∈ s.winder.closing, holdsStart ((s.spanStart u).getD 0) c = false) : Kept (withUnit s u) (s.joinUnit u) := by
  have hnone : s.winder.closing.findIdx? (holdsStart ((s.spanStart u).getD 0)) = none := List.findIdx?_eq_none_iff.mpr h
  have hjoin : s.joinUnit u = (withUnit s u).overlengthTest := by
    unfold State.joinUnit
    extract_lets b
    change (match s.winder.closing.findIdx? (holdsStart ((s.spanStart u).getD 0)) with | some _ => _ | none => _) = _
    rw [hnone]
    rfl
  rw [hjoin]
  exact kept_overlengthTest _

theorem joinUnit_closing {s : State} {u : UnitRec} {before after : List ClosingRoll} {c : ClosingRoll}
    (hclosing : s.winder.closing = before ++ c :: after)
    (hbefore : ∀ d ∈ before, holdsStart ((s.spanStart u).getD 0) d = false) (hc : holdsStart ((s.spanStart u).getD 0) c = true) :
    s.joinUnit u = s.setWinder (fun w => { w with
      closing := before ++ { c with roll := { c.roll with units := c.roll.units ++ [u] } } :: after }) := by
  have hidx : s.winder.closing.findIdx? (holdsStart ((s.spanStart u).getD 0)) = some before.length := by
    rw [hclosing]
    exact findIdx?_split after hbefore hc
  unfold State.joinUnit
  extract_lets b
  change (match s.winder.closing.findIdx? (holdsStart ((s.spanStart u).getD 0)) with | some _ => _ | none => _) = _
  rw [hidx]
  exact congrArg (fun l => s.setWinder (fun w => { w with closing := l }))
    ((congrArg (modifyAt _ before.length) hclosing).trans (modifyAt_split _ before c after))

theorem joinUnit_coordinates (s : State) (u : UnitRec) :
    (s.joinUnit u).track.units.map (fun v => (v.c, v.g)) = s.track.units.map (fun v => (v.c, v.g)) := by
  unfold State.joinUnit
  extract_lets b
  split
  · rfl
  · exact (kept_overlengthTest _).coordinates

/-- The track without its oldest record. -/
def unitGone (s : State) (u : UnitRec) (rest : List UnitRec) : State :=
  { s with track := { s.track with units := rest },
           emb := { s.emb with phasePending := s.emb.phasePending.filter (fun c => decide (c ≠ u.c)) } }

/-- After a unit has joined its roll the track may have room again and the planner comes to rest. -/
theorem kept_leave {s : State} {u : UnitRec} {rest : List UnitRec} (hunits : s.track.units = u :: rest) (hrise : Rising s) :
    Kept ((unitGone s u rest).joinUnit u) (s.unitLeaves u).settlePlan := by
  have hrest : s.track.units.filter (fun v : UnitRec => decide (v.c ≠ u.c)) = rest := by
    rw [Rising, hunits, List.map_cons, List.pairwise_cons] at hrise
    rw [hunits, List.filter_cons_of_neg (by simp), List.filter_eq_self]
    exact fun v hv => decide_eq_true (hrise.1 _ (List.mem_map_of_mem hv)).ne'
  unfold State.unitLeaves
  rw [hrest]
  exact (Kept.ite (kept_clear _ _ _) (.refl _)).trans (kept_settlePlan _)

theorem kept_closing {s t : State} (h : Kept s t) : t.winder.closing = s.winder.closing :=
  congrArg (fun x => x.2.1) h.winder

theorem kept_roll {s t : State} (h : Kept s t) : t.winder.roll.map (fun r => (r.start, r.spindle, r.units))
    = s.winder.roll.map (fun r => (r.start, r.spindle, r.units)) := by
  have := congrArg (fun x => x.1.map (fun r : Roll => (r.start, r.spindle, r.units))) h.winder
  simpa only [Winder.core, Option.map_map, Function.comp_def] using this

/-- Settles O19: the oldest record leaves for the first closing roll that holds its span start, or for the roll in progress. -/
theorem unitLeavesForItsRoll : Obligations.UnitLeavesForItsRoll := by
  intro s u rest x hunits hrise hleave hx start
  have hevent : s.leaveEvent = (s.unitLeaves u).settlePlan := by
    have hdue : s.leavingUnit = some u := by
      simp only [State.leavingUnit, hunits, hleave, Option.any_some, decide_eq_true hx, if_true]
    rw [State.leaveEvent, hdue]
  have hkept := kept_leave hunits hrise
  refine ⟨_, congrArg Host.Outcome.next hevent, ?_, fun hno => ?_, fun before after c hc hbefore hlow hhigh => ?_,
    hevent ▸ (steady_leaveEvent s).leavesInputs⟩
  · rw [hkept.coordinates, joinUnit_coordinates]
    rfl
  · have hjoin := (kept_joinUnit_progress (s := unitGone s u rest) (u := u) fun c hc =>
      Bool.eq_false_iff.mpr fun h => hno c hc ((holdsStart_iff _ c).mp h)).trans hkept
    refine ⟨(kept_closing hjoin :), (kept_roll hjoin).trans ?_⟩
    cases hroll : s.winder.roll <;> simp [withUnit, unitGone, hroll]
  · have hjoin := joinUnit_closing (s := unitGone s u rest) (u := u) hc
      (fun d hd => Bool.eq_false_iff.mpr fun h => hbefore d hd ((holdsStart_iff _ d).mp h))
      ((holdsStart_iff _ c).mpr ⟨hlow, hhigh⟩)
    rw [hjoin] at hkept
    exact ⟨(kept_closing hkept :), (kept_roll hkept :)⟩

/-! ## The splice list (R11, R12, R13) -/

theorem exec_spliceEdge {s t : State} (h : s.coord.w = s.coord.h) (ht : s.takeSplice = t) : exec .spliceEdge s = .next t :=
  congrArg Host.Outcome.next ((if_pos (decide_eq_true h)).trans ht)

/-- A new splice is one too far from the last entry of the list to be the same. -/
theorem takeSplice_new {s : State}
    (h : ¬ ∃ e, s.track.splices.getLast? = some e ∧ s.posH + s.dSplice - e.p ≤ s.spliceRepeat) : s.takeSplice =
    if 8 ≤ s.track.splices.length then s.raise spliceListFull 0
    else State.openZone { s with track := { s.track with splices := s.track.splices ++
      [{ p := s.posH + s.dSplice, f := none, owner := .unsettled, leaveAt := none, dropAfter := none }] } }
      (s.posH + s.dSplice) := by
  unfold State.takeSplice
  cases hlast : s.track.splices.getLast? with
  | none => rfl
  | some e =>
    have hfar : ¬ s.posH + s.dSplice - e.p ≤ s.spliceRepeat := fun hle => h ⟨e, hlast, hle⟩
    simp only [decide_eq_false hfar, Bool.false_eq_true, if_false]

theorem takeSplice_same {s : State} {e : SpliceRec} (hlast : s.track.splices.getLast? = some e)
    (h : s.posH + s.dSplice - e.p ≤ s.spliceRepeat) : s.takeSplice = s := by
  unfold State.takeSplice
  rw [hlast]
  simp only [decide_eq_true h, if_true]

theorem spliceDue_iff (s : State) (e : SpliceRec) : s.spliceDue e = true ↔
    (∃ x, e.leaveAt = some x ∧ x ≤ s.posHF) ∨ ∃ x, e.dropAfter = some x ∧ x < s.posH := by
  simp only [State.spliceDue, Bool.or_eq_true, Option.any_eq_true, decide_eq_true_iff]

/-- Settles O20: a new splice is held with its zone while there is room, and entries leave when they are due. -/
theorem spliceListFollowed : Obligations.SpliceListFollowed := by
  intro s
  refine ⟨fun hw => ?_, fun e hfind => ⟨fun hdue => ?_, fun hleave hdrop => ?_⟩⟩
  · intro p same
    refine ⟨fun ⟨e, hlast, hle⟩ => exec_spliceEdge hw (takeSplice_same hlast hle), fun hnew hfull => ?_, fun hnew hroom => ?_⟩
    · exact ⟨_, exec_spliceEdge hw ((takeSplice_new hnew).trans (if_pos hfull)),
        raise_faultActive s 0 rfl (by decide) (by decide), reach_raise s _ _⟩
    · refine ⟨_, exec_spliceEdge hw ((takeSplice_new hnew).trans (if_neg (not_le.mpr hroom))), rfl, fun hbegun st hst hrun => ?_⟩
      exact loop_of_zone_begun { s with track := _ } (List.mem_append_right _ List.mem_cons_self) (decide_eq_true hbegun) hst hrun
  · have hevent : s.spliceLeaveEvent e.p = s.dropSplice e.p := by
      rw [State.spliceLeaveEvent, hfind]
      exact if_pos ((spliceDue_iff s e).mpr hdue)
    have hreach := reach_clear { s with track := { s.track with
      splices := s.track.splices.filter (fun q : SpliceRec => decide (q.p ≠ e.p)) } } spliceListFull 0
    have htrack : (s.dropSplice e.p).track = _ := hreach.track
    exact ⟨_, congrArg Host.Outcome.next hevent, htrack, clear_faultActive _ _ _, by rw [htrack]; exact hreach⟩
  · have hevent : s.spliceLeaveEvent e.p = s := by
      rw [State.spliceLeaveEvent, hfind]
      refine if_neg fun hdue => ?_
      rcases (spliceDue_iff s e).mp hdue with ⟨x, hx, hle⟩ | ⟨x, hx, hlt⟩
      · exact absurd hle (not_le.mpr (hleave x hx))
      · exact absurd hlt (not_lt.mpr (hdrop x hx))
    exact congrArg Host.Outcome.next hevent

end Sys2Proof.Proofs.WebDownstream
end

section
/-! PROOFS. The label line (6.2, 6.2.1): frames that are taken and discarded, and labels that fail. -/

namespace Sys2Proof.Proofs.LabelLine
open Sys2Proof.Machine Sys2Proof.Proofs.FaultFacts Sys2Proof.Proofs.Lookups

/-- A receive error is counted. -/
def rxCounted (s : State) : State := { s with rolls := { s.rolls with rxErrors := min 65535 (s.rolls.rxErrors + 1) } }

theorem labelRejected_eq (s : State) : s.labelRejected = rxCounted s := rfl

/-! ## ACK and NAK -/

theorem labelAcked_other {s : State} {n : Nat} (h : ∀ j, s.rolls.job = some j → j.number ≠ n) : s.labelAcked n = s := by
  unfold State.labelAcked
  split
  next j hj => exact if_neg (h j hj)
  next => rfl

theorem labelNaked_other {s : State} {n : Nat} (h : ∀ j, s.rolls.job = some j → j.number ≠ n) : s.labelNaked n = s := by
  unfold State.labelNaked
  split
  next j hj => exact if_neg (h j hj)
  next => rfl

theorem labelAck_length {s : State} {body : List Byte} (h : body.length ≠ 1) : s.labelAck body = rxCounted s := by
  match body, h with
  | [], _ => rfl
  | _ :: _ :: _, _ => rfl

theorem labelNak_length {s : State} {body : List Byte} (h : body.length ≠ 2) : s.labelNak body = rxCounted s := by
  match body, h with
  | [], _ => rfl
  | [_], _ => rfl
  | _ :: _ :: _ :: _, _ => rfl

/-- Settles O34: the outstanding job's ACK ends it, and the sent job's timer runs. -/
theorem labelAckEndsJob : Obligations.LabelAckEndsJob := by
  intro s
  refine ⟨fun n j hj hn => ?_, fun n h => congrArg Host.Outcome.next (labelAcked_other h),
    fun body h => congrArg Host.Outcome.next (labelAck_length h), fun j hj => ?_, fun hj => ?_⟩
  · have hack : s.labelAck [n] = s.labelAcked n.toNat := rfl
    have htaken : s.labelAcked n.toNat
        = (s.setRecord j.seq (fun r => { r with label := if r.removed then .applied else .printed })).endJob := by
      simp only [State.labelAcked, hj, hn, if_true]
    exact congrArg Host.Outcome.next (hack.trans htaken)
  · have hsent : s.rolls.job.map (fun j : LabelJob => { j with replyTimer := true }) = some { j with replyTimer := true } := by
      rw [hj]
      rfl
    exact congrArg (fun j => Host.Outcome.next { s with rolls := { s.rolls with job := j } }) hsent
  · have hsent : s.rolls.job.map (fun j : LabelJob => { j with replyTimer := true }) = s.rolls.job := by rw [hj]; rfl
    exact congrArg (fun j => Host.Outcome.next { s with rolls := { s.rolls with job := j } }) hsent

theorem labelReplyExpired_idle {s : State} (h : ∀ j, s.rolls.job = some j → j.replyTimer = false) : s.labelReplyExpired = s := by
  unfold State.labelReplyExpired
  split
  next j hj => exact if_neg (by rw [h j hj]; exact Bool.false_ne_true)
  next => rfl

/-- Settles O36: what is not taken counts at most one receive error. -/
theorem labelFramesDiscarded : Obligations.LabelFramesDiscarded := by
  intro s counted
  refine ⟨fun cause => ?_, rfl, fun body h => congrArg Host.Outcome.next (labelNak_length h),
    fun n reason h => congrArg Host.Outcome.next (labelNaked_other h),
    fun h => congrArg Host.Outcome.next (labelReplyExpired_idle h), fun h => ?_⟩
  · cases cause <;> rfl
  · exact congrArg Host.Outcome.next (if_neg (by rw [h]; exact Bool.false_ne_true))

/-! ## STATUS -/

theorem statusReport_bit {b : Byte} (h : b = 0 ∨ b = 1) : statusReport [b] = some (decide (b = 1)) := by
  rcases h with rfl | rfl <;> rfl

theorem statusReport_none {body : List Byte} (h0 : body ≠ [0]) (h1 : body ≠ [1]) : statusReport body = none := by
  match body, h0, h1 with
  | [], _, _ => rfl
  | [b], h0, h1 =>
    have hb0 : b ≠ 0 := fun h => h0 (by rw [h])
    have hb1 : b ≠ 1 := fun h => h1 (by rw [h])
    simp only [statusReport, hb0, hb1, if_false]
  | _ :: _ :: _, _, _ => rfl

/-- The report of the printer is taken and the label test is made. -/
def reported (s : State) (ready : Bool) : State := { s with rolls := { s.rolls with printer := some ready } }

theorem exec_labelStatus {s t : State} {b : Byte} (hb : b = 0 ∨ b = 1) (ht : (reported s (decide (b = 1))).labelNext = t) :
    exec (.labelStatus [b]) s = .next t := by
  have htaken : s.labelStatus [b] = (reported s (decide (b = 1))).labelNext := by
    rw [State.labelStatus, statusReport_bit hb]
    rfl
  exact congrArg Host.Outcome.next (htaken.trans ht)

/-- With a job outstanding the wait timer does not run. -/
theorem labelNext_outstanding {s : State} (h : s.rolls.job.isSome = true) :
    s.labelNext = { s with rolls := { s.rolls with waitTimer := false } } := by
  obtain ⟨j, hj⟩ := Option.isSome_iff_exists.mp h
  rw [State.labelNext, State.labelTest, hj]
  rfl

/-- Without a job, and with a printer not ready, the wait timer runs while a record waits for its label. -/
theorem labelNext_notReady {s : State} (hj : s.rolls.job = none) (hp : s.rolls.printer ≠ some true) : s.labelNext =
    { s with rolls := { s.rolls with waitTimer := s.rolls.queue.any (fun r => decide (r.label = .waiting)) } } := by
  rw [State.labelNext, State.labelTest, hj]
  cases hhead : s.headPending with
  | none =>
    have hany : s.rolls.queue.any (fun r => decide (r.label = .waiting)) = false :=
      List.any_eq_false.mpr fun r hr => List.find?_eq_none.mp hhead r hr
    rw [hany]
    rfl
  | some r =>
    have hany : s.rolls.queue.any (fun r => decide (r.label = .waiting)) = true :=
      List.any_eq_true.mpr ⟨r, List.mem_of_find?_eq_some hhead,
        List.find?_some (p := fun r : RollRec => decide (r.label = .waiting)) hhead⟩
    rw [hany]
    exact if_neg hp

/-- Without a job, and with a printer ready, the head record's job starts when its template renders. -/
theorem labelNext_ready {s : State} {r : RollRec} {lines : List (List Byte)} (hj : s.rolls.job = none)
    (hp : s.rolls.printer = some true) (hhead : s.headPending = some r) (hrender : s.render r = some lines) :
    s.labelNext = s.startJob r lines := by
  rw [State.labelNext, State.labelTest, hj]
  simp only [hhead, hp, if_true, hrender]

/-- Settles O33: the report is taken, and the label test follows. -/
theorem labelStatusTaken : Obligations.LabelStatusTaken := by
  intro s
  refine ⟨fun body h0 h1 => ?_, fun b hb hjob => ?_, fun hjob => ?_, fun r lines hjob hhead hrender => ?_⟩
  · have hrejected : s.labelStatus body = rxCounted s := by
      rw [State.labelStatus, statusReport_none h0 h1]
      rfl
    exact congrArg Host.Outcome.next hrejected
  · exact exec_labelStatus hb (labelNext_outstanding hjob)
  · exact exec_labelStatus (.inl rfl) (labelNext_notReady hjob (by simp [reported]))
  · exact exec_labelStatus (.inr rfl) (labelNext_ready hjob rfl hhead hrender)

/-! ## A label that fails (R114, R117) -/

/-- The queue with a label FAILED. -/
def failedQueue (s : State) (seq : Nat) : List RollRec :=
  s.rolls.queue.map (fun r => if r.seq = seq then { r with label := .failed, flags := r.flags ||| 0x1000#16 } else r)

/-- The roll-record block with a label FAILED and the wait timer as given. -/
def failedRolls (s : State) (seq : Nat) (timer : Bool) : RollUnit :=
  { s.rolls with waitTimer := timer, queue := failedQueue s seq }

/-- The failing of a label raises LABEL_FAILED on the state that holds it, and the job is over. -/
def labelFailedState (s : State) (seq : Nat) (timer : Bool) : State :=
  State.setRolls (State.raise { s with rolls := failedRolls s seq timer } labelFailed 0) (fun u => { u with job := none })

theorem raise_rolls (s : State) (code subject : Nat) : (s.raise code subject).rolls = s.rolls := (reach_raise s code subject).rolls

theorem labelFailedState_rolls (s : State) (seq : Nat) (timer : Bool) :
    (labelFailedState s seq timer).rolls = { s.rolls with job := none, waitTimer := timer, queue := failedQueue s seq } := by
  rw [labelFailedState, setRolls_rolls, raise_rolls]
  rfl

/-- What a raise reaches does not depend on the roll-record block. -/
theorem faultReach_rolls {s t : State} {x : RollUnit} (h : State.faultReach { s with rolls := x } t) (y : RollUnit) :
    State.faultReach { s with rolls := y } { t with rolls := y } where
  pending := h.pending
  inputs := ⟨h.inputs.coord, h.inputs.settings, rfl, h.inputs.port, h.inputs.notice, h.inputs.host⟩
  track := h.track
  register := h.register
  draw := h.draw
  shade := h.shade
  cut := h.cut
  winder := h.winder
  rolls := rfl
  orders := h.orders
  freeIdx := h.freeIdx
  link := h.link
  nodes := h.nodes
  bytes := h.bytes

theorem setRolls_jobless {s : State} (h : s.rolls.job = none) : s.setRolls (fun u => { u with job := none }) = s := by
  have hrolls : { s.rolls with job := none } = s.rolls := by rw [← h]
  rw [State.setRolls, hrolls]

theorem failLabel_endJob (s : State) (seq : Nat) :
    (s.failLabel seq).endJob = (labelFailedState s seq s.rolls.waitTimer).labelNext := rfl

/-- Settles O35: each of the three fails its record in the same way. -/
theorem labelFails : Obligations.LabelFails := by
  intro s c seq hcause timer queue
  have hreach (tm : Bool) : State.faultReach { s with rolls := (labelFailedState s seq tm).rolls } (labelFailedState s seq tm) :=
    faultReach_rolls (reach_raise { s with rolls := failedRolls s seq tm } labelFailed 0) _
  suffices h : exec c s = .next (labelFailedState s seq timer).labelNext from
    ⟨labelFailedState s seq timer, h, labelFailedState_rolls s seq timer, rfl, hreach timer⟩
  rcases hcause with ⟨j, reason, hj, rfl, hnumber, rfl⟩ | ⟨j, hj, htimer, rfl, rfl⟩ | ⟨r, hr, hj, hwait, rfl, rfl⟩
  · have hn : j.number = (BitVec.ofNat 8 j.number).toNat := by
      rw [BitVec.toNat_ofNat, Nat.mod_eq_of_lt hnumber]
    have htaken : s.labelNak [BitVec.ofNat 8 j.number, reason] = (s.failLabel j.seq).endJob := by
      simp only [State.labelNak, State.labelNaked, hj, ← hn, if_true]
    exact congrArg Host.Outcome.next htaken
  · have htaken : s.labelReplyExpired = (s.failLabel j.seq).endJob := by
      simp only [State.labelReplyExpired, hj, htimer, if_true]
    exact congrArg Host.Outcome.next htaken
  · have htaken : s.labelWaitExpired
        = ((s.setRolls (fun u => { u with waitTimer := false })).failLabel r.seq).labelNext := by
      rw [State.labelWaitExpired, hwait, State.headPending, hr]
      rfl
    have hidle : (s.setRolls (fun u => { u with waitTimer := false })).failLabel r.seq = labelFailedState s r.seq false := by
      have hjob : (State.raise { s with rolls := failedRolls s r.seq false } labelFailed 0).rolls.job = none := by
        rw [raise_rolls]
        exact hj
      exact (setRolls_jobless hjob).symm
    exact congrArg Host.Outcome.next (htaken.trans (congrArg State.labelNext hidle))

end Sys2Proof.Proofs.LabelLine
end

section
/-! PROOFS. Exchange memory (10.1): bytes and fields read after a store by the part, and which bytes of the slots the part owns. -/

namespace Sys2Proof.Proofs.MemoryFacts
open Sys2Proof.Machine Sys2Proof.Proofs.FaultFacts

/-! ## Fields -/

theorem readBytes_eq_map (s : State) (a len : Nat) : s.readBytes a len = (List.range len).map (fun i => s.readByte (a + i)) := by
  unfold State.readBytes
  induction len generalizing a with
  | zero => rfl
  | succ len ih =>
    rw [memBytes, ih, List.range_succ_eq_map, List.map_cons, List.map_map]
    congr 1
    refine List.map_congr_left fun i _ => ?_
    simp only [Function.comp, Nat.succ_eq_add_one]
    congr 1
    omega

@[simp] theorem readBytes_length (s : State) (a len : Nat) : (s.readBytes a len).length = len := by simp [readBytes_eq_map]

theorem readBytes_congr {s t : State} {a len : Nat} (h : ∀ x, a ≤ x → x < a + len → t.readByte x = s.readByte x) :
    t.readBytes a len = s.readBytes a len := by
  rw [readBytes_eq_map, readBytes_eq_map]
  refine List.map_congr_left fun i hi => h _ (Nat.le_add_right a i) ?_
  have := List.mem_range.mp hi
  omega

theorem readNat_congr {s t : State} {a len : Nat} (h : ∀ x, a ≤ x → x < a + len → t.readByte x = s.readByte x) :
    t.readNat a len = s.readNat a len := congrArg natOfBytes (readBytes_congr h)

theorem readNat_one (s : State) (a : Nat) : s.readNat a 1 = (s.readByte a).toNat := by
  simp [State.readNat, readBytes_eq_map, natOfBytes]

theorem natOfBytes_natBytes (len v : Nat) : natOfBytes (natBytes len v) = v % 256 ^ len := by
  induction len generalizing v with
  | zero => simp [natBytes, natOfBytes, Nat.mod_one]
  | succ len ih =>
    rw [natBytes, natOfBytes, ih, BitVec.toNat_ofNat]
    exact ((congrArg (v % ·) (pow_succ' 256 len)).trans Nat.mod_mul).symm

theorem byte_toNat {v : Nat} (h : v < 256) : (byte v).toNat = v := by
  rw [byte, BitVec.toNat_ofNat, Nat.mod_eq_of_lt h]

theorem nextCyclic_le {m v : Nat} (h : 1 ≤ m) : nextCyclic m v ≤ m := by
  unfold nextCyclic
  split <;> omega

theorem nextTag_le (prev ack : Nat) : nextTag prev ack ≤ 255 := by
  unfold nextTag
  extract_lets t
  split <;> exact nextCyclic_le (by decide)

/-! ## Stores by the part -/

/-- A store changes exchange memory alone. -/
theorem partStore_eq (s : State) (a : Nat) (bs : List Byte) : s.partStore a bs = { s with mem := (s.partStore a bs).mem } := by
  unfold State.partStore
  split <;> rfl

theorem readByte_partStore (s : State) {a : Nat} {bs : List Byte} (hp : partRange a bs.length = true)
    (hf : a + bs.length ≤ memSize) (x : Nat) :
    (s.partStore a bs).readByte x = if a ≤ x ∧ x < a + bs.length then bs.getD (x - a) 0 else s.readByte x := by
  split
  next h => exact partStore_inside s a bs hp hf h.1 h.2
  next h => exact partStore_outside s a bs (by omega)

theorem readByte_partStore_byte (s : State) {a : Nat} (b : Byte) (hp : partRange a 1 = true) (hf : a < memSize) (x : Nat) :
    (s.partStore a [b]).readByte x = if x = a then b else s.readByte x := by
  rw [readByte_partStore s (bs := [b]) hp hf]
  by_cases hx : x = a
  · subst hx
    simp
  · rw [if_neg hx, if_neg (by simp; omega)]

theorem readBytes_partStore_same (s : State) {a : Nat} {bs : List Byte} (hp : partRange a bs.length = true)
    (hf : a + bs.length ≤ memSize) : (s.partStore a bs).readBytes a bs.length = bs := by
  rw [readBytes_eq_map]
  refine List.ext_getElem (by simp) fun i _ hi => ?_
  rw [List.getElem_map, List.getElem_range, partStore_inside s a bs hp hf (by omega) (by omega), Nat.add_sub_cancel_left,
    List.getD_eq_getElem _ _ hi]

/-- A stretch of a store reads back. -/
theorem readBytes_partStore_mid (s : State) {a : Nat} {pre mid post : List Byte}
    (hp : partRange a (pre ++ mid ++ post).length = true) (hf : a + (pre ++ mid ++ post).length ≤ memSize) :
    (s.partStore a (pre ++ mid ++ post)).readBytes (a + pre.length) mid.length = mid := by
  rw [readBytes_eq_map]
  refine List.ext_getElem (by simp) fun i _ hi => ?_
  have hlen : (pre ++ mid ++ post).length = pre.length + mid.length + post.length := by simp [Nat.add_assoc]
  rw [List.getElem_map, List.getElem_range, partStore_inside s a _ hp hf (by omega) (by omega), Nat.add_assoc,
    Nat.add_sub_cancel_left, List.append_assoc, List.getD_append_right _ _ _ _ (Nat.le_add_right _ _), Nat.add_sub_cancel_left,
    List.getD_append _ _ _ _ hi, List.getD_eq_getElem _ _ hi]

theorem readBytes_partStore_outside (s : State) (a : Nat) (bs : List Byte) {b len : Nat}
    (h : b + len ≤ a ∨ a + bs.length ≤ b) : (s.partStore a bs).readBytes b len = s.readBytes b len :=
  readBytes_congr fun x hx hx' => partStore_outside s a bs (by omega)

theorem readNat_partStore_natBytes (s : State) {a len v : Nat} (hp : partRange a len = true) (hf : a + len ≤ memSize) :
    (s.partStore a (natBytes len v)).readNat a len = v % 256 ^ len := by
  have hlen := natBytes_length len v
  have := readBytes_partStore_same s (bs := natBytes len v) (a := a) (by rwa [hlen]) (by rwa [hlen])
  rw [hlen] at this
  rw [State.readNat, this, natOfBytes_natBytes]

/-! ## Owners -/

theorem hostOwned_header {x : Nat} (h : x < 0x40) : hostOwned x = false := by simp [hostOwned, h]

theorem hostOwned_orderSlot {n j : Nat} (hn : n < 8) (hj : j < 128) : hostOwned (orderSlotAddr n + j) = decide (j < 0x70) := by
  unfold hostOwned orderSlotAddr
  rw [if_neg (by omega), if_neg (by omega), if_pos (by omega)]
  exact decide_eq_decide.mpr (by omega)

theorem hostOwned_rollSlot {n j : Nat} (hn : n < 32) (hj : j < 96) : hostOwned (rollSlotAddr n + j) = decide (j / 2 = 1) := by
  unfold hostOwned rollSlotAddr
  rw [if_neg (by omega), if_neg (by omega), if_neg (by omega), if_pos (by omega)]
  exact decide_eq_decide.mpr (by omega)

theorem hostOwned_mirror {x : Nat} (h : 0x1400 ≤ x) (h' : x < 0x1500) : hostOwned x = false := by
  unfold hostOwned
  rw [if_neg (by omega), if_neg (by omega), if_neg (by omega), if_neg (by omega), if_pos h']

theorem hostOwned_faultSlot {n j : Nat} (hn : n < 32) (hj : j < 32) : hostOwned (faultSlotAddr n + j) = decide (j / 2 = 1) := by
  unfold hostOwned faultSlotAddr
  rw [if_neg (by omega), if_neg (by omega), if_neg (by omega), if_neg (by omega), if_neg (by omega), if_pos (by omega)]
  exact decide_eq_decide.mpr (by omega)

theorem hostOwned_image {x : Nat} (h : 0x1900 ≤ x) (h' : x < 0x1C00) : hostOwned x = false := by
  unfold hostOwned
  rw [if_neg (by omega), if_neg (by omega), if_neg (by omega), if_neg (by omega), if_neg (by omega), if_neg (by omega),
    if_pos h']

theorem partRange_header {a len : Nat} (h : a + len ≤ 0x40) : partRange a len = true :=
  (partRange_iff a len).mpr fun _ _ hx => hostOwned_header (by omega)

theorem partRange_orderSlot {n j len : Nat} (hn : n < 8) (hj : 0x70 ≤ j) (hlen : j + len ≤ 128) :
    partRange (orderSlotAddr n + j) len = true := by
  refine (partRange_iff _ _).mpr fun x hx hx' => ?_
  obtain ⟨i, rfl⟩ : ∃ i, x = orderSlotAddr n + i := ⟨x - orderSlotAddr n, by omega⟩
  rw [hostOwned_orderSlot hn (by omega)]
  exact decide_eq_false (by omega)

theorem partRange_rollSlot {n j len : Nat} (hn : n < 32) (h : j + len ≤ 2 ∨ 4 ≤ j ∧ j + len ≤ 96) :
    partRange (rollSlotAddr n + j) len = true := by
  refine (partRange_iff _ _).mpr fun x hx hx' => ?_
  obtain ⟨i, rfl⟩ : ∃ i, x = rollSlotAddr n + i := ⟨x - rollSlotAddr n, by omega⟩
  rw [hostOwned_rollSlot hn (by omega)]
  exact decide_eq_false (by omega)

theorem partRange_faultSlot {n j len : Nat} (hn : n < 32) (h : j + len ≤ 2 ∨ 4 ≤ j ∧ j + len ≤ 32) :
    partRange (faultSlotAddr n + j) len = true := by
  refine (partRange_iff _ _).mpr fun x hx hx' => ?_
  obtain ⟨i, rfl⟩ : ∃ i, x = faultSlotAddr n + i := ⟨x - faultSlotAddr n, by omega⟩
  rw [hostOwned_faultSlot hn (by omega)]
  exact decide_eq_false (by omega)

theorem partRange_mirror {a len : Nat} (h : 0x1400 ≤ a) (h' : a + len ≤ 0x1500) : partRange a len = true :=
  (partRange_iff a len).mpr fun _ _ hx => hostOwned_mirror (by omega) (by omega)

theorem partRange_image {a len : Nat} (h : 0x1900 ≤ a) (h' : a + len ≤ 0x1C00) : partRange a len = true :=
  (partRange_iff a len).mpr fun _ _ hx => hostOwned_image (by omega) (by omega)

/-! ## Header fields and the exchange counter -/

theorem readByte_header (s : State) {offset len : Nat} (v : Nat) (h : offset + len ≤ 0x40) (x : Nat) :
    (s.header offset len v).readByte x
      = if offset ≤ x ∧ x < offset + len then (natBytes len v).getD (x - offset) 0 else s.readByte x := by
  have hlen := natBytes_length len v
  have := readByte_partStore s (a := offset) (bs := natBytes len v) (by rw [hlen]; exact partRange_header h)
    (by rw [hlen]; unfold memSize; omega) x
  rwa [hlen] at this

theorem readNat_header (s : State) {offset len : Nat} (v : Nat) (h : offset + len ≤ 0x40) :
    (s.header offset len v).readNat offset len = v % 256 ^ len :=
  readNat_partStore_natBytes s (partRange_header h) (by unfold memSize; omega)

/-- A header byte beyond the bytes of a header field keeps its value. -/
theorem readByte_header_outside (s : State) (offset len v : Nat) {x : Nat} (h : x < offset ∨ offset + len ≤ x) :
    (s.header offset len v).readByte x = s.readByte x :=
  partStore_outside s offset _ (by rwa [natBytes_length])

@[simp] theorem header_port (s : State) (offset len v : Nat) : (s.header offset len v).port = s.port := partStore_port s _ _

theorem tagWritten_counter (s : State) : s.tagWritten.port.counter = nextCyclic 255 s.port.counter := by
  rw [State.tagWritten, header_port]

theorem tagWritten_outside (s : State) {x : Nat} (h : x ≠ 0x0A) : s.tagWritten.readByte x = s.readByte x :=
  readByte_header_outside _ 0x0A 1 _ (by omega)

end Sys2Proof.Proofs.MemoryFacts
end

section
/-! PROOFS. The STOP pair, RESUME, the host's writes, and the values of power-on (9.2, 9.3, 10.1, 11.3). -/

namespace Sys2Proof.Proofs.StopAndHost
open Sys2Proof.Machine Sys2Proof.Proofs.FaultFacts Sys2Proof.Proofs.Lookups Sys2Proof.Proofs.MemoryFacts

/-- Settles O46. -/
theorem stopPairToggles : Obligations.StopPairToggles := by
  intro s
  refine ⟨fun h => congrArg Host.Outcome.next (if_pos h), fun h => congrArg Host.Outcome.next (if_neg ?_)⟩
  rcases h with h | h <;> simp [h]

/-! ## RESUME (R160) -/

theorem stopClassCount_eq_zero_iff (s : State) :
    s.stopClassCount = 0 ↔ ∀ f ∈ s.fault.active, s.reactionOf f.code ≠ .stop := by
  simp only [State.stopClassCount, List.length_eq_zero_iff, List.filter_eq_nil_iff, decide_eq_true_iff, ne_eq]

theorem resume_refused {s : State} (h : s.fault.st ≠ .stopped ∨ ∃ f ∈ s.fault.active, s.reactionOf f.code = .stop) :
    s.resume = s := by
  refine if_neg fun ⟨_, hst, hcount⟩ => ?_
  rcases h with h | ⟨f, hf, hstop⟩
  · exact h hst
  · exact (stopClassCount_eq_zero_iff s).mp hcount f hf hstop

theorem note_iff_code (r : Reaction) : r = .note ↔ ¬ 1 ≤ r.code := by cases r <;> decide

/-- The running state that RESUME, and LEAVE CONFIG, go to (R158). -/
theorem faultToRunning_eq (s : State) : s.faultToRunning = { s with fault := { s.fault with
    stopA := true, stopB := false,
    st := if 1 ≤ ({ s with fault := { s.fault with st := .normal } } : State).reaction.code then .alert else .normal } } := by
  have hreaction : ({ s with fault := { s.fault with st := .normal, stopA := true, stopB := false } } : State).reaction
      = ({ s with fault := { s.fault with st := .normal } } : State).reaction := rfl
  unfold State.faultToRunning State.faultSettle
  dsimp only
  rw [hreaction]
  by_cases h : 1 ≤ ({ s with fault := { s.fault with st := .normal } } : State).reaction.code
  · rw [if_pos h, if_neg fun hnote => (note_iff_code _).mp hnote h]
  · rw [if_neg h, if_pos ((note_iff_code _).mpr h)]

theorem with_hold_false {s : State} (h : s.ord.hold = false) : ({ s with ord := { s.ord with hold := false } } : State) = s := by
  have hord : { s.ord with hold := false } = s.ord := by rw [← h]
  rw [hord]

/-- Settles O45. -/
theorem resumeLeavesStopped : Obligations.ResumeLeavesStopped := by
  intro s
  refine ⟨fun h => congrArg Host.Outcome.next (resume_refused h), ?_⟩
  intro hst hphase hnone t
  have ht : t = _ := faultToRunning_eq s
  refine ⟨by rw [ht], by rw [ht], by rw [ht], by rw [ht], congrArg Host.Outcome.next ?_⟩
  have hhold : t.settle.ord.hold = s.ord.hold := by rw [(reach_settle t).orders, ht]
  have htaken : s.resume = State.settlePlan (if t.settle.ord.hold then
      State.testActivation { t.settle with ord := { t.settle.ord with hold := false } }
      else { t.settle with ord := { t.settle.ord with hold := false } }) :=
    if_pos ⟨hphase, hst, (stopClassCount_eq_zero_iff s).mpr hnone⟩
  rw [htaken, hhold]
  cases hs : s.ord.hold with
  | true => rfl
  | false =>
    rw [hs] at hhold
    simp only [Bool.false_eq_true, if_false, with_hold_false hhold]

/-! ## Host writes (R167, R173) -/

theorem exec_exchangeWrite {s : State} {a : BitVec 13} (v : Word) (h : hostOwned (2 * (a.toNat / 2)) = true) :
    s.hostWriteWord a v = { s with mem := memStore s.mem (2 * (a.toNat / 2)) (natBytes 2 v.toNat) } := if_pos h

theorem word_bytes (v : Word) : natBytes 2 v.toNat = [v.setWidth 8, (v >>> 8).setWidth 8] := by
  simp only [natBytes, List.cons.injEq, and_true]
  constructor
  · exact BitVec.eq_of_toNat_eq (by simp)
  · refine BitVec.eq_of_toNat_eq ?_
    simp [BitVec.toNat_ushiftRight, Nat.shiftRight_eq_div_pow]

/-- Settles O47: a word goes to its own two bytes, and NOTICE loses the bits written 1. -/
theorem hostWritesTaken : Obligations.HostWritesTaken := by
  intro s
  refine ⟨fun a v h => congrArg Host.Outcome.next (if_neg (by rw [h]; exact Bool.false_ne_true)), fun a v h => ?_, fun v => ?_⟩
  · have hlt : a.toNat < 8192 := a.isLt
    have hfit : 2 * (a.toNat / 2) + (natBytes 2 v.toNat).length ≤ memSize := by
      rw [natBytes_length, memSize]
      omega
    have hbyte (x : Nat) : (s.hostWriteWord a v).readByte x =
        if 2 * (a.toNat / 2) ≤ x ∧ x < 2 * (a.toNat / 2) + 2 then (natBytes 2 v.toNat).getD (x - 2 * (a.toNat / 2)) 0
        else s.readByte x := by
      rw [exec_exchangeWrite v h]
      have := memRead_memStore (m := s.mem) hfit x
      rwa [natBytes_length] at this
    have hlow : (s.hostWriteWord a v).readByte (2 * (a.toNat / 2)) = v.setWidth 8 := by
      rw [hbyte, if_pos (by omega), Nat.sub_self, word_bytes]
      rfl
    have hhigh : (s.hostWriteWord a v).readByte (2 * (a.toNat / 2) + 1) = (v >>> 8).setWidth 8 := by
      rw [hbyte, if_pos (by omega), Nat.add_sub_cancel_left, word_bytes]
      rfl
    refine ⟨_, rfl, ?_, ?_, fun x hx hx' => ?_, hlow, hhigh⟩
    · rw [exec_exchangeWrite v h]
    · have hread : (s.hostWriteWord a v).readBytes (2 * (a.toNat / 2)) 2 = natBytes 2 v.toNat := by
        rw [word_bytes]
        exact congrArg₂ (fun x y => [x, y]) hlow hhigh
      unfold State.hostReadWord State.readNat
      dsimp only
      rw [hread, natOfBytes_natBytes, Nat.mod_eq_of_lt (show v.toNat < 256 ^ 2 from v.isLt), BitVec.ofNat_toNat, BitVec.setWidth_eq]
    · rw [hbyte, if_neg (by omega)]
  · refine ⟨_, rfl, rfl, fun i => ?_⟩
    show (s.port.notice &&& ~~~v).getLsbD i = _
    rw [BitVec.getLsbD_and, BitVec.getLsbD_not]
    by_cases hi : i < 16
    · simp [hi]
    · simp [BitVec.getLsbD_of_ge _ _ (not_lt.mp hi)]

/-! ## Power-on (R182) -/

theorem resetMemory_beyond {a : Nat} (h : 2 < a) : memRead resetMemory a = 0 := by
  simp only [resetMemory, memRead]
  rw [if_neg (by omega), if_neg (by omega), if_neg (by omega)]

/-- Settles O56. -/
theorem restartValues : Obligations.RestartValues := by
  intro s
  refine ⟨s.restart, rfl, rfl, rfl, rfl, rfl, rfl, rfl, rfl, rfl, fun a ha => resetMemory_beyond ha, rfl, rfl, rfl, rfl,
    rfl, rfl, rfl, rfl, rfl, rfl, rfl, rfl, rfl, rfl, fun o ho => ?_, rfl, rfl, ?_⟩
  · rw [List.eq_of_mem_replicate ho]
    rfl
  · exact ⟨resetMemory_wf, EveryCommand.restart_stopPairOk s, EveryCommand.restart_headerOk s, EveryCommand.restart_trackOk s⟩

end Sys2Proof.Proofs.StopAndHost
end

section
/-! PROOFS. Raising and clearing a fault (chapter 9): the active-fault set, the fault-unit state, and the fault list in exchange
memory. -/

namespace Sys2Proof.Proofs.FaultList
open Sys2Proof.Machine Sys2Proof.Proofs.FaultFacts Sys2Proof.Proofs.MemoryFacts

/-! ## What a raise does after its list entry -/

/-- From `x` to `t` the fault list is as it was: exchange memory, the counter, the entry sequence and the free slots; no notice goes. -/
structure SameList (x t : State) : Prop where
  mem : t.mem = x.mem
  counter : t.port.counter = x.port.counter
  entrySeq : t.fault.entrySeq = x.fault.entrySeq
  free : t.fault.free = x.fault.free
  notice : ∀ i, x.port.notice.getLsbD i = true → t.port.notice.getLsbD i = true

theorem SameList.refl (s : State) : SameList s s := ⟨rfl, rfl, rfl, rfl, fun _ h => h⟩

theorem SameList.trans {s t u : State} (h : SameList s t) (k : SameList t u) : SameList s u :=
  ⟨k.mem.trans h.mem, k.counter.trans h.counter, k.entrySeq.trans h.entrySeq, k.free.trans h.free,
    fun i hi => k.notice i (h.notice i hi)⟩

theorem SameList.ite {c : Prop} [Decidable c] {s t u : State} (h : SameList s t) (k : SameList s u) :
    SameList s (if c then t else u) := by
  split
  · exact h
  · exact k

theorem SameList.readByte {s t : State} (h : SameList s t) (a : Nat) : t.readByte a = s.readByte a := by
  rw [State.readByte, h.mem]
  rfl

theorem SameList.readBytes {s t : State} (h : SameList s t) (a len : Nat) : t.readBytes a len = s.readBytes a len :=
  readBytes_congr fun x _ _ => h.readByte x

theorem SameList.readNat {s t : State} (h : SameList s t) (a len : Nat) : t.readNat a len = s.readNat a len :=
  congrArg natOfBytes (h.readBytes a len)

theorem sameList_fault (s : State) (x : FaultUnit) (h : x.entrySeq = s.fault.entrySeq) (k : x.free = s.fault.free) :
    SameList s { s with fault := x } := ⟨rfl, rfl, h, k, fun _ h => h⟩

theorem sameList_faultSettle (s : State) : SameList s s.faultSettle := by
  unfold State.faultSettle
  split
  · exact .refl s
  · exact .refl s
  · exact sameList_fault s _ rfl rfl
  · exact sameList_fault s _ rfl rfl

theorem latch_keeps (s : State) (f : Factor) (i : Nat) (h : s.port.notice.getLsbD i = true) :
    (s.latch f).port.notice.getLsbD i = true := by
  show (s.port.notice ||| (1#16 <<< f.bit)).getLsbD i = true
  rw [BitVec.getLsbD_or, h, Bool.true_or]

theorem latch_noticed (s : State) (f : Factor) : (s.latch f).noticed f = true := by
  show (s.port.notice ||| (1#16 <<< f.bit)).getLsbD f.bit = true
  rw [BitVec.getLsbD_or]
  cases f <;> exact Bool.or_true _

theorem sameList_enterStopped (s : State) : SameList s s.enterStopped :=
  .ite ⟨rfl, rfl, rfl, rfl, fun i h => latch_keeps s .stop i h⟩ (.refl s)

/-! ## The fault-unit state -/

theorem faultSettle_standing {s : State} (h : s.fault.st = .config ∨ s.fault.st = .stopped) : s.faultSettle = s := by
  unfold State.faultSettle
  rcases h with h | h <;> rw [h]

theorem enterStopped_standing {s : State} (h : s.fault.st = .config ∨ s.fault.st = .stopped) : s.enterStopped = s :=
  if_neg (by rcases h with h | h <;> simp [h])

theorem enterStopped_running {s : State} (h : s.fault.st = .normal ∨ s.fault.st = .alert) : s.enterStopped =
    State.latch { s with fault := { s.fault with st := .stopped, stopA := false, stopB := false } } .stop := if_pos h

/-- The set and the pulse after a raise's list entry (R156, R157). -/
def charged (s : State) (code subject : Nat) : State :=
  let t := s.listRaise code subject
  if isEventKind code then
    if s.reactionOf code = .mark ∨ s.reactionOf code = .lift then
      { t with fault := { t.fault with pulse := t.fault.pulse.max (s.reactionOf code) } }
    else t
  else if s.faultActive code subject then t
  else { t with fault := { t.fault with active := t.fault.active ++ [{ code := code, subject := subject }] } }

theorem raiseCore_eq (s : State) (code subject : Nat) : s.raiseCore code subject =
    (if s.reactionOf code = .stop then (charged s code subject).enterStopped else charged s code subject).faultSettle := by
  have hlist := listOnly_listRaise s code subject
  have hactive : (s.listRaise code subject).faultActive code subject = s.faultActive code subject := by
    simp only [State.faultActive, hlist.active]
  unfold State.raiseCore charged
  simp only [hlist.reactionOf, hactive]

theorem sameList_charged (s : State) (code subject : Nat) : SameList (s.listRaise code subject) (charged s code subject) := by
  unfold charged
  extract_lets t
  exact .ite (.ite (sameList_fault t _ rfl rfl) (.refl t)) (.ite (.refl t) (sameList_fault t _ rfl rfl))

/-- After its list entry a raise touches set, pulse and fault-unit state alone. -/
theorem sameList_raiseCore (s : State) (code subject : Nat) : SameList (s.listRaise code subject) (s.raiseCore code subject) := by
  rw [raiseCore_eq]
  refine ((sameList_charged s code subject).trans ?_).trans (sameList_faultSettle _)
  exact .ite (sameList_enterStopped _) (.refl _)

theorem charged_st (s : State) (code subject : Nat) : (charged s code subject).fault.st = s.fault.st := by
  have hst := (listOnly_listRaise s code subject).st
  unfold charged
  extract_lets t
  split
  · split <;> exact hst
  · split <;> exact hst

theorem raiseCore_stopped {s : State} {code subject : Nat} (hr : s.reactionOf code = .stop)
    (h : s.fault.st = .normal ∨ s.fault.st = .alert) : s.raiseCore code subject =
    State.latch { charged s code subject with fault := { (charged s code subject).fault with
      st := .stopped, stopA := false, stopB := false } } .stop := by
  rw [raiseCore_eq, if_pos hr, enterStopped_running (by rwa [charged_st]), faultSettle_standing (.inr rfl)]

theorem raiseCore_standing {s : State} (code subject : Nat) (h : s.fault.st = .config ∨ s.fault.st = .stopped) :
    s.raiseCore code subject = charged s code subject := by
  have hst : (charged s code subject).fault.st = .config ∨ (charged s code subject).fault.st = .stopped := by
    rwa [charged_st]
  rw [raiseCore_eq, enterStopped_standing hst, ite_self, faultSettle_standing hst]

@[simp] theorem faultSettle_pulse (s : State) : s.faultSettle.fault.pulse = s.fault.pulse := by
  unfold State.faultSettle
  split <;> rfl

theorem raiseCore_pulse {s : State} {code : Nat} (subject : Nat) (hevent : isEventKind code = true)
    (hr : s.reactionOf code = .mark ∨ s.reactionOf code = .lift) :
    (s.raiseCore code subject).fault.pulse = s.fault.pulse.max (s.reactionOf code) := by
  have hns : s.reactionOf code ≠ .stop := by rcases hr with h | h <;> rw [h] <;> decide
  have hpulse : (s.listRaise code subject).fault.pulse = s.fault.pulse := by
    rw [(listOnly_listRaise s code subject).fault]
  rw [raiseCore_eq, if_neg hns, faultSettle_pulse, charged, hevent]
  simp only [if_true, if_pos hr, hpulse]

/-! ## The tag of a fault slot (R163, R169) -/

/-- The tag of fault slot `n` has been written over `s`, and nothing outside the slot and the header has changed. -/
structure Tagged (s x : State) (n : Nat) : Prop where
  tag : (x.readByte (faultSlotAddr n)).toNat
    = nextTag (s.readByte (faultSlotAddr n)).toNat (s.readByte (faultSlotAddr n + 2)).toNat
  counter : x.port.counter = nextCyclic 255 s.port.counter
  others : ∀ a, 0x40 ≤ a → a < faultSlotAddr n ∨ faultSlotAddr n + 32 ≤ a → x.readByte a = s.readByte a

theorem Tagged.sameList {s x t : State} {n : Nat} (h : Tagged s x n) (k : SameList x t) : Tagged s t n where
  tag := by rw [k.readByte, h.tag]
  counter := k.counter.trans h.counter
  others := fun a ha ha' => (k.readByte a).trans (h.others a ha ha')

/-- A write to the body of fault slot `n`, before its tag. -/
structure BodyWritten (s w : State) (n : Nat) : Prop where
  counter : w.port.counter = s.port.counter
  others : ∀ a, a < faultSlotAddr n + 4 ∨ faultSlotAddr n + 32 ≤ a → w.readByte a = s.readByte a

theorem BodyWritten.refl (s : State) (n : Nat) : BodyWritten s s n := ⟨rfl, fun _ _ => rfl⟩

theorem BodyWritten.trans {s t u : State} {n : Nat} (h : BodyWritten s t n) (k : BodyWritten t u n) : BodyWritten s u n :=
  ⟨k.counter.trans h.counter, fun a ha => (k.others a ha).trans (h.others a ha)⟩

theorem BodyWritten.ite {c : Prop} [Decidable c] {s t u : State} {n : Nat} (h : BodyWritten s t n) (k : BodyWritten s u n) :
    BodyWritten s (if c then t else u) n := by
  split
  · exact h
  · exact k

theorem bodyWritten_partStore (s : State) (n : Nat) {j : Nat} {bs : List Byte} (h : 4 ≤ j ∧ j + bs.length ≤ 32) :
    BodyWritten s (s.partStore (faultSlotAddr n + j) bs) n :=
  ⟨by rw [partStore_port], fun a ha => partStore_outside s _ _ (by omega)⟩

theorem faultSlotAddr_ge (n : Nat) : 0x1500 ≤ faultSlotAddr n := Nat.le_add_right _ _

theorem faultSlot_fits {n : Nat} (hn : n < 32) : faultSlotAddr n + 32 ≤ memSize := by
  unfold faultSlotAddr memSize
  omega

/-- What a tag write changes: the tag word of its slot, and with the counter its header copy. -/
theorem writeFaultTag_outside (s : State) (n : Nat) {a : Nat} (h : a < faultSlotAddr n ∨ faultSlotAddr n + 2 ≤ a) (ha : a ≠ 0x0A)
    (advance : Bool) : (s.writeFaultTag n advance).readByte a = s.readByte a := by
  unfold State.writeFaultTag
  extract_lets t u src v
  have hu : v.readByte a = s.readByte a := partStore_outside s _ _ h
  split
  · exact (tagWritten_outside v ha).trans hu
  · exact hu

theorem writeFaultTag_tag (s : State) {n : Nat} (hn : n < 32) (advance : Bool) :
    ((s.writeFaultTag n advance).readByte (faultSlotAddr n)).toNat
      = nextTag (s.readByte (faultSlotAddr n)).toNat (s.readByte (faultSlotAddr n + 2)).toNat := by
  have hge := faultSlotAddr_ge n
  have hfit := faultSlot_fits hn
  unfold State.writeFaultTag
  extract_lets t u src v
  have hv : v.readByte (faultSlotAddr n) = byte t := by
    have := partStore_inside s (faultSlotAddr n) [byte t, 0] (partRange_faultSlot (j := 0) hn (.inl (le_refl 2)))
      (by simp only [List.length_cons, List.length_nil]; omega) (le_refl _) (by simp)
    rw [Nat.sub_self] at this
    exact this
  have htag : (v.readByte (faultSlotAddr n)).toNat = nextTag (s.readByte (faultSlotAddr n)).toNat
      (s.readByte (faultSlotAddr n + 2)).toNat := by
    rw [hv, byte_toNat (Nat.lt_succ_of_le (nextTag_le _ _))]
    simp only [State.faultTag, State.faultAck, readNat_one]
  split
  · rw [tagWritten_outside v (by omega), htag]
  · exact htag

theorem writeFaultTag_counter (s : State) (n : Nat) : (s.writeFaultTag n true).port.counter = nextCyclic 255 s.port.counter := by
  unfold State.writeFaultTag
  simp only [if_true, tagWritten_counter, partStore_port]

/-- The next tag goes into the slot last (R163). -/
theorem tagged_writeFaultTag {s w : State} {n : Nat} (hn : n < 32) (h : BodyWritten s w n) : Tagged s (w.writeFaultTag n true) n where
  tag := by rw [writeFaultTag_tag w hn, h.others _ (by omega), h.others _ (by omega)]
  counter := by rw [writeFaultTag_counter, h.counter]
  others := fun a ha ha' => by
    rw [writeFaultTag_outside w n (by omega) (by omega), h.others a (by omega)]

/-- The body of the slot stands as it was written. -/
theorem writeFaultTag_body (w : State) {n j len : Nat} (hj : 4 ≤ j) (hlen : j + len ≤ 32) (advance : Bool) :
    (w.writeFaultTag n advance).readBytes (faultSlotAddr n + j) len = w.readBytes (faultSlotAddr n + j) len := by
  have hge := faultSlotAddr_ge n
  exact readBytes_congr fun x hx hx' => writeFaultTag_outside w n (by omega) (by omega) advance

theorem writeFaultTag_fault (s : State) (n : Nat) (advance : Bool) :
    (s.writeFaultTag n advance).fault.entrySeq = s.fault.entrySeq ∧ (s.writeFaultTag n advance).fault.free = s.fault.free := by
  unfold State.writeFaultTag
  extract_lets t u src v
  have hv : v.fault.entrySeq = s.fault.entrySeq ∧ v.fault.free = s.fault.free := by
    simp only [v, src, u, partStore_fault, and_self]
  split
  · simpa only [State.tagWritten, State.header, partStore_fault] using hv
  · exact hv

/-! ## New entries (R162, R163) -/

/-- The body of a new entry (9.4.1). -/
def entryBody (s : State) (code subject : Nat) : List Byte :=
  natBytes 2 (nextCyclic 65535 s.fault.entrySeq)
    ++ [byte code, byte subject, if isEventKind code then 2 else 1, byte (s.reactionOf code).code]
    ++ natBytes 2 1 ++ natBytes 6 s.coord.h.toNat ++ natBytes 2 s.track.lastNumber
    ++ (match s.ord.active with
        | some o => intBytes 4 (s.body o).ref ++ natBytes 2 (s.order o).currentRoll
        | none => List.replicate 6 0)
    ++ (if isEventKind code then natBytes 6 s.coord.h.toNat else List.replicate 6 0)

theorem entryBody_length (s : State) (code subject : Nat) : (entryBody s code subject).length = 28 := by
  unfold entryBody
  cases s.ord.active <;> cases isEventKind code <;> simp [natBytes_length, intBytes]

/-- The state that has used up its next entry sequence. -/
def sequenced (s : State) : State := { s with fault := { s.fault with entrySeq := nextCyclic 65535 s.fault.entrySeq } }

/-- An entry written into slot `n`, its tag last. -/
def entryAt (s : State) (code subject n : Nat) : State :=
  let t := (sequenced s).partStore (faultSlotAddr n + 4) (entryBody s code subject)
  State.latch (State.writeFaultTag { t with fault := { t.fault with free := t.fault.free.set n false } } n true) .fault

theorem newEntry_free {s : State} (code subject : Nat) {n : Nat} (h : s.fault.free.findIdx? (fun f => f) = some n) :
    s.newEntry code subject = entryAt s code subject n := by
  have hbody : (natBytes 2 (nextCyclic 65535 s.fault.entrySeq)
      ++ [byte code, byte subject, if isEventKind code then 2 else 1, byte (s.reactionOf code).code]
      ++ natBytes 2 1 ++ natBytes 6 s.coord.h.toNat ++ natBytes 2 s.track.lastNumber
      ++ (match s.activeBody with
          | some b => intBytes 4 b.ref
          | none => natBytes 4 0)
      ++ natBytes 2 (match s.ord.active with
          | some o => (s.order o).currentRoll
          | none => 0)
      ++ (if isEventKind code then natBytes 6 s.coord.h.toNat else natBytes 6 0)) = entryBody s code subject := by
    unfold entryBody State.activeBody
    cases s.ord.active <;> simp only [Option.map_none, Option.map_some, List.append_assoc] <;> rfl
  unfold State.newEntry entryAt
  extract_lets q src t
  have hfree : t.fault.free.findIdx? (fun f => f) = some n := h
  rw [hfree]
  exact congrArg (fun body => State.latch (State.writeFaultTag { (sequenced s).partStore (faultSlotAddr n + 4) body with
    fault := { ((sequenced s).partStore (faultSlotAddr n + 4) body).fault with
      free := ((sequenced s).partStore (faultSlotAddr n + 4) body).fault.free.set n false } } n true) .fault) hbody

theorem newEntry_full {s : State} (code subject : Nat) (h : ∀ v ∈ s.fault.free, v = false) :
    s.newEntry code subject = (sequenced s).header 0x0C 2 (saturate 65535 (s.readNat 0x0C 2 + 1)) := by
  have hnone : s.fault.free.findIdx? (fun f => f) = none := List.findIdx?_eq_none_iff.mpr fun v hv => by rw [h v hv]
  unfold State.newEntry
  extract_lets q src t
  have hfree : t.fault.free.findIdx? (fun f => f) = none := hnone
  rw [hfree]
  rfl

theorem newEntry_entrySeq (s : State) (code subject : Nat) :
    (s.newEntry code subject).fault.entrySeq = nextCyclic 65535 s.fault.entrySeq := by
  cases h : s.fault.free.findIdx? (fun f => f) with
  | none =>
    rw [newEntry_full code subject fun v hv => Bool.eq_false_iff.mpr (Bool.eq_false_iff.mp (List.findIdx?_eq_none_iff.mp h v hv))]
    simp only [State.header, partStore_fault, sequenced]
  | some n =>
    rw [newEntry_free code subject h]
    simp only [entryAt, latch_fault, (writeFaultTag_fault _ n true).1, partStore_fault, sequenced]

theorem bodyWritten_entry (s : State) (code subject n : Nat) :
    BodyWritten s ((sequenced s).partStore (faultSlotAddr n + 4) (entryBody s code subject)) n :=
  BodyWritten.trans (t := sequenced s) ⟨rfl, fun _ _ => rfl⟩
    (bodyWritten_partStore _ n ⟨le_refl 4, by rw [entryBody_length]⟩)

/-- A new entry goes whole into its slot. -/
theorem entryAt_spec (s : State) (code subject : Nat) {n : Nat} (hn : n < 32) :
    (entryAt s code subject n).fault.free = s.fault.free.set n false ∧ (entryAt s code subject n).noticed .fault = true
      ∧ Tagged s (entryAt s code subject n) n
      ∧ (entryAt s code subject n).readBytes (faultSlotAddr n + 4) 28 = entryBody s code subject := by
  have hlen := entryBody_length s code subject
  have hfit := faultSlot_fits hn
  have hbody := readBytes_partStore_same (sequenced s) (a := faultSlotAddr n + 4) (bs := entryBody s code subject)
    (by rw [hlen]; exact partRange_faultSlot hn (.inr ⟨le_refl 4, le_refl 32⟩)) (by rw [hlen]; omega)
  rw [hlen] at hbody
  unfold entryAt
  extract_lets t
  refine ⟨?_, latch_noticed _ _, ?_, ?_⟩
  · rw [latch_fault, (writeFaultTag_fault _ n true).2]
    simp only [t, partStore_fault, sequenced]
  · have ht : BodyWritten s { t with fault := { t.fault with free := t.fault.free.set n false } } n :=
      (bodyWritten_entry s code subject n).trans ⟨rfl, fun _ _ => rfl⟩
    exact (tagged_writeFaultTag hn ht).sameList ⟨rfl, rfl, rfl, rfl, fun i h => latch_keeps _ .fault i h⟩
  · exact (writeFaultTag_body _ (by omega) (by omega) true).trans hbody

/-! ## Entries that are joined or cleared (R164) -/

/-- The body of an entry that is counted, before its tag. -/
def countBody (s : State) (n code : Nat) : State :=
  let a := faultSlotAddr n
  let t := s.partStore (a + 0x09) [byte (s.reactionOf code).code]
  let u := t.partStore (a + 0x0A) (natBytes 2 (saturate 65535 (t.readNat (a + 0x0A) 2 + 1)))
  if isEventKind code then u.partStore (a + 0x1A) (natBytes 6 u.coord.h.toNat) else u

theorem countEntry_eq (s : State) (n code : Nat) : s.countEntry n code = (countBody s n code).writeFaultTag n true := rfl

theorem countBody_fault (s : State) (n code : Nat) : (countBody s n code).fault = s.fault := by
  unfold countBody
  extract_lets a t u
  split <;> simp [u, t]

theorem bodyWritten_countBody (s : State) (n code : Nat) : BodyWritten s (countBody s n code) n := by
  unfold countBody
  extract_lets a t u
  have ht : BodyWritten s t n := bodyWritten_partStore s n ⟨by decide, by simp⟩
  have hu : BodyWritten t u n := bodyWritten_partStore t n ⟨by decide, by simp [natBytes_length]⟩
  exact .ite ((ht.trans hu).trans (bodyWritten_partStore u n ⟨by decide, by simp [natBytes_length]⟩)) (ht.trans hu)

/-- What the body of a counted entry reads. -/
theorem countBody_read (s : State) {n : Nat} (hn : n < 32) (code : Nat) :
    (countBody s n code).readNat (faultSlotAddr n + 0x0A) 2 = saturate 65535 (s.readNat (faultSlotAddr n + 0x0A) 2 + 1)
      ∧ (countBody s n code).readByte (faultSlotAddr n + 0x09) = byte (s.reactionOf code).code
      ∧ (countBody s n code).readBytes (faultSlotAddr n + 4) 5 = s.readBytes (faultSlotAddr n + 4) 5
      ∧ (countBody s n code).readBytes (faultSlotAddr n + 0x0C) 14 = s.readBytes (faultSlotAddr n + 0x0C) 14
      ∧ (countBody s n code).readBytes (faultSlotAddr n + 0x1A) 6
          = if isEventKind code then natBytes 6 s.coord.h.toNat else s.readBytes (faultSlotAddr n + 0x1A) 6 := by
  have hfit := faultSlot_fits hn
  have hsat (v : Nat) : saturate 65535 v % 256 ^ 2 = saturate 65535 v :=
    Nat.mod_eq_of_lt (Nat.lt_of_le_of_lt (Nat.min_le_left _ _) (by decide))
  unfold countBody
  extract_lets a t u
  have ht (x : Nat) : t.readByte x = if x = a + 9 then byte (s.reactionOf code).code else s.readByte x :=
    readByte_partStore_byte s _ (partRange_faultSlot hn (.inr ⟨by decide, by decide⟩)) (by omega) x
  have hcount : u.readNat (a + 0x0A) 2 = saturate 65535 (s.readNat (a + 0x0A) 2 + 1) := by
    rw [readNat_partStore_natBytes t (partRange_faultSlot hn (.inr ⟨by decide, by decide⟩)) (by omega), hsat,
      readNat_congr (s := s) fun x hx hx' => by rw [ht, if_neg (by omega)]]
  have hu (x : Nat) (hx : x < a + 0x0A ∨ a + 0x0C ≤ x) : u.readByte x = if x = a + 9 then byte (s.reactionOf code).code
      else s.readByte x := (partStore_outside t _ _ (by rw [natBytes_length]; omega)).trans (ht x)
  have hplain : u.readNat (a + 0x0A) 2 = saturate 65535 (s.readNat (a + 0x0A) 2 + 1)
      ∧ u.readByte (a + 0x09) = byte (s.reactionOf code).code ∧ u.readBytes (a + 4) 5 = s.readBytes (a + 4) 5
      ∧ u.readBytes (a + 0x0C) 14 = s.readBytes (a + 0x0C) 14 ∧ u.readBytes (a + 0x1A) 6 = s.readBytes (a + 0x1A) 6 :=
    ⟨hcount, by rw [hu _ (by omega), if_pos rfl],
      readBytes_congr fun x hx hx' => by rw [hu x (by omega), if_neg (by omega)],
      readBytes_congr fun x hx hx' => by rw [hu x (by omega), if_neg (by omega)],
      readBytes_congr fun x hx hx' => by rw [hu x (by omega), if_neg (by omega)]⟩
  obtain ⟨hcnt, hreact, hhead, hmid, htail⟩ := hplain
  have hcoord : u.coord = s.coord := by simp [u, t]
  split
  next hevent =>
    have hout (x : Nat) (hx : x < a + 0x1A) : (u.partStore (a + 0x1A) (natBytes 6 u.coord.h.toNat)).readByte x = u.readByte x :=
      partStore_outside u _ _ (.inl hx)
    have hlen := natBytes_length 6 u.coord.h.toNat
    have hsame := readBytes_partStore_same u (a := a + 0x1A) (bs := natBytes 6 u.coord.h.toNat)
      (by rw [hlen]; exact partRange_faultSlot hn (.inr ⟨by decide, by decide⟩)) (by rw [hlen]; omega)
    rw [hlen] at hsame
    refine ⟨(readNat_congr fun x hx hx' => hout x (by omega)).trans hcnt, (hout _ (by omega)).trans hreact,
      (readBytes_congr fun x hx hx' => hout x (by omega)).trans hhead,
      (readBytes_congr fun x hx hx' => hout x (by omega)).trans hmid, ?_⟩
    rw [hsame, hcoord]
  next => exact ⟨hcnt, hreact, hhead, hmid, htail⟩

/-- An entry that is counted keeps what it says of its fault. -/
theorem countEntry_spec (s : State) {n : Nat} (hn : n < 32) (code : Nat) :
    (s.countEntry n code).fault.entrySeq = s.fault.entrySeq ∧ (s.countEntry n code).fault.free = s.fault.free
      ∧ Tagged s (s.countEntry n code) n
      ∧ (s.countEntry n code).readNat (faultSlotAddr n + 0x0A) 2 = saturate 65535 (s.readNat (faultSlotAddr n + 0x0A) 2 + 1)
      ∧ (s.countEntry n code).readByte (faultSlotAddr n + 0x09) = byte (s.reactionOf code).code
      ∧ (s.countEntry n code).readBytes (faultSlotAddr n + 4) 5 = s.readBytes (faultSlotAddr n + 4) 5
      ∧ (s.countEntry n code).readBytes (faultSlotAddr n + 0x0C) 14 = s.readBytes (faultSlotAddr n + 0x0C) 14
      ∧ (s.countEntry n code).readBytes (faultSlotAddr n + 0x1A) 6
          = if isEventKind code then natBytes 6 s.coord.h.toNat else s.readBytes (faultSlotAddr n + 0x1A) 6 := by
  obtain ⟨hcount, hreact, hhead, hmid, htail⟩ := countBody_read s hn code
  have hge := faultSlotAddr_ge n
  rw [countEntry_eq]
  refine ⟨?_, ?_, tagged_writeFaultTag hn (bodyWritten_countBody s n code), ?_, ?_, ?_, ?_, ?_⟩
  · rw [(writeFaultTag_fault _ n true).1, countBody_fault]
  · rw [(writeFaultTag_fault _ n true).2, countBody_fault]
  · exact (congrArg natOfBytes (writeFaultTag_body _ (by decide) (by decide) true)).trans hcount
  · exact (writeFaultTag_outside _ n (by omega) (by omega) true).trans hreact
  · exact (writeFaultTag_body _ (by decide) (by decide) true).trans hhead
  · exact (writeFaultTag_body _ (by decide) (by decide) true).trans hmid
  · exact (writeFaultTag_body _ (by decide) (by decide) true).trans htail

/-- An entry that is cleared keeps the fault it names. -/
theorem clearEntry_spec (s : State) {n : Nat} (hn : n < 32) (code : Nat) :
    Tagged s (s.clearEntry n code true) n
      ∧ (s.clearEntry n code true).readByte (faultSlotAddr n + 0x08) = 2
      ∧ (s.clearEntry n code true).readByte (faultSlotAddr n + 0x09) = byte (s.reactionOf code).code
      ∧ (s.clearEntry n code true).readBytes (faultSlotAddr n + 4) 4 = s.readBytes (faultSlotAddr n + 4) 4
      ∧ (s.clearEntry n code true).readBytes (faultSlotAddr n + 0x1A) 6 = natBytes 6 s.coord.h.toNat := by
  have hge := faultSlotAddr_ge n
  have hfit := faultSlot_fits hn
  unfold State.clearEntry
  extract_lets a t u
  have ht : BodyWritten s t n := bodyWritten_partStore s n ⟨by decide, by simp⟩
  have hu : BodyWritten t u n := bodyWritten_partStore t n ⟨by decide, by simp [natBytes_length]⟩
  have hin (x : Nat) (h1 : a + 8 ≤ x) (h2 : x < a + 8 + 2) : t.readByte x = [2, byte (s.reactionOf code).code].getD (x - (a + 8)) 0 :=
    partStore_inside s (a + 8) [2, byte (s.reactionOf code).code] (partRange_faultSlot hn (.inr ⟨by decide, by simp⟩))
      (by simp only [List.length_cons, List.length_nil]; omega) h1 (by simpa using h2)
  have hcoord : t.coord = s.coord := by simp [t]
  have hlen := natBytes_length 6 t.coord.h.toNat
  have hsame := readBytes_partStore_same t (a := a + 0x1A) (bs := natBytes 6 t.coord.h.toNat)
    (by rw [hlen]; exact partRange_faultSlot hn (.inr ⟨by decide, by decide⟩)) (by rw [hlen]; omega)
  rw [hlen] at hsame
  have houter (x : Nat) (hx : x < a + 0x1A) : u.readByte x = t.readByte x := partStore_outside t _ _ (.inl hx)
  have htag (x : Nat) (hx : a + 4 ≤ x) : (u.writeFaultTag n true).readByte x = u.readByte x :=
    writeFaultTag_outside u n (by omega) (by omega) true
  refine ⟨tagged_writeFaultTag hn (ht.trans hu), ?_, ?_, ?_, ?_⟩
  · rw [htag _ (by omega), houter _ (by omega), hin _ (le_refl _) (by omega), Nat.sub_self]
    rfl
  · rw [htag _ (by omega), houter _ (by omega), hin (a + 9) (by omega) (by omega), show a + 9 - (a + 8) = 1 by omega]
    rfl
  · refine readBytes_congr fun x hx hx' => ?_
    rw [htag x hx, houter x (by omega)]
    exact partStore_outside s _ _ (by omega)
  · exact (writeFaultTag_body u (by decide) (by decide) true).trans (hsame.trans (by rw [hcoord]))

/-! ## The list's part of a raise -/

theorem lt_of_activeEntry {s : State} {code subject n : Nat} (h : s.activeEntry code subject = some n) : n < 32 :=
  List.mem_range.mp (List.mem_of_find?_eq_some h)

/-- The newest of some entries is one of them. -/
theorem mem_of_newest {s : State} {l : List Nat} {best : Option Nat} {n : Nat}
    (h : l.foldl (fun best n => match best with
      | none => some n
      | some m => if s.entryAge n < s.entryAge m then some n else some m) best = some n) : n ∈ l ∨ best = some n := by
  induction l generalizing best with
  | nil => exact .inr h
  | cons a l ih =>
    rcases ih h with hl | hbest
    · exact .inl (List.mem_cons_of_mem _ hl)
    · cases best with
      | none => exact .inl (by cases hbest; exact List.mem_cons_self)
      | some m =>
        dsimp only at hbest
        split at hbest
        · exact .inl (by cases hbest; exact List.mem_cons_self)
        · exact .inr hbest

theorem lt_of_joinableEntry {s : State} {code subject n : Nat} (h : s.joinableEntry code subject = some n) : n < 32 := by
  rcases mem_of_newest (s := s) (best := none) h with hl | hno
  · exact List.mem_range.mp (List.mem_filter.mp hl).1
  · cases hno

/-- The entry a raise joins: for an event the newest unacknowledged one, for a condition already active its ACTIVE one. -/
def Joins (s : State) (code subject n : Nat) : Prop :=
  if isEventKind code then s.joinableEntry code subject = some n
  else ({ code := code, subject := subject } : FaultId) ∈ s.fault.active ∧ s.activeEntry code subject = some n

theorem lt_of_joins {s : State} {code subject n : Nat} (h : Joins s code subject n) : n < 32 := by
  unfold Joins at h
  split at h
  · exact lt_of_joinableEntry h
  · exact lt_of_activeEntry h.2

theorem listRaise_joins {s : State} {code subject n : Nat} (h : Joins s code subject n) :
    s.listRaise code subject = s.countEntry n code := by
  unfold Joins at h
  unfold State.listRaise
  split at h
  next hevent => rw [if_pos hevent, h]
  next hevent => rw [if_neg hevent, if_pos ((faultActive_iff s code subject).mpr h.1), h.2]

theorem listRaise_new {s : State} {code subject : Nat} (h : ∀ n, ¬ Joins s code subject n) :
    s.listRaise code subject = s.newEntry code subject := by
  unfold Joins at h
  unfold State.listRaise
  split
  next hevent =>
    simp only [if_pos hevent] at h
    cases hj : s.joinableEntry code subject with
    | none => rfl
    | some n => exact absurd hj (h n)
  next hevent =>
    simp only [if_neg hevent] at h
    split
    next hactive =>
      cases hj : s.activeEntry code subject with
      | none => rfl
      | some n => exact absurd ⟨(faultActive_iff s code subject).mp hactive, hj⟩ (h n)
    next => rfl

/-- A clear of an active fault: its entry is cleared, it leaves the set, and the fault-unit state follows. -/
theorem sameList_clearCore {s : State} {code subject n : Nat}
    (hactive : ({ code := code, subject := subject } : FaultId) ∈ s.fault.active) (h : s.activeEntry code subject = some n) :
    SameList ((s.clearEntry n code true).latch .fault) (s.clearCore code subject) := by
  unfold State.clearCore
  rw [if_pos ((faultActive_iff s code subject).mpr hactive), h]
  refine SameList.trans ?_ (sameList_faultSettle _)
  exact sameList_fault _ _ rfl rfl

theorem clearCore_inactive {s : State} {code subject : Nat}
    (h : ({ code := code, subject := subject } : FaultId) ∉ s.fault.active) : s.clearCore code subject = s :=
  if_neg fun hactive => h ((faultActive_iff s code subject).mp hactive)

theorem clearCore_standing {s : State} (code subject : Nat) (h : s.fault.st = .config ∨ s.fault.st = .stopped) :
    (s.clearCore code subject).fault.st = s.fault.st := by
  unfold State.clearCore
  split
  · split
    next n _ =>
      have hst := ((listOnly_clearEntry s n code true).trans (listOnly_latch _ .fault)).st
      rw [faultSettle_standing (by rw [← hst] at h; exact h)]
      exact hst
    next => rw [faultSettle_standing (by exact h)]
  · rfl

/-- The first free slot. -/
theorem findIdx?_free {l : List Bool} {n : Nat} (h : l[n]? = some true) (hfirst : ∀ m, m < n → l[m]? ≠ some true) :
    l.findIdx? (fun f => f) = some n := by
  obtain ⟨hn, hget⟩ := List.getElem?_eq_some_iff.mp h
  refine List.findIdx?_eq_some_iff_getElem.mpr ⟨hn, hget, fun j hj htrue => ?_⟩
  exact hfirst j hj (List.getElem?_eq_some_iff.mpr ⟨_, htrue⟩)

/-- What the obligation asks of a tag write. -/
theorem Tagged.spelt {s x : State} {n : Nat} (h : Tagged s x n) :
    (x.readByte (0x1500 + 32 * n)).toNat
        = nextTag (s.readByte (0x1500 + 32 * n)).toNat (s.readByte (0x1500 + 32 * n + 2)).toNat
      ∧ x.port.counter = nextCyclic 255 s.port.counter
      ∧ ∀ a, 0x40 ≤ a → a < 0x1500 + 32 * n ∨ 0x1500 + 32 * n + 32 ≤ a → x.readByte a = s.readByte a :=
  ⟨h.tag, h.counter, h.others⟩

/-- Settles O44: set, state and pulse by the kind of the fault; the list by the entry it joins, makes or clears. -/
theorem raiseAndClear : Obligations.RaiseAndClear := by
  intro s code subject f t u event at_ next tagged joins sequence
  have hlist : SameList (s.listRaise code subject) t := sameList_raiseCore s code subject
  refine ⟨?_, fun hr hst => ?_, fun hst => ⟨?_, clearCore_standing code subject hst⟩, fun hevent hr => raiseCore_pulse subject hevent hr,
    fun hf => clearCore_inactive hf, clearCore_active s code subject, fun hjoins => ?_, fun n hjoins => ?_, fun n hf hentry => ?_⟩
  · cases hevent : isEventKind code with
    | true => simpa using raiseCore_active_event s subject hevent
    | false =>
      have hactive := raiseCore_active_condition s subject hevent
      by_cases hf : f ∈ s.fault.active
      · rw [if_neg fun h => h.2 hf]
        exact hactive.trans (if_pos ((faultActive_iff s code subject).mpr hf))
      · rw [if_pos ⟨rfl, hf⟩]
        exact hactive.trans (if_neg fun h => hf ((faultActive_iff s code subject).mp h))
  · have ht : t = _ := raiseCore_stopped hr hst
    rw [ht]
    exact ⟨rfl, rfl, rfl, latch_noticed _ _⟩
  · rw [show t = _ from raiseCore_standing code subject hst, charged_st]
  · have hnew : s.listRaise code subject = s.newEntry code subject := listRaise_new hjoins
    rw [hnew] at hlist
    refine ⟨by rw [hlist.entrySeq, newEntry_entrySeq]; rfl, fun n hn hfree hfirst => ?_, fun hfull => ?_⟩
    · rw [newEntry_free code subject (findIdx?_free hfree hfirst)] at hlist
      obtain ⟨hset, hnotice, htag, hbody⟩ := entryAt_spec s code subject hn
      exact ⟨by rw [hlist.free, hset], hlist.notice _ hnotice, (htag.sameList hlist).spelt,
        (hlist.readBytes _ 28).trans hbody⟩
    · rw [newEntry_full code subject hfull] at hlist
      refine ⟨?_, ?_, fun a ha ha' => ?_⟩
      · rw [hlist.readNat, readNat_header _ _ (by decide)]
        exact Nat.mod_eq_of_lt (Nat.lt_of_le_of_lt (Nat.min_le_left _ _) (by decide))
      · rw [hlist.counter, header_port]
        rfl
      · rw [hlist.readByte, readByte_header_outside _ _ _ _ (by omega)]
        rfl
  · have hn : n < 32 := lt_of_joins (s := s) (code := code) (subject := subject) hjoins
    rw [listRaise_joins (show Joins s code subject n from hjoins)] at hlist
    obtain ⟨hseq, hfree, htag, hcount, hreact, hhead, hmid, htail⟩ := countEntry_spec s hn code
    exact ⟨hlist.entrySeq.trans hseq, hlist.free.trans hfree, (htag.sameList hlist).spelt, (hlist.readNat _ _).trans hcount,
      (hlist.readByte _).trans hreact, (hlist.readBytes _ _).trans hhead, (hlist.readBytes _ _).trans hmid,
      (hlist.readBytes _ _).trans htail⟩
  · have hn : n < 32 := lt_of_activeEntry hentry
    have hclear : SameList _ u := sameList_clearCore hf hentry
    obtain ⟨htag, hstate, hreact, hhead, htail⟩ := clearEntry_spec s hn code
    have hlatched : SameList (s.clearEntry n code true) ((s.clearEntry n code true).latch .fault) :=
      ⟨rfl, rfl, rfl, rfl, fun i h => latch_keeps _ .fault i h⟩
    have hall := hlatched.trans hclear
    exact ⟨hclear.notice _ (latch_noticed _ _), (htag.sameList hall).spelt, (hall.readByte _).trans hstate,
      (hall.readByte _).trans hreact, (hall.readBytes _ _).trans hhead, (hall.readBytes _ _).trans htail⟩

end Sys2Proof.Proofs.FaultList
end

section
/-! PROOFS. The live image, roll slots, and entering and leaving CONFIG (6.3, 10.6, 11.2). -/

namespace Sys2Proof.Proofs.ImageAndConfig
open Sys2Proof.Machine Sys2Proof.Proofs.FaultFacts Sys2Proof.Proofs.MemoryFacts Sys2Proof.Proofs.FaultList
open Sys2Proof.Proofs.Lookups

/-! ## FREEZE and THAW (R177) -/

/-- The freeze state changes, and exchange memory with it. -/
theorem setFreeze_eq (s : State) (f : Freeze) :
    s.setFreeze f = { s with port := { s.port with freeze := f }, mem := (s.setFreeze f).mem } := partStore_eq _ _ _

theorem setFreeze_byte (s : State) (f : Freeze) : (s.setFreeze f).readByte 0x1BFC = byte f.code :=
  partStore_inside _ 0x1BFC [byte f.code, 0] (partRange_image (by decide) (by simp)) (by simp [memSize]) (le_refl _) (by simp)

/-- The image is frozen at once, or once the running refresh has ended. -/
def freezeTaken (s : State) : State := if s.port.refreshRunning then s.setFreeze .freezing else s.freezeImage

theorem freezeCommand_eq {s : State} (hphase : s.port.phase ≠ .starting) (hthawed : s.port.freeze = .thawed) :
    s.freezeCommand = freezeTaken s := if_neg (by simp [hphase, hthawed])

theorem freezeCommand_again {s : State} (h : s.port.freeze ≠ .thawed) : s.freezeCommand = s := if_pos (.inr h)

theorem thawCommand_eq {s : State} (hphase : s.port.phase ≠ .starting) (hfreeze : s.port.freeze ≠ .thawed) :
    s.thawCommand = s.setFreeze .thawed := if_neg (by simp [hphase, hfreeze])

theorem thawCommand_again {s : State} (h : s.port.freeze = .thawed) : s.thawCommand = s := if_pos (.inr h)

theorem freezeImage_eq (s : State) : s.freezeImage = { s with
    port := { s.port with freeze := .frozen, notice := s.freezeImage.port.notice }, mem := s.freezeImage.mem } := by
  have h := setFreeze_eq s .frozen
  rw [State.freezeImage, h]
  rfl

theorem freezeImage_spec (s : State) : s.freezeImage.port.freeze = .frozen ∧ s.freezeImage.noticed .frozen = true
    ∧ s.freezeImage.readByte 0x1BFC = byte Freeze.frozen.code := by
  refine ⟨?_, latch_noticed _ _, setFreeze_byte s .frozen⟩
  rw [freezeImage_eq]

/-! ## The refresh (R176) -/

theorem packGroup_eq {len : Nat} {l : List Byte} (h : l.length ≤ len) :
    packGroup len l = l ++ List.replicate (len - l.length) 0 := by
  unfold packGroup
  exact List.take_of_length_le (by simp; omega)

theorem packGroup_length (len : Nat) (l : List Byte) : (packGroup len l).length = len := by
  unfold packGroup
  rw [List.length_take, List.length_append, List.length_replicate]
  omega

theorem imageGroups_length (s : State) : s.imageGroups.length = 762 := by
  simp only [State.imageGroups, List.length_append, packGroup_length]

theorem intBytes_length (len : Nat) (v : Int) : (intBytes len v).length = len := natBytes_length len _

/-- The image's groups begin with the two coordinates. -/
theorem imageGroups_coordinates (s : State) : ∃ rest, s.imageGroups = intBytes 6 s.posW ++ (intBytes 6 s.posWF ++ rest) := by
  have hlen : s.imageCoord.length ≤ 62 := by
    simp [State.imageCoord, packCoordinate, packSigned, packCount, intBytes_length, natBytes_length]
  unfold State.imageGroups
  rw [packGroup_eq hlen]
  simp only [State.imageCoord, packCoordinate, List.append_assoc]
  exact ⟨_, rfl⟩

/-- A refresh begins with its next number. -/
def refreshBegun (s : State) : State :=
  { s with port := { s.port with refreshNo := nextCyclic 65535 s.port.refreshNo, refreshRunning := true } }

/-- Only exchange port and exchange memory have changed. -/
def PortMem (s t : State) : Prop := t = { s with port := t.port, mem := t.mem }

theorem PortMem.trans {s t u : State} (h : PortMem s t) (k : PortMem t u) : PortMem s u := by
  unfold PortMem at *
  rw [k, h]

theorem portMem_freezeImage (s : State) : PortMem s s.freezeImage := by
  unfold PortMem
  rw [freezeImage_eq]

/-- A refresh has ended and its number is written last. -/
def refreshEnded (s : State) : State :=
  State.partStore { s with port := { s.port with refreshRunning := false } } 0x1BFC
    ([byte s.port.freeze.code, 0] ++ natBytes 2 s.port.refreshNo)

theorem refreshEnded_eq (s : State) : refreshEnded s =
    { s with port := { s.port with refreshRunning := false }, mem := (refreshEnded s).mem } := partStore_eq _ _ _

theorem portMem_refreshEnded (s : State) : PortMem s (refreshEnded s) := by
  unfold PortMem
  rw [refreshEnded_eq]

theorem refreshEnded_number (s : State) : (refreshEnded s).readBytes 0x1BFE 2 = natBytes 2 s.port.refreshNo := by
  have hlen : ([byte s.port.freeze.code, 0] ++ natBytes 2 s.port.refreshNo ++ []).length = 4 := by
    simp [natBytes_length]
  have := readBytes_partStore_mid { s with port := { s.port with refreshRunning := false } } (a := 0x1BFC)
    (pre := [byte s.port.freeze.code, 0]) (mid := natBytes 2 s.port.refreshNo) (post := [])
    (by rw [hlen]; exact partRange_image (by decide) (by decide)) (by rw [hlen]; decide)
  rwa [natBytes_length, List.append_nil] at this

theorem refreshFinish_eq {s : State} (h : s.port.refreshRunning = true) : s.refreshFinish =
    if s.port.freeze = .freezing then (refreshEnded s).freezeImage else refreshEnded s := by
  unfold State.refreshFinish
  rw [if_pos h]
  extract_lets t u
  have hfreeze : u.port.freeze = s.port.freeze := by simp only [u, t]
  rw [hfreeze]
  rfl

theorem freezeImage_readBytes (s : State) : s.freezeImage.readBytes 0x1BFE 2 = s.readBytes 0x1BFE 2 :=
  readBytes_partStore_outside _ _ _ (.inr (by simp))

/-- Settles O53: FREEZE, THAW, the tick and the end of a refresh, each case of the freeze state. -/
theorem freezeAndRefresh : Obligations.FreezeAndRefresh := by
  intro s
  refine ⟨fun h => ⟨congrArg Host.Outcome.next (if_pos (.inl h)), congrArg Host.Outcome.next (if_pos (.inl h))⟩,
    fun hphase => ⟨fun h => congrArg Host.Outcome.next (freezeCommand_again h),
      fun h => congrArg Host.Outcome.next (thawCommand_again h), fun h => ?_, fun h => ?_⟩,
    fun h => congrArg Host.Outcome.next (if_neg ?_), fun hfreeze hidle => ?_,
    fun h => congrArg Host.Outcome.next (if_neg (by rw [h]; exact Bool.false_ne_true)), fun hrun => ?_⟩
  · refine ⟨_, congrArg Host.Outcome.next (freezeCommand_eq hphase h), ?_⟩
    unfold freezeTaken
    split
    next hrun =>
      refine ⟨?_, fun hno => ?_, ?_, ?_⟩
      · rw [setFreeze_eq]
      · rw [hno] at hrun
        exact absurd hrun Bool.false_ne_true
      · rw [setFreeze_byte, setFreeze_eq]
      · rw [setFreeze_eq]
    next =>
      obtain ⟨hst, hnotice, hbyte⟩ := freezeImage_spec s
      refine ⟨hst, fun _ => hnotice, ?_, ?_⟩
      · rw [hbyte, hst]
      · rw [hst]
        exact freezeImage_eq s
  · refine ⟨_, congrArg Host.Outcome.next (thawCommand_eq hphase h), ?_, setFreeze_byte s .thawed, setFreeze_eq s .thawed⟩
    rw [setFreeze_eq]
  · rcases h with h | h <;> simp [h]
  · have hnow : s.refreshStart
        = (refreshBegun s).partStore 0x1900 (natBytes 2 (refreshBegun s).port.refreshNo ++ (refreshBegun s).imageGroups) :=
      if_pos ⟨hfreeze, hidle⟩
    obtain ⟨rest, hgroups⟩ := imageGroups_coordinates (refreshBegun s)
    have hlen : (natBytes 2 (refreshBegun s).port.refreshNo ++ (refreshBegun s).imageGroups).length = 764 := by
      rw [List.length_append, natBytes_length, imageGroups_length]
    have hport : s.refreshStart.port = (refreshBegun s).port := by rw [hnow, partStore_port]
    have field {pre mid post : List Byte}
        (h : natBytes 2 (refreshBegun s).port.refreshNo ++ (refreshBegun s).imageGroups = pre ++ mid ++ post) :
        s.refreshStart.readBytes (0x1900 + pre.length) mid.length = mid := by
      rw [hnow, h]
      rw [h] at hlen
      exact readBytes_partStore_mid _ (by rw [hlen]; exact partRange_image (by decide) (by decide)) (by rw [hlen]; decide)
    refine ⟨_, rfl, hport, ?_, fun a ha => ?_, ?_, ?_, ?_⟩
    · rw [hport, hnow]
      exact partStore_eq _ _ _
    · rw [hnow]
      exact partStore_outside _ _ _ (by rw [hlen]; omega)
    · have := field (pre := []) (mid := natBytes 2 (refreshBegun s).port.refreshNo) (post := (refreshBegun s).imageGroups) rfl
      rw [natBytes_length] at this
      rw [hport]
      exact this
    · have := field (pre := natBytes 2 (refreshBegun s).port.refreshNo) (mid := intBytes 6 (refreshBegun s).posW)
        (post := intBytes 6 (refreshBegun s).posWF ++ rest) (by rw [hgroups, List.append_assoc])
      rwa [natBytes_length, intBytes_length] at this
    · have := field (pre := natBytes 2 (refreshBegun s).port.refreshNo ++ intBytes 6 (refreshBegun s).posW)
        (mid := intBytes 6 (refreshBegun s).posWF) (post := rest) (by rw [hgroups]; simp only [List.append_assoc])
      rwa [List.length_append, natBytes_length, intBytes_length, intBytes_length] at this
  · refine ⟨_, congrArg Host.Outcome.next (refreshFinish_eq hrun), ?_⟩
    have hended := refreshEnded_eq s
    split
    next hfreezing =>
      have himage := freezeImage_eq (refreshEnded s)
      refine ⟨?_, ?_, (freezeImage_spec _).1, fun _ => (freezeImage_spec _).2.1, ?_, ?_⟩
      · rw [himage, hended]
      · rw [himage, hended]
      · rw [freezeImage_readBytes, refreshEnded_number]
      · exact PortMem.trans (t := refreshEnded s) (portMem_refreshEnded s) (portMem_freezeImage _)
    next hother =>
      refine ⟨?_, ?_, ?_, fun h => absurd h hother, refreshEnded_number s, ?_⟩
      · rw [hended]
      · rw [hended]
      · rw [hended]
      · exact portMem_refreshEnded s

/-! ## A record moves into a roll slot (R121) -/

theorem flatten_pairs_length (l : List (List Byte)) (h : ∀ x ∈ l, x.length = 2) : l.flatten.length = 2 * l.length := by
  induction l with
  | nil => rfl
  | cons x l ih =>
    rw [List.flatten_cons, List.length_append, h x List.mem_cons_self, ih fun y hy => h y (List.mem_cons_of_mem _ hy),
      List.length_cons]
    omega

theorem rollBytes_length {r : RollRec} (h : r.others.length ≤ 7) : r.bytes.length = 92 := by
  have hcounts : (r.others.map (fun e => natBytes 2 (saturate 65535 e.2))).flatten.length = 2 * r.others.length := by
    rw [flatten_pairs_length _ fun x hx => ?_, List.length_map]
    obtain ⟨e, -, rfl⟩ := List.mem_map.mp hx
    exact natBytes_length _ _
  unfold RollRec.bytes
  extract_lets slots counts
  simp only [List.length_append, natBytes_length, intBytes_length, List.length_cons, List.length_nil, List.length_replicate,
    slots, counts, List.length_map, hcounts]
  omega

/-- The slot of a moved record, its tag last. -/
def recordWritten (s : State) (r : RollRec) (n : Nat) : State :=
  let t := s.partStore (rollSlotAddr n + 4) r.bytes
  (t.partStore (rollSlotAddr n) [byte (nextTag (t.readNat (rollSlotAddr n) 1) (t.readNat (rollSlotAddr n + 2) 1)), 0]).tagWritten

/-- The record has left the queue and ROLL is latched. -/
def recordGone (s : State) (r : RollRec) (n : Nat) : State :=
  State.latch (State.setRolls (recordWritten s r n) (fun u => { u with queue := u.queue.drop 1 })) .roll

theorem moveRecord_eq (s : State) (r : RollRec) (n : Nat) :
    s.moveRecord r n = ((recordGone s r n).clear recordHoldFull 0).reassess := rfl

theorem moveRecords_ready {s : State} {r : RollRec} {tail : List RollRec} (n : Nat) (rest : List Nat) (hq : s.rolls.queue = r :: tail)
    (hlabel : r.label = .applied ∨ r.label = .failed) :
    s.moveRecords (n :: rest) = (s.moveRecord r n).moveRecords rest := by
  rw [State.moveRecords, hq]
  exact if_pos hlabel

theorem moveRecords_waiting {s : State} {r : RollRec} {tail : List RollRec} (n : Nat) (rest : List Nat)
    (hq : s.rolls.queue = r :: tail) (happlied : r.label ≠ .applied) (hfailed : r.label ≠ .failed) :
    s.moveRecords (n :: rest) = s := by
  rw [State.moveRecords, hq]
  exact if_neg (by simp [happlied, hfailed])

theorem moveRecords_empty {s : State} (n : Nat) (rest : List Nat) (hq : s.rolls.queue = []) :
    s.moveRecords (n :: rest) = s := by
  rw [State.moveRecords, hq]

/-- A tag write changes counter and exchange memory alone. -/
theorem tagWritten_eq (s : State) : s.tagWritten =
    { s with port := { s.port with counter := nextCyclic 255 s.port.counter }, mem := s.tagWritten.mem } := by
  rw [State.tagWritten, State.header]
  exact partStore_eq _ _ _

theorem recordWritten_eq (s : State) (r : RollRec) (n : Nat) : recordWritten s r n =
    { s with port := { s.port with counter := nextCyclic 255 s.port.counter }, mem := (recordWritten s r n).mem } := by
  unfold recordWritten
  extract_lets t
  have ht : t = { s with mem := t.mem } := partStore_eq _ _ _
  clear_value t
  rw [tagWritten_eq, partStore_eq t, ht]

theorem rollSlot_fits {n : Nat} (hn : n < 32) : rollSlotAddr n + 96 ≤ 0x1400 := by
  unfold rollSlotAddr
  omega

theorem nextTag_new {prev : Nat} (hprev : prev ≤ 255) (ack : Nat) :
    nextTag prev ack ≠ 0 ∧ nextTag prev ack ≠ prev ∧ nextTag prev ack ≠ ack := by
  unfold nextTag nextCyclic
  grind

/-- The bytes of the slot of a moved record. -/
theorem recordWritten_read (s : State) {r : RollRec} (hr : r.bytes.length = 92) {n : Nat} (hn : n < 32) :
    (recordWritten s r n).readBytes (rollSlotAddr n + 4) 92 = r.bytes
      ∧ ((recordWritten s r n).readByte (rollSlotAddr n)).toNat
          = nextTag (s.readByte (rollSlotAddr n)).toNat (s.readByte (rollSlotAddr n + 2)).toNat
      ∧ (recordWritten s r n).readByte (rollSlotAddr n + 2) = s.readByte (rollSlotAddr n + 2)
      ∧ ∀ x, 0x40 ≤ x → x < rollSlotAddr n ∨ rollSlotAddr n + 96 ≤ x → (recordWritten s r n).readByte x = s.readByte x := by
  have hfit := rollSlot_fits hn
  have hge : 0x800 ≤ rollSlotAddr n := Nat.le_add_right _ _
  have hmem : memSize = 8192 := rfl
  unfold recordWritten
  extract_lets t
  have ht (x : Nat) (hx : x < rollSlotAddr n + 4 ∨ rollSlotAddr n + 96 ≤ x) : t.readByte x = s.readByte x :=
    partStore_outside s _ _ (by rw [hr]; omega)
  have hbody : t.readBytes (rollSlotAddr n + 4) 92 = r.bytes := by
    have := readBytes_partStore_same s (a := rollSlotAddr n + 4) (bs := r.bytes)
      (by rw [hr]; exact partRange_rollSlot hn (.inr ⟨by decide, by decide⟩)) (by rw [hr]; omega)
    rwa [hr] at this
  clear_value t
  have hout (x : Nat) (hx : x ≠ 0x0A) (hx' : x < rollSlotAddr n ∨ rollSlotAddr n + 2 ≤ x) (v : Nat) :
      (t.partStore (rollSlotAddr n) [byte v, 0]).tagWritten.readByte x = t.readByte x :=
    (tagWritten_outside _ hx).trans (partStore_outside t _ _ (by simpa using hx'))
  refine ⟨?_, ?_, ?_, fun x hx hx' => ?_⟩
  · rw [← hbody]
    exact readBytes_congr fun x hx hx' => hout x (by omega) (by omega) _
  · have htag (v : Nat) : (t.partStore (rollSlotAddr n) [byte v, 0]).readByte (rollSlotAddr n) = byte v := by
      have := partStore_inside t (rollSlotAddr n) [byte v, 0] (partRange_rollSlot (j := 0) hn (.inl (le_refl 2)))
        (by simp only [List.length_cons, List.length_nil]; omega) (le_refl _) (by simp)
      rw [Nat.sub_self] at this
      exact this
    rw [tagWritten_outside _ (by omega), htag, byte_toNat (Nat.lt_succ_of_le (nextTag_le _ _)), readNat_one, readNat_one,
      ht _ (by omega), ht _ (by omega)]
  · rw [hout _ (by omega) (by omega), ht _ (by omega)]
  · rw [hout _ (by omega) (by omega), ht _ (by omega)]

theorem recordGone_readByte (s : State) (r : RollRec) (n x : Nat) :
    (recordGone s r n).readByte x = (recordWritten s r n).readByte x := by
  simp only [State.readByte, recordGone, latch_mem, setRolls_mem]

/-- Settles O55: the head record's slot is written, its tag last, and only then does it leave the queue. -/
theorem rollMovedToSlot : Obligations.RollMovedToSlot := by
  intro s n rest hn
  refine ⟨fun hq => moveRecords_empty n rest hq, fun r tail hq ha hf => moveRecords_waiting n rest hq ha hf, ?_⟩
  intro r tail hq hlabel hothers a
  have hlen := rollBytes_length hothers
  obtain ⟨hbody, htag, hack, hrest⟩ := recordWritten_read s hlen hn
  simp only [← recordGone_readByte] at htag hack hrest
  have hgone : recordGone s r n = { s with
      mem := (recordGone s r n).mem,
      port := { s.port with notice := (recordGone s r n).port.notice, counter := (recordGone s r n).port.counter },
      rolls := { s.rolls with queue := tail } } := by
    have hdrop : s.rolls.queue.drop 1 = tail := by rw [hq]; rfl
    obtain ⟨c, m, hx⟩ : ∃ c m, recordWritten s r n = { s with port := { s.port with counter := c }, mem := m } :=
      ⟨_, _, recordWritten_eq s r n⟩
    rw [← hdrop, recordGone, hx]
    rfl
  obtain ⟨hzero, hold, hnew⟩ := nextTag_new (Nat.le_of_lt_succ (s.readByte (rollSlotAddr n)).isLt)
    (s.readByte (rollSlotAddr n + 2)).toNat
  rw [← htag] at hzero hold hnew
  have hport : (recordGone s r n).port.counter = nextCyclic 255 s.port.counter := by
    rw [recordGone, latch_port, setRolls_port, recordWritten_eq]
  refine ⟨recordGone s r n, ?_, hgone, latch_noticed _ _, hport, hlen, ?_, ?_, ?_, ?_,
    ?_, ?_, ?_⟩
  · rw [moveRecords_ready n rest hq hlabel, moveRecord_eq]
  · exact (readBytes_congr fun x _ _ => recordGone_readByte s r n x).trans hbody
  · exact htag
  · exact hzero
  · exact fun h => hold (congrArg _ h)
  · exact fun h => hnew (congrArg BitVec.toNat (h.trans hack))
  · exact hack
  · exact hrest

/-! ## A standing fault unit (R158) -/

/-- State, lines and pulse of the fault unit are as they were. -/
structure Stands (s t : State) : Prop where
  st : t.fault.st = s.fault.st
  stopA : t.fault.stopA = s.fault.stopA
  stopB : t.fault.stopB = s.fault.stopB
  pulse : t.fault.pulse = s.fault.pulse

theorem Stands.refl (s : State) : Stands s s := ⟨rfl, rfl, rfl, rfl⟩

theorem Stands.trans {s t u : State} (h : Stands s t) (k : Stands t u) : Stands s u :=
  ⟨k.st.trans h.st, k.stopA.trans h.stopA, k.stopB.trans h.stopB, k.pulse.trans h.pulse⟩

theorem Stands.of_fault {s t : State} (h : t.fault = s.fault) : Stands s t := by constructor <;> rw [h]

theorem Stands.of_list {s t : State} (h : ListOnly s t) : Stands s t := by constructor <;> rw [h.fault]

theorem Stands.faultSettle {s t : State} (h : Stands s t) (hst : t.fault.st = .config) : Stands s t.faultSettle := by
  rw [faultSettle_standing (.inl hst)]
  exact h

theorem stands_clearCore {s : State} (code subject : Nat) (h : s.fault.st = .config) : Stands s (s.clearCore code subject) := by
  unfold State.clearCore
  split
  · split
    next n _ =>
      have hlist := Stands.of_list ((listOnly_clearEntry s n code true).trans (listOnly_latch _ .fault))
      exact Stands.faultSettle ⟨hlist.st, hlist.stopA, hlist.stopB, hlist.pulse⟩ (hlist.st.trans h)
    next => exact Stands.faultSettle ⟨rfl, rfl, rfl, rfl⟩ h
  · exact .refl s

/-- In CONFIG the loops' reactions leave the fault unit's state, lines and pulse. -/
theorem stands_settle {s : State} (h : s.fault.st = .config) : Stands s s.settle := by
  have hlifted (t : State) (ht : t.fault.st = .config) : Stands t t.enterLifted := by
    have hfirst := stands_clearCore (s := { t with emb := EmbossLoop.liftedEmb t.emb }) embossDriveTimeout 0 ht
    have hstate : Stands t (EmbossLoop.liftedState t) :=
      Stands.trans (t := { t with emb := EmbossLoop.liftedEmb t.emb }) (.of_fault rfl)
        (hfirst.trans (stands_clearCore embossRegisterLoss 0 (hfirst.st.trans ht)))
    rw [EmbossLoop.enterLifted_eq]
    split
    · exact hstate.trans (.of_fault rfl)
    · split
      · exact hstate
      · exact hstate.trans (.of_fault rfl)
  refine (Stands.of_fault (loopsSettle_fault s)).trans ?_
  rw [State.settle]
  unfold State.embossSettle
  split
  · exact .refl _
  · split
    · exact .of_fault rfl
    · exact .refl _
  · split
    · exact hlifted _ h
    · exact .refl _
  · split
    · exact .of_fault rfl
    · exact .refl _
  · split
    · exact .of_fault (sendLift_fault _)
    · exact .refl _
  · exact .refl _

/-! ## CONFIG (R180, R181) -/

theorem settingsStatus_eq (s : State) (status field : Nat) :
    s.settingsStatus status field = { s with mem := (s.settingsStatus status field).mem } := partStore_eq _ _ _

theorem settingsStatus_read (s : State) (status field : Nat) :
    (s.settingsStatus status field).readByte 0x06 = byte status ∧ (s.settingsStatus status field).readByte 0x07 = byte field
      ∧ ∀ a, a ≠ 0x06 → a ≠ 0x07 → (s.settingsStatus status field).readByte a = s.readByte a := by
  have hp : partRange 0x06 [byte status, byte field].length = true := partRange_header (by simp)
  have hf : 0x06 + [byte status, byte field].length ≤ memSize := by simp [memSize]
  exact ⟨partStore_inside s 0x06 [byte status, byte field] hp hf (le_refl _) (by simp),
    partStore_inside s 0x06 [byte status, byte field] hp hf (by decide) (by simp),
    fun a h1 h2 => partStore_outside s _ _ (by simp; omega)⟩

theorem setPhase_eq (s : State) (p : Phase) :
    s.setPhase p = { s with port := { s.port with phase := p }, mem := (s.setPhase p).mem } := by
  rw [State.setPhase, State.header]
  exact partStore_eq _ _ _

theorem setPhase_read (s : State) (p : Phase) : (s.setPhase p).readByte 0x04 = byte p.code := by
  have := readByte_header { s with port := { s.port with phase := p } } (offset := 0x04) (len := 1) p.code (by decide) 0x04
  exact this

theorem setPhase_outside (s : State) (p : Phase) {a : Nat} (h : a ≠ 0x04) : (s.setPhase p).readByte a = s.readByte a :=
  readByte_header_outside _ 0x04 1 _ (by omega)

/-- Part and fault unit are in CONFIG, and a changeover hold has ended. -/
def configTaken (s : State) : State :=
  { (s.setPhase .config).faultToConfig with ord := { (s.setPhase .config).faultToConfig.ord with hold := false } }

/-- The state that ENTER CONFIG settles. -/
def configEntered (s : State) : State := (configTaken s).settingsStatus 0 0

/-- The blocks of `configEntered` as they stand. -/
theorem configEntered_eq (s : State) : configEntered s = { s with
    mem := (configEntered s).mem, port := { s.port with phase := .config },
    fault := { s.fault with st := .config, stopA := false, stopB := false, pulse := .note },
    ord := { s.ord with hold := false } } := by
  obtain ⟨m, hm⟩ : ∃ m, s.setPhase .config = { s with port := { s.port with phase := .config }, mem := m } := ⟨_, setPhase_eq s _⟩
  unfold configEntered configTaken
  rw [settingsStatus_eq, hm]
  rfl

theorem enterConfig_eq {s : State} (hphase : s.port.phase = .operating) (hidle : s.orderRunning = false) :
    s.enterConfig = (configEntered s).settle := by
  unfold State.enterConfig
  rw [if_neg (by simp [hphase]), if_neg (by simp [hidle])]
  rfl

theorem enterConfig_busy {s : State} (hphase : s.port.phase = .operating) (hrun : s.orderRunning = true) :
    s.enterConfig = s.settingsStatus 3 0 := by
  unfold State.enterConfig
  rw [if_neg (by simp [hphase]), if_pos hrun]

/-- The state of an accepted LEAVE CONFIG before the blocks act on it. -/
def settingsAccepted (s : State) : State := State.setPhase (State.acceptHeader { s with settings := s.workingSettings }) .operating

theorem settingsAccepted_eq (s : State) : settingsAccepted s = { s with
    settings := s.workingSettings, mem := (settingsAccepted s).mem,
    port := { s.port with phase := .operating, counter := nextCyclic 255 s.port.counter } } := by
  obtain ⟨m, hm⟩ : ∃ m, State.acceptHeader { s with settings := s.workingSettings } = { s with
      settings := s.workingSettings, port := { s.port with counter := nextCyclic 255 s.port.counter }, mem := m } := by
    obtain ⟨m, hm⟩ : ∃ m, (State.settingsStatus { s with settings := s.workingSettings } 1 0).partStore 0x08
        [byte (State.readNat { s with settings := s.workingSettings } settingsBase 1), 0]
        = { s with settings := s.workingSettings, mem := m } :=
      ⟨_, (partStore_eq _ _ _).trans (by rw [settingsStatus_eq])⟩
    refine ⟨(State.acceptHeader { s with settings := s.workingSettings }).mem, ?_⟩
    rw [State.acceptHeader, hm, tagWritten_eq]
  rw [settingsAccepted, setPhase_eq, hm]

theorem settingsAccepted_read (s : State) : (settingsAccepted s).readByte 0x04 = 2 ∧ (settingsAccepted s).readByte 0x06 = 1
    ∧ (settingsAccepted s).readByte 0x07 = 0 ∧ (settingsAccepted s).readByte 0x08 = s.readByte 0x40 := by
  obtain ⟨hstatus, hfield, -⟩ := settingsStatus_read { s with settings := s.workingSettings } 1 0
  have hlater (a : Nat) (h4 : a ≠ 4) (hA : a ≠ 0x0A) : (settingsAccepted s).readByte a
      = ((State.settingsStatus { s with settings := s.workingSettings } 1 0).partStore 0x08
          [byte (s.readNat settingsBase 1), 0]).readByte a :=
    (setPhase_outside _ _ h4).trans (tagWritten_outside _ hA)
  refine ⟨setPhase_read _ _, ?_, ?_, ?_⟩
  · rw [hlater _ (by decide) (by decide), partStore_outside _ _ _ (by simp), hstatus]
    rfl
  · rw [hlater _ (by decide) (by decide), partStore_outside _ _ _ (by simp), hfield]
    rfl
  · rw [hlater _ (by decide) (by decide), readNat_one]
    have := partStore_inside (State.settingsStatus { s with settings := s.workingSettings } 1 0) 0x08
      [byte (s.readByte settingsBase).toNat, 0] (partRange_header (by simp)) (by simp [memSize]) (le_refl _) (by simp)
    exact this.trans (by simp [byte, settingsBase])

theorem orderRunning_iff (s : State) : s.orderRunning = true ↔ ∃ o ∈ s.ord.orders, o.st = .active ∨ o.st = .ending := by
  simp only [State.orderRunning, List.any_eq_true, decide_eq_true_iff]

theorem acceptSettings_eq (s : State) : s.acceptSettings = State.settlePlan (State.testActivation (State.settle
    (State.judgeFaultState (State.leaveFaultConfig (settingsAccepted s).compareArrangement)))) := rfl

theorem leaveConfig_refused {s : State} (hphase : s.port.phase = .config) {i : Nat} (h : s.badSetting = some i) :
    s.leaveConfig = s.settingsStatus 2 i := by
  rw [State.leaveConfig, if_neg (by simp [hphase]), h]

theorem leaveConfig_accepted {s : State} (hphase : s.port.phase = .config) (h : s.badSetting = none) :
    s.leaveConfig = s.acceptSettings := by
  rw [State.leaveConfig, if_neg (by simp [hphase]), h]

theorem workingSettings_setting (s : State) {i : Nat} (h1 : 1 ≤ i) (h79 : i ≤ 79) :
    s.workingSettings.getD (i - 1) 0 = s.readInt (0x40 + 4 * i) 4 := by
  have hlt : i - 1 < s.workingSettings.length := by
    simp only [State.workingSettings, List.length_map, List.length_range]
    omega
  rw [List.getD_eq_getElem _ _ hlt]
  simp only [State.workingSettings, List.getElem_map, List.getElem_range, Nat.sub_add_cancel h1]
  rfl

/-- Settles O57. -/
theorem configEnteredAndLeft : Obligations.ConfigEnteredAndLeft := by
  intro s
  refine ⟨fun h => congrArg Host.Outcome.next (if_pos h), fun h => congrArg Host.Outcome.next (if_pos h), fun hphase hrun => ?_,
    fun hphase hidle => ?_, fun hphase i hbad => ?_, fun hphase hgood => ?_⟩
  · obtain ⟨hstatus, hfield, hrest⟩ := settingsStatus_read s 3 0
    exact ⟨_, congrArg Host.Outcome.next (enterConfig_busy hphase ((orderRunning_iff s).mpr hrun)), settingsStatus_eq s 3 0,
      hstatus, hfield, hrest⟩
  · have hrun : s.orderRunning = false := by
      rw [Bool.eq_false_iff, Ne, orderRunning_iff]
      rintro ⟨o, ho, h | h⟩
      · exact (hidle o ho).1 h
      · exact (hidle o ho).2 h
    have hentered := configEntered_eq s
    have hconfig : (configEntered s).fault.st = .config := by rw [hentered]
    have hreach := reach_settle (configEntered s)
    have hstands := stands_settle hconfig
    obtain ⟨hstatus, hfield, hrest⟩ := settingsStatus_read (configTaken s) 0 0
    refine ⟨_, congrArg Host.Outcome.next (enterConfig_eq hphase hrun), ?_, ?_, ?_, ?_, ?_, ?_, ?_, ?_, ?_, ?_, ?_, ?_, ?_, ?_, ?_, ?_, ?_⟩
    · rw [hreach.inputs.port, hentered]
    · rw [hreach.bytes _ (by decide)]
      exact (hrest _ (by decide) (by decide)).trans (setPhase_read s .config)
    · rw [hreach.bytes _ (by decide)]
      exact hstatus
    · rw [hreach.bytes _ (by decide)]
      exact hfield
    · rw [hstands.st, hconfig]
    · rw [hstands.stopA, hentered]
    · rw [hstands.stopB, hentered]
    · rw [hstands.pulse, hentered]
    · rw [hreach.orders, hentered]
    · rw [hreach.inputs.coord, hentered]
    · rw [hreach.inputs.settings, hentered]
    · rw [hreach.track, hentered]
    · rw [hreach.draw, hentered]
    · rw [hreach.shade, hentered]
    · rw [hreach.cut, hentered]
    · rw [hreach.winder, hentered]
    · rw [hreach.rolls, hentered]
  · obtain ⟨hstatus, hfield, hrest⟩ := settingsStatus_read s 2 i
    exact ⟨_, congrArg Host.Outcome.next (leaveConfig_refused hphase hbad), settingsStatus_eq s 2 i, hstatus, hfield, hrest⟩
  · have haccepted := settingsAccepted_eq s
    have hset : (settingsAccepted s).settings = s.workingSettings := by rw [haccepted]
    obtain ⟨hphaseByte, hstatus, hfield, htag⟩ := settingsAccepted_read s
    have hsteady : Steady (settingsAccepted s) s.acceptSettings := by
      rw [acceptSettings_eq]
      exact ((((((steady_compareArrangement _).trans (steady_leaveFaultConfig _)).trans (steady_judgeFaultState _)).trans
        (steady_settle _)).trans (steady_testActivation _)).trans (steady_settlePlan _))
    refine ⟨settingsAccepted s, s.acceptSettings, congrArg Host.Outcome.next (leaveConfig_accepted hphase hgood), ?_, fun i h1 h79 => ?_,
      hphaseByte, hstatus, hfield, htag, acceptSettings_eq s, hsteady.settings, ?_⟩
    · rw [hset]
      exact haccepted.trans (by rw [haccepted])
    · rw [State.setting, hset, workingSettings_setting s h1 h79]
    · rw [hsteady.port, haccepted]

end Sys2Proof.Proofs.ImageAndConfig
end

section
/-! PROOFS. What the planner's operations reach (`PlanReach`), lists sorted by a key, and the span boundaries. -/

namespace Sys2Proof.Proofs.PlannerFacts
open Sys2Proof.Machine Sys2Proof.Proofs.FaultFacts Sys2Proof.Proofs.Lookups Sys2Proof.Proofs.StationLoops

/-! ## Sorted lists -/

theorem sortBy_cons {α : Type} (key : α → Int) (a : α) (l : List α) :
    sortBy key (a :: l) = sortBy.insertByFirst key a (sortBy key l) := by
  simp only [sortBy, List.reverse_cons, List.foldl_append, List.foldl_cons, List.foldl_nil]

theorem insertByFirst_perm {α : Type} (key : α → Int) (a : α) (l : List α) : (sortBy.insertByFirst key a l).Perm (a :: l) := by
  induction l with
  | nil => exact .refl _
  | cons b l ih =>
    rw [sortBy.insertByFirst]
    split
    · exact (ih.cons b).trans (.swap a b l)
    · exact .refl _

theorem sortBy_perm {α : Type} (key : α → Int) (l : List α) : (sortBy key l).Perm l := by
  induction l with
  | nil => exact .refl _
  | cons a l ih =>
    rw [sortBy_cons]
    exact (insertByFirst_perm key a _).trans (ih.cons a)

/-- In order of a key, and within one key in rising order. -/
def KeyOrder (key : Nat → Int) (m n : Nat) : Prop := key m < key n ∨ (key m = key n ∧ m < n)

theorem insertByFirst_keyOrder {key : Nat → Int} {a : Nat} {l : List Nat} (hl : l.Pairwise (KeyOrder key)) (ha : ∀ b ∈ l, a < b) :
    (sortBy.insertByFirst key a l).Pairwise (KeyOrder key) := by
  induction l with
  | nil => exact List.pairwise_singleton _ _
  | cons b l ih =>
    rw [List.pairwise_cons] at hl
    rw [sortBy.insertByFirst]
    split
    next hlt =>
      refine List.pairwise_cons.mpr ⟨fun c hc => ?_, ih hl.2 fun c hc => ha c (List.mem_cons_of_mem _ hc)⟩
      rcases List.mem_cons.mp ((insertByFirst_perm key a l).mem_iff.mp hc) with rfl | hmem
      · exact .inl hlt
      · exact hl.1 c hmem
    next hge =>
      have hab : KeyOrder key a b := by
        rcases Int.lt_or_eq_of_le (not_lt.mp hge) with h | h
        · exact .inl h
        · exact .inr ⟨h, ha b List.mem_cons_self⟩
      refine List.pairwise_cons.mpr ⟨fun c hc => ?_, List.pairwise_cons.mpr hl⟩
      rcases List.mem_cons.mp hc with rfl | hmem
      · exact hab
      · have hac := ha c hc
        rcases hab with hab | hab <;> rcases hl.1 c hmem with h | h
        · exact .inl (hab.trans h)
        · exact .inl (h.1 ▸ hab)
        · exact .inl (hab.1 ▸ h)
        · exact .inr ⟨hab.1.trans h.1, hac⟩

/-- A rising list sorted by a key keeps the order of entries with one key. -/
theorem sortBy_keyOrder {key : Nat → Int} {l : List Nat} (hl : l.Pairwise (fun a b => a < b)) :
    (sortBy key l).Pairwise (KeyOrder key) := by
  induction l with
  | nil => exact .nil
  | cons a l ih =>
    rw [List.pairwise_cons] at hl
    rw [sortBy_cons]
    exact insertByFirst_keyOrder (ih hl.2) fun b hb => hl.1 b ((sortBy_perm key l).mem_iff.mp hb)

theorem range_rising (n : Nat) : (List.range n).Pairwise (fun a b => a < b) := List.pairwise_lt_range

/-! ## Span boundaries -/

/-- The boundaries ahead depend on the units, the copies of the orders, positions and settings. -/
theorem firstAhead_congr {s t : State} (htrack : t.track = s.track) (hbody : ∀ n, t.body n = s.body n) (hcoord : t.coord = s.coord)
    (hset : t.settings = s.settings) : t.firstAhead = s.firstAhead := by
  have hspan : t.spanStart = s.spanStart := by
    funext u
    simp only [State.spanStart, State.phaseF, State.feP, setting_congr hset, hbody]
  have hlead : t.leadAhead = s.leadAhead := by
    funext x
    have hmark : t.posHF = s.posHF := by rw [State.posHF, hcoord]; rfl
    have hcut : t.yCut = s.yCut := by simp only [State.yCut, State.feP, setting_congr hset]
    have hleadF : t.leadF = s.leadF := by simp only [State.leadF, State.feP, setting_congr hset]
    rw [State.leadAhead, State.leadAhead, hmark, hcut, hleadF]
  rw [State.firstAhead, State.boundaries, htrack, hspan, hlead]
  rfl

/-! ## Nodes that are not PRESENT -/

/-- A node that is not PRESENT and has nothing waiting is as it was. -/
def IdleKept (s t : State) : Prop :=
  ∀ (i : Nat) (n : Node), s.link.nodes[i]? = some n → n.st ≠ .present → n.waiting = [] → t.link.nodes[i]? = some n

theorem IdleKept.of_link {s t : State} (h : t.link = s.link) : IdleKept s t := fun i n hn _ _ => by rw [h, hn]

theorem IdleKept.refl (s : State) : IdleKept s s := .of_link rfl

theorem IdleKept.trans {s t u : State} (h : IdleKept s t) (k : IdleKept t u) : IdleKept s u :=
  fun i n hn hst hwaiting => k i n (h i n hn hst hwaiting) hst hwaiting

theorem IdleKept.ite {c : Prop} [Decidable c] {s t u : State} (h : IdleKept s t) (k : IdleKept s u) :
    IdleKept s (if c then t else u) := by
  split
  · exact h
  · exact k

theorem IdleKept.foldl {α : Type} {f : State → α → State} (h : ∀ s a, IdleKept s (f s a)) (l : List α) (s : State) :
    IdleKept s (l.foldl f s) := by
  induction l generalizing s with
  | nil => exact .refl s
  | cons a l ih => exact (h s a).trans (ih _)

/-- A command goes to a PRESENT node alone. -/
theorem idle_hand (s : State) (t : Target) (c : LinkCmd) : IdleKept s (s.hand t c).1 := by
  intro i n hn hst _
  unfold State.hand
  split
  next => exact hn
  next j hj =>
    split
    next => exact hn
    next m hm =>
      have hother (f : Node → Node) (hpresent : m.st = .present) : (s.setNode j f).link.nodes[i]? = some n := by
        show (modifyAt f j s.link.nodes)[i]? = _
        rw [Lookups.getElem?_modifyAt, if_neg, hn]
        rintro rfl
        rw [hn, Option.some.injEq] at hm
        exact hst (hm ▸ hpresent)
      split
      next => exact hn
      next hpresent =>
        split
        next => exact hother _ (not_not.mp hpresent)
        next =>
          split
          next => exact hn
          next => exact hother _ (not_not.mp hpresent)

theorem idle_sendLift (s : State) : IdleKept s s.sendLift := by
  unfold State.sendLift
  extract_lets src t
  have ht : IdleKept s t := .of_link rfl
  clear_value t
  have hhand := idle_hand t .emboss .lift
  split
  · rename_i heq
    rw [heq] at hhand
    exact ht.trans hhand
  · rename_i u heq
    rw [heq] at hhand
    exact (ht.trans hhand).trans (idle_hand { u with emb := { u.emb with resent := true } } .emboss .lift)

theorem idle_clearCore (s : State) (code subject : Nat) : IdleKept s (s.clearCore code subject) :=
  .of_link (faultOnly_clearCore s code subject).link

theorem idle_enterLifted (s : State) : IdleKept s s.enterLifted := by
  unfold State.enterLifted
  extract_lets src t u
  have hclear : IdleKept t u := (idle_clearCore _ _ _).trans (idle_clearCore _ _ _)
  exact hclear.trans (.ite (.of_link rfl) (.ite (.refl u) (.of_link rfl)))

theorem idle_embossSettle (s : State) : IdleKept s s.embossSettle := by
  unfold State.embossSettle
  split
  · exact .refl s
  · exact .ite (.of_link rfl) (.refl s)
  · exact .ite (idle_enterLifted s) (.refl s)
  · exact .ite (.of_link rfl) (.refl s)
  · exact .ite (idle_sendLift s) (.refl s)
  · exact .refl s

theorem idle_settle (s : State) : IdleKept s s.settle := idle_embossSettle s.loopsSettle

theorem idle_raise (s : State) (code subject : Nat) : IdleKept s (s.raise code subject) :=
  IdleKept.trans (.of_link (faultOnly_raiseCore s code subject).link) (idle_settle _)

theorem idle_clear (s : State) (code subject : Nat) : IdleKept s (s.clear code subject) :=
  (idle_clearCore s code subject).trans (idle_settle _)

/-! ## How far the planner reaches -/

/-- From `s` to `t` nothing has changed but planner and winder, and what a raise or clear of a fault reaches. -/
structure PlanReach (s t : State) : Prop extends State.faultReach { s with cut := t.cut, winder := t.winder } t where
  idle : IdleKept s t

theorem PlanReach.of_reach {s t : State} {a : Planner} {b : Winder} (h : State.faultReach { s with cut := a, winder := b } t)
    (k : IdleKept s t) : PlanReach s t where
  pending := h.pending
  inputs := ⟨h.inputs.coord, h.inputs.settings, h.inputs.printer, h.inputs.port, h.inputs.notice, h.inputs.host⟩
  track := h.track
  register := h.register
  draw := h.draw
  shade := h.shade
  cut := rfl
  winder := rfl
  rolls := h.rolls
  orders := h.orders
  freeIdx := h.freeIdx
  link := h.link
  nodes := h.nodes
  bytes := h.bytes
  idle := k

theorem PlanReach.trans {s t u : State} (h : PlanReach s t) (k : PlanReach t u) : PlanReach s u where
  pending := k.pending.trans h.pending
  inputs := ⟨k.inputs.coord.trans h.inputs.coord, k.inputs.settings.trans h.inputs.settings,
    k.inputs.printer.trans h.inputs.printer, by rw [k.inputs.port, h.inputs.port],
    fun i hi => k.inputs.notice i (h.inputs.notice i hi), fun a ha => (k.inputs.host a ha).trans (h.inputs.host a ha)⟩
  track := k.track.trans h.track
  register := by rw [k.register, h.register]
  draw := k.draw.trans h.draw
  shade := k.shade.trans h.shade
  cut := rfl
  winder := rfl
  rolls := k.rolls.trans h.rolls
  orders := k.orders.trans h.orders
  freeIdx := k.freeIdx.trans h.freeIdx
  link := by rw [k.link, h.link]
  nodes := k.nodes.trans h.nodes
  bytes := fun a ha => (k.bytes a ha).trans (h.bytes a ha)
  idle := h.idle.trans k.idle

theorem PlanReach.of_faultReach {s t : State} (h : s.faultReach t) (k : IdleKept s t) : PlanReach s t :=
  .of_reach (a := s.cut) (b := s.winder) h k

theorem PlanReach.refl (s : State) : PlanReach s s := .of_faultReach (.refl s) (.refl s)

theorem PlanReach.ite {c : Prop} [Decidable c] {s t u : State} (h : PlanReach s t) (k : PlanReach s u) :
    PlanReach s (if c then t else u) := by
  split
  · exact h
  · exact k

theorem PlanReach.foldl {α : Type} {f : State → α → State} (h : ∀ s a, PlanReach s (f s a)) (l : List α) (s : State) :
    PlanReach s (l.foldl f s) := by
  induction l generalizing s with
  | nil => exact .refl s
  | cons a l ih => exact (h s a).trans (ih _)

theorem plan_setCut (s : State) (f : Planner → Planner) : PlanReach s (s.setCut f) :=
  .of_reach (a := f s.cut) (b := s.winder) (.refl _) (.of_link rfl)

theorem plan_setWinder (s : State) (f : Winder → Winder) : PlanReach s (s.setWinder f) :=
  .of_reach (a := s.cut) (b := f s.winder) (.refl _) (.of_link rfl)

theorem plan_raise (s : State) (code subject : Nat) : PlanReach s (s.raise code subject) :=
  .of_faultReach (reach_raise _ _ _) (idle_raise _ _ _)

theorem plan_clear (s : State) (code subject : Nat) : PlanReach s (s.clear code subject) :=
  .of_faultReach (reach_clear _ _ _) (idle_clear _ _ _)

theorem plan_setPlan (s : State) (plan : List PlanEntry) : PlanReach s (s.setPlan plan) :=
  (plan_setCut s _).trans (.ite (plan_clear _ _ _) (.refl _))

theorem plan_report (s : State) (r : PlanReport) : PlanReach s (s.report r) := plan_setCut s _

theorem plan_countFrom (s : State) (x : Int) : PlanReach s (s.countFrom x) := by
  unfold State.countFrom
  split
  · exact .refl s
  · exact .ite (plan_setCut s _) (.refl s)

theorem plan_stripTarget (s : State) (x : Int) : PlanReach s (s.stripTarget x) := plan_setPlan s _

theorem plan_placed (s : State) (kind : CutKind) (x : Int) (opening : Bool) : PlanReach s (s.placed kind x opening) := by
  unfold State.placed
  extract_lets t
  have h : PlanReach s t := by
    dsimp only [t]
    split
    · exact (plan_setCut s _).trans (plan_report _ _)
    · exact plan_setCut s _
    · exact plan_report s _
    all_goals exact .refl s
  exact h.trans (.ite (plan_countFrom t x) (.refl t))

theorem plan_planFull (s : State) (kind : CutKind) (x : Int) : PlanReach s (s.planFull kind x) := by
  unfold State.planFull
  extract_lets t
  have h : PlanReach s t := .ite (.refl s) (plan_raise s _ _)
  clear_value t
  cases kind <;> first | exact h.trans (plan_setCut t _) | exact h

theorem plan_joinOpening (s : State) (roll : Roll) (r : Reasons) : PlanReach s (s.joinOpening roll r) :=
  plan_setWinder s (fun w => { w with roll := some { roll with opening := roll.opening.union r } })

theorem plan_placeAt (s : State) (kind : CutKind) (x : Int) (waiting : Bool) : PlanReach s (s.placeAt kind x waiting) := by
  unfold State.placeAt
  extract_lets r late t
  split
  · exact (plan_joinOpening s _ _).trans (plan_placed _ _ _ _)
  · refine .ite ((plan_setCut s _).trans (plan_placed _ _ _ _)) ?_
    have h : PlanReach s t := .ite (plan_stripTarget s x) (.refl s)
    exact h.trans (.ite (plan_planFull t kind x) ((plan_setCut t _).trans (plan_placed _ _ _ _)))

theorem plan_joinSegments (s : State) (g : Segment) (tail : Int) (stop : Option Int) : PlanReach s (s.joinSegments g tail stop) := by
  unfold State.joinSegments
  extract_lets plan t
  exact (plan_setPlan s _).trans (plan_setCut t _)

theorem plan_landAt (s : State) (kind : CutKind) (x : Int) (waiting : Bool) {merged : State → State}
    (hm : ∀ t, PlanReach t (merged t)) : PlanReach s (s.landAt kind x waiting merged) := by
  unfold State.landAt
  extract_lets t
  split
  · split
    · exact (plan_joinOpening s _ _).trans (hm _)
    · exact plan_placeAt s _ _ _
  · exact .ite (hm s) ((plan_stripTarget s x).trans
      (.ite (plan_planFull t kind x) ((plan_clear t _ _).trans (hm _))))

theorem plan_takeAt (s : State) (kind : CutKind) (x : Int) (waiting : Bool) : PlanReach s (s.takeAt kind x waiting) := by
  unfold State.takeAt
  have hplace : PlanReach s (s.placeAt kind x waiting) := plan_placeAt s _ _ _
  refine .ite (plan_setCut s _) ?_
  split
  · exact .ite (plan_landAt s _ _ _ PlanReach.refl) hplace
  · split
    · exact plan_landAt s _ _ _ (fun t => plan_placeAt t _ _ _)
    · exact hplace
  · split
    · exact plan_landAt s _ _ _ (fun t => plan_placeAt t _ _ _)
    · exact hplace
  · split
    · exact plan_landAt s _ _ _ (fun t => plan_joinSegments t _ _ _)
    · exact hplace
  · exact hplace
  · exact hplace
  · exact .refl s

theorem plan_request (s : State) (kind : CutKind) (coordinate : Option Int) : PlanReach s (s.request kind coordinate) := by
  unfold State.request
  split
  · exact plan_takeAt s _ _ _
  · split
    · exact plan_takeAt s _ _ _
    · exact plan_setCut s _

end Sys2Proof.Proofs.PlannerFacts
end

section
/-! PROOFS. The order unit (chapter 7): posts and their answers, activation, withdrawal and the discarding of copies. -/

namespace Sys2Proof.Proofs.OrderUnit
open Sys2Proof.Machine Sys2Proof.Proofs.FaultFacts Sys2Proof.Proofs.Lookups Sys2Proof.Proofs.MemoryFacts
open Sys2Proof.Proofs.FaultList Sys2Proof.Proofs.PlannerFacts Sys2Proof.Proofs.ImageAndConfig

/-! ## What telling the other blocks leaves alone -/

/-- Order records, the active order and the order slots are as they were, and no notice has gone. -/
structure OrdersKept (s t : State) : Prop where
  orders : t.ord.orders = s.ord.orders
  active : t.ord.active = s.ord.active
  slots : ∀ a, 0x400 ≤ a → a < 0x800 → t.readByte a = s.readByte a
  notice : ∀ i, s.port.notice.getLsbD i = true → t.port.notice.getLsbD i = true

theorem OrdersKept.refl (s : State) : OrdersKept s s := ⟨rfl, rfl, fun _ _ _ => rfl, fun _ h => h⟩

theorem OrdersKept.trans {s t u : State} (h : OrdersKept s t) (k : OrdersKept t u) : OrdersKept s u :=
  ⟨k.orders.trans h.orders, k.active.trans h.active, fun a ha ha' => (k.slots a ha ha').trans (h.slots a ha ha'),
    fun i hi => k.notice i (h.notice i hi)⟩

theorem OrdersKept.ite {c : Prop} [Decidable c] {s t u : State} (h : OrdersKept s t) (k : OrdersKept s u) :
    OrdersKept s (if c then t else u) := by
  split
  · exact h
  · exact k

theorem OrdersKept.foldl {α : Type} {f : State → α → State} (h : ∀ s a, OrdersKept s (f s a)) (l : List α) (s : State) :
    OrdersKept s (l.foldl f s) := by
  induction l generalizing s with
  | nil => exact .refl s
  | cons a l ih => exact (h s a).trans (ih _)

theorem OrdersKept.of_faultReach {s t : State} (h : s.faultReach t) : OrdersKept s t :=
  ⟨by rw [h.orders], by rw [h.orders], fun a ha ha' => h.bytes a (by omega), h.inputs.notice⟩

/-- A block is told of a change in the order: the records of the track and the planner stand too. -/
structure Told (s t : State) : Prop extends OrdersKept s t where
  units : t.track.units = s.track.units
  cut : t.cut = s.cut

theorem Told.refl (s : State) : Told s s := ⟨.refl s, rfl, rfl⟩

theorem Told.trans {s t u : State} (h : Told s t) (k : Told t u) : Told s u :=
  ⟨h.toOrdersKept.trans k.toOrdersKept, k.units.trans h.units, k.cut.trans h.cut⟩

theorem Told.ite {c : Prop} [Decidable c] {s t u : State} (h : Told s t) (k : Told s u) : Told s (if c then t else u) := by
  split
  · exact h
  · exact k

theorem Told.foldl {α : Type} {f : State → α → State} (h : ∀ s a, Told s (f s a)) (l : List α) (s : State) :
    Told s (l.foldl f s) := by
  induction l generalizing s with
  | nil => exact .refl s
  | cons a l ih => exact (h s a).trans (ih _)

theorem Told.of_faultReach {s t : State} (h : s.faultReach t) : Told s t := ⟨.of_faultReach h, by rw [h.track], h.cut⟩

theorem OrdersKept.order {s t : State} (h : OrdersKept s t) (n : Nat) : t.order n = s.order n := by
  rw [State.order, h.orders]
  rfl

theorem OrdersKept.bytes {s t : State} (h : OrdersKept s t) {a len : Nat} (ha : 0x400 ≤ a) (ha' : a + len ≤ 0x800) :
    t.readBytes a len = s.readBytes a len := readBytes_congr fun x hx hx' => h.slots x (by omega) (by omega)

theorem told_shade (s : State) (f : ShadeUnit → ShadeUnit) : Told s (s.setShade f) :=
  ⟨⟨rfl, rfl, fun _ _ _ => rfl, fun _ h => h⟩, rfl, rfl⟩

theorem told_draw (s : State) (x : DrawLoop) : Told s { s with draw := x } := ⟨⟨rfl, rfl, fun _ _ _ => rfl, fun _ h => h⟩, rfl, rfl⟩

theorem told_reg (s : State) (x : RegisterUnit) (k : Nat) : Told s { s with reg := x, freeIdx := k } :=
  ⟨⟨rfl, rfl, fun _ _ _ => rfl, fun _ h => h⟩, rfl, rfl⟩

theorem told_clear (s : State) (code subject : Nat) : Told s (s.clear code subject) := .of_faultReach (reach_clear s code subject)

theorem told_follow (s : State) (code subject : Nat) (b : Bool) : Told s (s.follow code subject b) := by
  unfold State.follow
  exact .ite (.ite (.refl s) (.of_faultReach (reach_raise _ _ _))) (told_clear _ _ _)

theorem told_startLoops (s : State) (n : Nat) : Told s (s.startLoops n) := by
  unfold State.startLoops
  refine .foldl (fun s i => .ite ?_ ?_) _ _
  · exact ((told_reg s _ s.freeIdx).trans (told_clear _ _ _)).trans (told_clear _ _ _)
  · exact ((told_reg s _ s.freeIdx).trans (told_clear _ _ _)).trans (told_clear _ _ _)

theorem told_takingChanged (s : State) (old new : Option OrderBody) : Told s (s.takingChanged old new) := by
  unfold State.takingChanged
  extract_lets kept geom src t u
  clear_value kept geom
  have hgeom : Told s t := told_reg s _ s.freeIdx
  have hrest : Told t u := by
    dsimp only [u]
    split
    · exact .refl t
    · have hx (x : RegisterUnit) (k : Nat) : Told t (State.clear { t with freeIdx := t.freeIdx + k, reg := x } referenceLost 0) :=
        (told_reg t x _).trans (told_clear _ _ _)
      split <;> exact hx _ _
  exact (hgeom.trans hrest).trans (told_startLoops _ _)

theorem told_followCold (s : State) : Told s s.followCold := told_follow s _ _ _

theorem told_embossSettle (s : State) : Told s s.embossSettle := .of_faultReach (reach_embossSettle s)

theorem told_embossActivated (s : State) (b : OrderBody) : Told s (s.embossActivated b) := by
  unfold State.embossActivated
  extract_lets
  have hemb (t : State) (x : EmbossUnit) : Told t { t with emb := x } := .of_faultReach (reach_emb t x)
  refine ((hemb s _).trans (told_clear _ _ _)).trans (.ite ?_ ((told_followCold _).trans (told_embossSettle _)))
  exact ((hemb _ _).trans (told_followCold _)).trans (.ite (.of_faultReach (reach_enterLifted _)) (told_embossSettle _))

theorem told_embossOrderEnded (s : State) : Told s s.embossOrderEnded := (told_followCold s).trans (told_embossSettle _)

theorem told_drawActivated (s : State) : Told s s.drawActivated := by
  unfold State.drawActivated
  extract_lets
  have hresend (t : State) : Told t t.drawResend := (told_draw t _).trans (.of_faultReach (reach_hand _ _ _))
  exact ((told_draw s _).trans (.ite (hresend _) (.refl _))).trans (told_follow _ _ _ _)

/-! ## The shade unit when the classifying order is DONE -/

theorem ordersKept_setBatch (s : State) (b : Nat) (f : BatchRec → BatchRec) : OrdersKept s (s.setBatch b f) := by
  unfold State.setBatch
  split
  · exact .refl s
  · refine ⟨by rw [partStore_ord]; rfl, by rw [partStore_ord]; rfl, fun x hx hx' => ?_, fun i hi => by rwa [partStore_port]⟩
    exact partStore_outside _ (mirrorAddr b) _ (.inl (by unfold mirrorAddr; omega))

theorem ordersKept_setUnit (s : State) (c : Int) (f : UnitRec → UnitRec) : OrdersKept s (s.setUnit c f) :=
  ⟨rfl, rfl, fun _ _ _ => rfl, fun _ h => h⟩

theorem ordersKept_decideUnit (s : State) (c : Int) (v : Verdict) (b : Nat) (counted : Bool) :
    OrdersKept s (s.decideUnit c v b counted) := by
  unfold State.decideUnit
  split
  · exact .refl s
  · extract_lets body d t
    exact .ite (ordersKept_setUnit s c _) ((ordersKept_setUnit s c _).trans (ordersKept_setBatch t _ _))

theorem ordersKept_decideRun (s : State) : OrdersKept s s.decideRun := by
  unfold State.decideRun
  refine (OrdersKept.foldl (fun t c => ?_) _ s).trans (told_shade _ _).toOrdersKept
  unfold State.decideOut
  split
  · exact .refl t
  · exact ordersKept_decideUnit t _ _ _ _

theorem ordersKept_latch (s : State) (f : Factor) : OrdersKept s (s.latch f) :=
  ⟨rfl, rfl, fun _ _ _ => rfl, fun i h => latch_keeps s f i h⟩

theorem ordersKept_closeBatch (s : State) : OrdersKept s s.closeBatch := by
  unfold State.closeBatch
  split
  · exact .refl s
  · exact ((ordersKept_setBatch s _ _).trans (told_shade _ _).toOrdersKept).trans (ordersKept_latch _ _)

theorem ordersKept_shadeOrderDone (s : State) (k : OrderKey) : OrdersKept s (s.shadeOrderDone k) :=
  .ite ((ordersKept_decideRun s).trans (ordersKept_closeBatch _)) (.refl s)

/-! ## The part half of a slot -/

@[simp] theorem tagWritten_ord (s : State) : s.tagWritten.ord = s.ord := partStore_ord _ _ _

theorem readByte_of_mem {s t : State} (h : t.mem = s.mem) (x : Nat) : t.readByte x = s.readByte x := by
  rw [State.readByte, h]
  rfl

theorem order_of_orders {s t : State} (h : t.ord.orders = s.ord.orders) (n : Nat) : t.order n = s.order n := by
  rw [State.order, h]
  rfl

/-- A tag write with its latch reads back as what stood before it, but for the exchange counter of the header. -/
theorem readByte_tagged (s : State) (f : Factor) {x : Nat} (hx : x ≠ 0x0A) : (s.tagWritten.latch f).readByte x = s.readByte x := by
  rw [← tagWritten_outside s hx]
  simp only [State.readByte, latch_mem]

/-- A new state of an order changes the order unit, exchange memory and the port. -/
theorem setOrderState_frame (s : State) (n : Nat) (st : OrderState) : s.setOrderState n st =
    { s with ord := (s.setOrderState n st).ord, mem := (s.setOrderState n st).mem, port := (s.setOrderState n st).port } := by
  rw [State.setOrderState, State.writeOrderState, tagWritten_eq, partStore_eq]
  rfl

theorem setOrderState_ord (s : State) (n : Nat) (st : OrderState) :
    (s.setOrderState n st).ord = (s.setOrder n (fun o => { o with st := st })).ord := by
  rw [State.setOrderState, State.writeOrderState, latch_ord, tagWritten_ord, partStore_ord]

theorem order_setOrderState_same (s : State) {n : Nat} (st : OrderState) (hn : n < s.ord.orders.length) :
    (s.setOrderState n st).order n = { s.order n with st := st } :=
  (order_congr (setOrderState_ord s n st) n).trans (order_setOrder_same s _ hn)

theorem order_setOrderState_ne (s : State) {n m : Nat} (st : OrderState) (hm : m ≠ n) : (s.setOrderState n st).order m = s.order m :=
  (order_congr (setOrderState_ord s n st) m).trans (order_setOrder_ne s _ hm)

theorem orderSlot_fits {n : Nat} (hn : n < 8) : 0x400 ≤ orderSlotAddr n ∧ orderSlotAddr n + 128 ≤ 0x800 := by
  unfold orderSlotAddr
  omega

theorem readByte_setOrderState (s : State) {n : Nat} (st : OrderState) (hn : n < 8) (hlen : n < s.ord.orders.length) {x : Nat}
    (hx : 0x400 ≤ x) :
    (s.setOrderState n st).readByte x = if x = orderSlotAddr n + 0x71 then byte st.code else s.readByte x := by
  have hfits := orderSlot_fits hn
  have hst : ((s.setOrder n (fun o => { o with st := st })).order n).st = st := by rw [order_setOrder_same s _ hlen]
  calc (s.setOrderState n st).readByte x
      = ((s.setOrder n (fun o => { o with st := st })).partStore (orderSlotAddr n + 0x71)
          [byte ((s.setOrder n (fun o => { o with st := st })).order n).st.code]).readByte x :=
        readByte_tagged _ .order (by omega)
    _ = _ := by
        rw [hst]
        exact readByte_partStore_byte _ _ (partRange_orderSlot hn (by omega) (by omega)) (by unfold memSize; omega) x

theorem setOrderState_noticed (s : State) (n : Nat) (st : OrderState) : (s.setOrderState n st).noticed .order = true :=
  latch_noticed _ _

theorem writeOrderCounts_outside (s : State) {n x : Nat} (h : x < orderSlotAddr n + 0x74 ∨ orderSlotAddr n + 0x78 ≤ x) :
    (s.writeOrderCounts n).readByte x = s.readByte x :=
  partStore_outside s _ _ (by simpa [natBytes_length] using h)

theorem OrdersKept.readByte_slot {s t : State} (h : OrdersKept s t) {n j : Nat} (hn : n < 8) (hj : j < 128) :
    t.readByte (orderSlotAddr n + j) = s.readByte (orderSlotAddr n + j) := by
  have hfits := orderSlot_fits hn
  exact h.slots _ (by omega) (by omega)

/-! ## A post is answered (R124 to R127) -/

theorem byte_readNat (s : State) (a : Nat) : byte (s.readNat a 1) = s.readByte a := by
  rw [readNat_one, byte, BitVec.ofNat_toNat, BitVec.setWidth_eq]

/-- What an answer writes: two bytes or more behind the tag word, then the part tag with the state code, a tag write. -/
theorem answer_bytes (s : State) {n : Nat} (hn : n < 8) (tag state : Byte) {behind : List Byte} (hb : behind.length ≤ 14) :
    let t := (((s.partStore (orderSlotAddr n + 0x72) behind).partStore (orderSlotAddr n + 0x70) [tag, state]).tagWritten).latch .order
    t.readByte (orderSlotAddr n + 0x70) = tag ∧ t.readByte (orderSlotAddr n + 0x71) = state
      ∧ (∀ j, j < behind.length → t.readByte (orderSlotAddr n + 0x72 + j) = behind.getD j 0)
      ∧ t.port.counter = nextCyclic 255 s.port.counter ∧ t.noticed .order = true ∧ t.ord = s.ord := by
  intro t
  have hfits := orderSlot_fits hn
  have hread (x : Nat) (hx : 0x400 ≤ x) : t.readByte x
      = if orderSlotAddr n + 0x70 ≤ x ∧ x < orderSlotAddr n + 0x70 + [tag, state].length
        then [tag, state].getD (x - (orderSlotAddr n + 0x70)) 0
        else (s.partStore (orderSlotAddr n + 0x72) behind).readByte x :=
    (readByte_tagged _ .order (by omega)).trans
      (readByte_partStore _ (partRange_orderSlot hn (by decide) (by simp)) (by simp [memSize]; omega) x)
  refine ⟨?_, ?_, fun j hj => ?_, ?_, latch_noticed _ _, by simp [t]⟩
  · rw [hread _ (by omega), if_pos (by simp)]
    simp
  · rw [hread _ (by omega), if_pos (by simp)]
    simp
  · rw [hread _ (by omega), if_neg (by simp),
      partStore_inside s _ _ (partRange_orderSlot hn (by decide) (by omega)) (by unfold memSize; omega) (by omega) (by omega),
      Nat.add_sub_cancel_left]
  · simp only [t, latch_port, tagWritten_counter, partStore_port]

theorem refuseBusy_new (s : State) {n : Nat} (hn : n < 8) (hlen : n < s.ord.orders.length) (hnew : (s.order n).busyTag ≠ s.hostTag n) :
    let t := s.refuseBusy n
    t.readByte (orderSlotAddr n + 0x72) = 8 ∧ t.readByte (orderSlotAddr n + 0x70) = s.readByte (orderSlotAddr n + 0x70)
      ∧ t.noticed .order = true ∧ (t.order n).st = (s.order n).st ∧ (t.order n).body = (s.order n).body
      ∧ t.port.counter = s.port.counter := by
  intro t
  have ht : t = (State.setOrder (s.partStore (orderSlotAddr n + 0x72) [8, 0]) n
      (fun o => { o with busyTag := s.hostTag n })).latch .order := if_neg hnew
  have hord : t.order n = { s.order n with busyTag := s.hostTag n } := by
    rw [ht, order_congr (latch_ord _ _), order_setOrder_same _ _ (by rwa [partStore_ord]), order_congr (partStore_ord _ _ _)]
  have hmem (x : Nat) : t.readByte x = (s.partStore (orderSlotAddr n + 0x72) [8, 0]).readByte x := by rw [ht]; rfl
  have hfits := orderSlot_fits hn
  refine ⟨?_, ?_, ?_, by rw [hord], by rw [hord], ?_⟩
  · rw [hmem, partStore_inside s _ _ (partRange_orderSlot hn (by decide) (by simp)) (by simp [memSize]; omega) (by omega) (by simp)]
    simp
  · rw [hmem, partStore_outside s _ _ (by omega)]
  · rw [ht]
    exact latch_noticed _ _
  · rw [ht]
    simp

/-- What taking and refusing a post share: the record `o` stands in the slot, the host tag becomes the part tag, and the answer
is written. -/
theorem answered (s : State) {n : Nat} (hn : n < 8) (hlen : n < s.ord.orders.length) (f : OrderRec → OrderRec) (k : Nat)
    (state : Byte) {behind : List Byte} (hb : behind.length ≤ 14) {t : State}
    (ht : t = (((State.partStore { s.setOrder n f with ord := { (s.setOrder n f).ord with nextSerial := k } }
      (orderSlotAddr n + 0x72) behind).partStore (orderSlotAddr n + 0x70) [byte (s.hostTag n), state]).tagWritten).latch .order) :
    t.order n = f (s.order n) ∧ t.readByte (orderSlotAddr n + 0x70) = s.readByte (orderSlotAddr n)
      ∧ t.readByte (orderSlotAddr n + 0x71) = state
      ∧ (∀ j, j < behind.length → t.readByte (orderSlotAddr n + 0x72 + j) = behind.getD j 0)
      ∧ t.port.counter = nextCyclic 255 s.port.counter ∧ t.noticed .order = true := by
  obtain ⟨htag, hstate, hrest, hcounter, hnotice, hord⟩ :=
    answer_bytes { s.setOrder n f with ord := { (s.setOrder n f).ord with nextSerial := k } } hn (byte (s.hostTag n)) state hb
  subst ht
  refine ⟨?_, htag.trans (byte_readNat s _), hstate, hrest, hcounter, hnotice⟩
  rw [order_congr hord]
  exact order_setOrder_same s f hlen

theorem hostTag_behind (s : State) (n : Nat) (f : OrderRec → OrderRec) (k : Nat) (behind : List Byte) :
    (State.partStore { s.setOrder n f with ord := { (s.setOrder n f).ord with nextSerial := k } }
      (orderSlotAddr n + 0x72) behind).hostTag n = s.hostTag n :=
  readNat_congr fun x hx hx' => partStore_outside _ _ _ (by omega)

theorem takePost_spec (s : State) {n : Nat} (hn : n < 8) (hlen : n < s.ord.orders.length) (b : OrderBody) :
    let t := s.takePost n b
    (t.order n).st = .taken ∧ (t.order n).body = some b
      ∧ t.readByte (orderSlotAddr n + 0x70) = s.readByte (orderSlotAddr n) ∧ t.readByte (orderSlotAddr n + 0x71) = 1
      ∧ t.readByte (orderSlotAddr n + 0x72) = 0
      ∧ t.port.counter = nextCyclic 255 s.port.counter ∧ t.noticed .order = true := by
  intro t
  obtain ⟨hord, htag, hstate, hrest, hcounter, hnotice⟩ := answered s hn hlen
    (fun _ => { OrderRec.reset with st := .taken, serial := s.ord.nextSerial, body := some b }) (s.ord.nextSerial + 1) 1
    (behind := List.replicate 14 0) (by simp) (t := t) (by
      rw [← hostTag_behind s n _ (s.ord.nextSerial + 1) (List.replicate 14 0)]
      rfl)
  exact ⟨by rw [hord], by rw [hord], htag, hstate, hrest 0 (by simp), hcounter, hnotice⟩

theorem refusePost_spec (s : State) {n : Nat} (hn : n < 8) (hlen : n < s.ord.orders.length) (code field : Nat) :
    let t := s.refusePost n code field
    (t.order n).st = .refused ∧ (t.order n).body = none
      ∧ t.readByte (orderSlotAddr n + 0x70) = s.readByte (orderSlotAddr n) ∧ t.readByte (orderSlotAddr n + 0x71) = 2
      ∧ t.readByte (orderSlotAddr n + 0x72) = byte code ∧ t.readByte (orderSlotAddr n + 0x73) = byte field
      ∧ t.port.counter = nextCyclic 255 s.port.counter ∧ t.noticed .order = true := by
  intro t
  obtain ⟨hord, htag, hstate, hrest, hcounter, hnotice⟩ := answered s hn hlen
    (fun o => { OrderRec.reset with
      st := .refused, serial := s.ord.nextSerial, produced := o.produced, currentRoll := o.currentRoll })
    (s.ord.nextSerial + 1) 2 (behind := [byte code, byte field]) (by simp) (t := t) (by
      rw [← hostTag_behind s n _ (s.ord.nextSerial + 1) [byte code, byte field]]
      rfl)
  exact ⟨by rw [hord], by rw [hord]; rfl, htag, hstate, hrest 0 (by simp), hrest 1 (by simp), hcounter, hnotice⟩

/-! ## Activation (R129, R130) -/

theorem orderQueue_none {s : State} (h : ∀ m, m < 8 → (s.order m).st ≠ .taken) : s.orderQueue = [] := by
  have hnone : (List.range 8).filter (fun n => decide ((s.order n).st = .taken)) = [] :=
    List.filter_eq_nil_iff.mpr fun m hm => by simpa using h m (List.mem_range.mp hm)
  rw [State.orderQueue, hnone]
  rfl

/-- The TAKEN order of the lowest sequence number heads the queue. -/
theorem orderQueue_head {s : State} {n : Nat} (hn : n < 8) (hst : (s.order n).st = .taken)
    (hlow : ∀ m, m < 8 → m ≠ n → (s.order m).st = .taken → (s.body n).seq < (s.body m).seq) :
    ∃ rest, s.orderQueue = n :: rest := by
  have hmem (m : Nat) : m ∈ s.orderQueue ↔ m < 8 ∧ (s.order m).st = .taken :=
    (sortBy_perm _ _).mem_iff.trans (by simp)
  have hsorted : s.orderQueue.Pairwise (KeyOrder fun m => (s.body m).seq) :=
    sortBy_keyOrder ((range_rising 8).filter _)
  have hin := (hmem n).mpr ⟨hn, hst⟩
  cases hq : s.orderQueue with
  | nil => simp [hq] at hin
  | cons m rest =>
    rw [hq] at hin hsorted
    obtain rfl | hrest := List.mem_cons.mp hin
    · exact ⟨rest, rfl⟩
    · by_cases hne : m = n
      · exact ⟨rest, by rw [hne]⟩
      · obtain ⟨hm, hmst⟩ := (hmem m).mp (by rw [hq]; exact List.mem_cons_self)
        have hlt := hlow m hm hne hmst
        rcases List.rel_of_pairwise_cons hsorted hrest with h | h
        · exact absurd hlt (not_lt.mpr h.le)
        · exact absurd hlt (not_lt.mpr h.1.le)

/-- The order at the moment of its activation, before the other blocks are told. -/
def activated (s : State) (n : Nat) : State :=
  let u := ((s.setOrder n (fun o => { o with
    produced := 0, currentRoll := 1, nextUnit := 1, lastRoll := 0, hasUnits := false, s0 := none, s1 := none, e := none,
    endAt := none, changeover := .undecided })).writeOrderCounts n).setOrderState n .active
  { u with ord := { u.ord with active := some n }, track := { u.track with lastNominal := (u.body n).nominal } }

theorem told_activate (s : State) (n : Nat) : Told (activated s n) (s.activate n) := by
  unfold State.activate
  extract_lets old u v b src src' w x
  have htold : Told w x := told_takingChanged w _ _
  exact ((htold.trans (told_embossActivated x b)).trans (told_drawActivated _)).trans (told_shade _ _)

theorem activated_spec (s : State) {n : Nat} (hn : n < 8) (hlen : n < s.ord.orders.length) :
    let u := activated s n
    u.ord.active = some n ∧ (u.order n).st = .active ∧ (u.order n).body = (s.order n).body
      ∧ (u.order n).produced = 0 ∧ (u.order n).currentRoll = 1 ∧ (u.order n).nextUnit = 1
      ∧ u.readByte (orderSlotAddr n + 0x71) = 3 ∧ u.readBytes (orderSlotAddr n + 0x74) 4 = [0, 0, 1, 0]
      ∧ u.noticed .order = true ∧ (∀ m, m ≠ n → u.order m = s.order m) ∧ u.track.units = s.track.units := by
  intro u
  have hfits := orderSlot_fits hn
  generalize hf : (fun o : OrderRec => { o with
    produced := 0, currentRoll := 1, nextUnit := 1, lastRoll := 0, hasUnits := false, s0 := none, s1 := none, e := none,
    endAt := none, changeover := .undecided }) = f
  obtain ⟨v, hv⟩ : ∃ v, v = ((s.setOrder n f).writeOrderCounts n).setOrderState n .active := ⟨_, rfl⟩
  have hu : u = { v with
      ord := { v.ord with active := some n }, track := { v.track with lastNominal := (v.body n).nominal } } := by
    rw [hv, ← hf]
    rfl
  have hcounts : ((s.setOrder n f).writeOrderCounts n).ord = (s.setOrder n f).ord := partStore_ord _ _ _
  have hlen' : n < ((s.setOrder n f).writeOrderCounts n).ord.orders.length := by rw [hcounts]; simpa using hlen
  have hset : (s.setOrder n f).order n = f (s.order n) := order_setOrder_same s f hlen
  have horders (m : Nat) : u.order m = v.order m := order_of_orders (by rw [hu]) m
  have hord : u.order n = { f (s.order n) with st := .active } := by
    rw [horders, hv, order_setOrderState_same _ _ hlen', order_congr hcounts, hset]
  have hbyte (z : Nat) (hz : 0x400 ≤ z) : u.readByte z
      = if z = orderSlotAddr n + 0x71 then byte OrderState.active.code else ((s.setOrder n f).writeOrderCounts n).readByte z := by
    rw [readByte_of_mem (s := v) (by rw [hu]), hv]
    exact readByte_setOrderState _ .active hn hlen' hz
  have hnotice : v.noticed .order = true := hv ▸ setOrderState_noticed _ _ _
  have htrack : v.track = s.track := by
    rw [hv, setOrderState_frame, State.writeOrderCounts, partStore_eq]
    rfl
  refine ⟨by rw [hu], by rw [hord], by rw [hord, ← hf], by rw [hord, ← hf], by rw [hord, ← hf], by rw [hord, ← hf], ?_, ?_, ?_,
    fun m hm => ?_, by rw [hu, ← htrack]⟩
  · rw [hbyte _ (by omega), if_pos rfl]
    rfl
  · calc u.readBytes (orderSlotAddr n + 0x74) 4
        = ((s.setOrder n f).writeOrderCounts n).readBytes (orderSlotAddr n + 0x74) 4 :=
          readBytes_congr fun z hz hz' => (hbyte z (by omega)).trans (if_neg (by omega))
      _ = natBytes 2 ((s.setOrder n f).order n).produced ++ natBytes 2 ((s.setOrder n f).order n).currentRoll :=
          readBytes_partStore_same _ (bs := natBytes 2 ((s.setOrder n f).order n).produced
            ++ natBytes 2 ((s.setOrder n f).order n).currentRoll) (partRange_orderSlot hn (by decide) (by simp [natBytes_length]))
            (by simp [memSize, natBytes_length]; omega)
      _ = [0, 0, 1, 0] := by
          rw [hset, ← hf]
          show natBytes 2 0 ++ natBytes 2 1 = _
          decide
  · rw [State.noticed, hu]
    exact hnotice
  · rw [horders, hv, order_setOrderState_ne _ _ hm, order_congr hcounts, order_setOrder_ne s f hm]

theorem activate_spec (s : State) {n : Nat} (hn : n < 8) (hlen : n < s.ord.orders.length) :
    let u := s.activate n
    u.ord.active = some n ∧ (u.order n).st = .active ∧ (u.order n).body = (s.order n).body
      ∧ (u.order n).produced = 0 ∧ (u.order n).currentRoll = 1 ∧ (u.order n).nextUnit = 1
      ∧ u.readByte (orderSlotAddr n + 0x71) = 3 ∧ u.readBytes (orderSlotAddr n + 0x74) 4 = [0, 0, 1, 0]
      ∧ u.noticed .order = true ∧ (∀ m, m ≠ n → u.order m = s.order m) ∧ u.track.units = s.track.units := by
  intro u
  have htold := told_activate s n
  have hkept := htold.toOrdersKept
  obtain ⟨hactive, hst, hbody, hproduced, hroll, hnext, hstate, hcounts, hnotice, hothers, hunits⟩ := activated_spec s hn hlen
  have hord := hkept.order n
  have hfits := orderSlot_fits hn
  exact ⟨hkept.active.trans hactive, by rw [hord, hst], by rw [hord, hbody], by rw [hord, hproduced], by rw [hord, hroll],
    by rw [hord, hnext], (hkept.readByte_slot hn (by decide)).trans hstate, (hkept.bytes (by omega) (by omega)).trans hcounts,
    hkept.notice _ hnotice, fun m hm => (hkept.order m).trans (hothers m hm), htold.units.trans hunits⟩

theorem orderRunning_false_iff (s : State) : s.orderRunning = false ↔ ∀ o ∈ s.ord.orders, o.st ≠ .active ∧ o.st ≠ .ending := by
  simp [State.orderRunning, List.any_eq_false]

/-! ## Withdrawal and the end of an order (R134, R136, R137) -/

theorem OrdersKept.withActive {s t : State} (h : OrdersKept s t) (x : Option Nat) :
    OrdersKept { s with ord := { s.ord with active := x } } { t with ord := { t.ord with active := x } } :=
  ⟨h.orders, rfl, h.slots, h.notice⟩

theorem ordersKept_hold (s : State) (b : Bool) : OrdersKept s { s with ord := { s.ord with hold := b } } :=
  ⟨rfl, rfl, fun _ _ _ => rfl, fun _ h => h⟩

/-- An order that becomes DONE, before the other blocks are told. -/
def finished (s : State) (n reason : Nat) : State :=
  ((((s.setOrder n (fun o => { o with currentRoll := 0, endWanted := false })).writeOrderCounts n).partStore
    (orderSlotAddr n + 0x78) [byte reason]).setOrderState n .done)

theorem finishOrder_told (s : State) (n reason : Nat) :
    OrdersKept (if s.ord.active = some n then
        { finished s n reason with ord := { (finished s n reason).ord with active := none } }
      else finished s n reason) (s.finishOrder n reason) := by
  have hshade (k : OrderKey) : OrdersKept (finished s n reason) ((finished s n reason).shadeOrderDone k) :=
    ordersKept_shadeOrderDone _ k
  have htold (v : State) (old : Option OrderBody) :
      OrdersKept v ((v.takingChanged old none).embossOrderEnded).followDrawLimit :=
    (((told_takingChanged v old none).trans (told_embossOrderEnded _)).trans (told_follow _ _ _ _)).toOrdersKept
  by_cases hactive : s.ord.active = some n
  · rw [if_pos hactive]
    have hstop (v : State) : OrdersKept v (State.enterStopped { v with ord := { v.ord with hold := true } }).settle :=
      ((ordersKept_hold v true).trans (.of_faultReach (reach_enterStopped _))).trans (.of_faultReach (reach_settle _))
    unfold State.finishOrder
    extract_lets _ _ wasActive stopped k old u v w x src y z
    have htell : OrdersKept y z := htold y old
    rw [if_pos (decide_eq_true hactive)]
    exact (((hshade k).withActive none).trans htell).trans (.ite (hstop z) (.refl z))
  · rw [if_neg hactive]
    have heq : s.finishOrder n reason = (finished s n reason).shadeOrderDone (s.orderKey n) :=
      if_neg (by simpa using hactive)
    rw [heq]
    exact hshade _

theorem finished_spec (s : State) {n : Nat} (hn : n < 8) (hlen : n < s.ord.orders.length) (reason : Nat) :
    let w := finished s n reason
    (w.order n).st = .done ∧ (w.order n).currentRoll = 0 ∧ w.readByte (orderSlotAddr n + 0x71) = 5
      ∧ w.readByte (orderSlotAddr n + 0x78) = byte reason ∧ w.noticed .order = true := by
  intro w
  have hfits := orderSlot_fits hn
  generalize hf : (fun o : OrderRec => { o with currentRoll := 0, endWanted := false }) = f
  obtain ⟨v, hv⟩ : ∃ v, v = ((s.setOrder n f).writeOrderCounts n).partStore (orderSlotAddr n + 0x78) [byte reason] := ⟨_, rfl⟩
  have hw : w = v.setOrderState n .done := by rw [hv, ← hf]; rfl
  have hvord : v.ord = (s.setOrder n f).ord := by rw [hv, partStore_ord, State.writeOrderCounts, partStore_ord]
  have hlen' : n < v.ord.orders.length := by rw [hvord]; simpa using hlen
  have hord : w.order n = { f (s.order n) with st := .done } := by
    rw [hw, order_setOrderState_same _ _ hlen', order_congr hvord, order_setOrder_same s f hlen]
  have hbyte (z : Nat) (hz : 0x400 ≤ z) : w.readByte z
      = if z = orderSlotAddr n + 0x71 then byte OrderState.done.code else v.readByte z := by
    rw [hw]
    exact readByte_setOrderState v .done hn hlen' hz
  refine ⟨by rw [hord], by rw [hord, ← hf], ?_, ?_, hw ▸ setOrderState_noticed _ _ _⟩
  · rw [hbyte _ (by omega), if_pos rfl]
    rfl
  · rw [hbyte _ (by omega), if_neg (by omega), hv,
      readByte_partStore_byte _ _ (partRange_orderSlot hn (by decide) (by decide)) (by unfold memSize; omega), if_pos rfl]

/-- A withdrawn ACTIVE order without a unit is DONE at once. -/
theorem finishOrder_spec (s : State) {n : Nat} (hn : n < 8) (hlen : n < s.ord.orders.length) (reason : Nat) :
    let w := s.finishOrder n reason
    (w.order n).st = .done ∧ (w.order n).currentRoll = 0 ∧ w.readByte (orderSlotAddr n + 0x71) = 5
      ∧ w.readByte (orderSlotAddr n + 0x78) = byte reason ∧ w.noticed .order = true
      ∧ (s.ord.active = some n → w.ord.active = none) := by
  intro w
  obtain ⟨hst, hroll, hstate, hreason, hnotice⟩ := finished_spec s hn hlen reason
  have htold := finishOrder_told s n reason
  split at htold
  next hactive =>
    exact ⟨by rw [htold.order]; exact hst, by rw [htold.order]; exact hroll, (htold.readByte_slot hn (by decide)).trans hstate,
      (htold.readByte_slot hn (by decide)).trans hreason, htold.notice _ hnotice, fun _ => htold.active⟩
  next hactive =>
    exact ⟨by rw [htold.order]; exact hst, by rw [htold.order]; exact hroll, (htold.readByte_slot hn (by decide)).trans hstate,
      (htold.readByte_slot hn (by decide)).trans hreason, htold.notice _ hnotice, fun h => absurd h hactive⟩

theorem OrdersKept.of_plan {s t : State} (h : PlanReach s t) : OrdersKept s t :=
  ⟨by rw [h.orders], by rw [h.orders], fun a ha ha' => h.bytes a (by omega), h.inputs.notice⟩

theorem plan_requestEnd (s : State) (n : Nat) : PlanReach s (s.requestEnd n) := by
  unfold State.requestEnd
  split <;> exact plan_request s _ _

/-- A withdrawn ACTIVE order with units, before its end is requested. -/
def ended (s : State) (n : Nat) (known : Bool) : State :=
  (s.setOrder n (fun o => { o with byWithdrawal := true, endWanted := !known })).setOrderState n .ending

theorem withdraw_units {s : State} {n : Nat} (hst : (s.order n).st = .active) (hunits : (s.order n).hasUnits = true) :
    s.withdraw n = if (s.order n).s1.isSome then (ended s n (s.order n).s1.isSome).requestEnd n
      else ended s n (s.order n).s1.isSome := by
  rw [State.withdraw, hst]
  exact if_neg (by simp [hunits])

theorem order_ended_same (s : State) {n : Nat} (known : Bool) (hlen : n < s.ord.orders.length) :
    (ended s n known).order n = { s.order n with byWithdrawal := true, endWanted := !known, st := .ending } := by
  rw [ended, order_setOrderState_same _ _ (by simpa using hlen), order_setOrder_same s _ hlen]

theorem body_ended (s : State) {n : Nat} (known : Bool) (hlen : n < s.ord.orders.length) (m : Nat) :
    (ended s n known).body m = s.body m := by
  by_cases hm : m = n
  · rw [hm, State.body, order_ended_same s known hlen]
    rfl
  · rw [State.body, ended, order_setOrderState_ne _ _ hm, order_setOrder_ne s _ hm]
    rfl

/-- The end is asked for at the first boundary one lead ahead, or at the second unit's. -/
theorem requestEnd_known {s : State} {n : Nat} {s0 s1 : Int} (h0 : (s.order n).s0 = some s0) (h1 : (s.order n).s1 = some s1) :
    s.requestEnd n = s.request (.orderEnd n) (s.firstAhead.map (fun y => if y ≤ s0 then s1 else y)) := by
  rw [State.requestEnd, h0, h1]
  cases s.firstAhead <;> rfl

theorem withdraw_units_spec (s : State) {n : Nat} (hn : n < 8) (hlen : n < s.ord.orders.length)
    (hst : (s.order n).st = .active) (hunits : (s.order n).hasUnits = true) :
    let w := s.withdraw n
    (w.order n).st = .ending ∧ (w.order n).byWithdrawal = true
      ∧ w.readByte (orderSlotAddr n + 0x71) = 4 ∧ w.noticed .order = true
      ∧ ((s.order n).s1 = none → (w.order n).endWanted = true ∧ w.cut = s.cut)
      ∧ (∀ s0 s1, (s.order n).s0 = some s0 → (s.order n).s1 = some s1 → ∃ v : State, v.cut = s.cut
          ∧ v.winder = s.winder ∧ v.track = s.track ∧ v.coord = s.coord ∧ v.settings = s.settings
          ∧ w = v.request (.orderEnd n) (s.firstAhead.map (fun y => if y ≤ s0 then s1 else y))) := by
  intro w
  have hfits := orderSlot_fits hn
  have hw := withdraw_units hst hunits
  obtain ⟨v, hv⟩ : ∃ v, v = ended s n (s.order n).s1.isSome := ⟨_, rfl⟩
  have hord : v.order n = { s.order n with byWithdrawal := true, endWanted := !(s.order n).s1.isSome, st := .ending } :=
    hv ▸ order_ended_same s _ hlen
  have hframe : v = { s with ord := v.ord, mem := v.mem, port := v.port } := by
    rw [hv, ended]
    exact setOrderState_frame _ _ _
  rw [← hv] at hw
  have hkept : OrdersKept v w := by
    have := OrdersKept.ite (c := (s.order n).s1.isSome = true) (.of_plan (plan_requestEnd v n)) (.refl v)
    rwa [← hw] at this
  have hstate : v.readByte (orderSlotAddr n + 0x71) = 4 := by
    rw [hv, ended, readByte_setOrderState _ _ hn (by simpa using hlen) (by omega), if_pos rfl]
    rfl
  refine ⟨by rw [hkept.order, hord], by rw [hkept.order, hord], (hkept.readByte_slot hn (by decide)).trans hstate,
    hkept.notice _ (hv ▸ setOrderState_noticed _ _ _), fun h1 => ?_, fun s0 s1 h0 h1 => ?_⟩
  · rw [h1] at hw hord
    rw [show w = v from hw, hord, hframe]
    exact ⟨rfl, rfl⟩
  · have hahead : v.firstAhead = s.firstAhead :=
      firstAhead_congr (by rw [hframe]) (hv ▸ body_ended s _ hlen) (by rw [hframe]) (by rw [hframe])
    refine ⟨v, by rw [hframe], by rw [hframe], by rw [hframe], by rw [hframe], by rw [hframe], ?_⟩
    rw [← hahead, ← requestEnd_known (by rw [hord]; exact h0) (by rw [hord]; exact h1)]
    exact hw.trans (if_pos (by rw [h1]; rfl))

theorem withdraw_taken_spec (s : State) {n : Nat} (hn : n < 8) (hlen : n < s.ord.orders.length) (hst : (s.order n).st = .taken) :
    let w := s.withdraw n
    (w.order n).st = .withdrawn ∧ (w.order n).body = none ∧ w.readByte (orderSlotAddr n + 0x71) = 6
      ∧ w.noticed .order = true ∧ (∀ m, m ≠ n → w.order m = s.order m) := by
  intro w
  have hfits := orderSlot_fits hn
  have hw : w = (s.setOrder n (fun o => { o with body := none })).setOrderState n .withdrawn := by
    show s.withdraw n = _
    rw [State.withdraw, hst]
  have hlen' : n < (s.setOrder n (fun o => { o with body := none })).ord.orders.length := by simpa using hlen
  have hord : w.order n = { s.order n with body := none, st := .withdrawn } := by
    rw [hw, order_setOrderState_same _ _ hlen', order_setOrder_same s _ hlen]
  refine ⟨by rw [hord], by rw [hord], ?_, hw ▸ setOrderState_noticed _ _ _, fun m hm => ?_⟩
  · rw [hw, readByte_setOrderState _ _ hn hlen' (by omega), if_pos rfl]
    rfl
  · rw [hw, order_setOrderState_ne _ _ hm, order_setOrder_ne s _ hm]

/-! ## Retirement (R123) -/

theorem onlyOrd_trans {s t u : State} (h : t = { s with ord := t.ord }) (k : u = { t with ord := u.ord }) :
    u = { s with ord := u.ord } := k.trans (by rw [h])

/-- The copy of one slot is discarded when its order has retired. -/
def discardAt (s : State) (n : Nat) : State :=
  if s.retires n then s.setOrder n (fun o => { o with body := none, lastRoll := 0 }) else s

theorem discardAt_frame (s : State) (n : Nat) : discardAt s n = { s with ord := (discardAt s n).ord } := by
  unfold discardAt
  split <;> rfl

theorem discardAt_length (s : State) (n : Nat) : (discardAt s n).ord.orders.length = s.ord.orders.length := by
  unfold discardAt
  split <;> simp

theorem order_discardAt_ne (s : State) {n m : Nat} (h : m ≠ n) : (discardAt s n).order m = s.order m := by
  unfold discardAt
  split
  · exact order_setOrder_ne s _ h
  · rfl

theorem order_discardAt_same (s : State) {n : Nat} (h : n < s.ord.orders.length) : (discardAt s n).order n
    = if s.retires n then { s.order n with body := none, lastRoll := 0 } else s.order n := by
  unfold discardAt
  split
  · exact order_setOrder_same s _ h
  · rfl

theorem retires_discardAt_ne (s : State) {n m : Nat} (h : m ≠ n) : (discardAt s n).retires m = s.retires m := by
  have hord := order_discardAt_ne s h
  have huse : (discardAt s n).inUse m = s.inUse m := by
    rw [State.inUse, State.inUse, State.orderKey, State.orderKey, hord, discardAt_frame]
  rw [State.retires, State.retires, hord, huse]

/-- Slots whose copies are discarded in turn: each one by its own test alone. -/
theorem discard_slots {l : List Nat} (hl : l.Nodup) (s : State) :
    let d := l.foldl discardAt s
    d = { s with ord := d.ord } ∧ (∀ m, m ∉ l → d.order m = s.order m)
      ∧ (∀ m ∈ l, m < s.ord.orders.length → d.order m
          = if s.retires m then { s.order m with body := none, lastRoll := 0 } else s.order m) := by
  induction l generalizing s with
  | nil => exact ⟨rfl, fun _ _ => rfl, fun m hm => absurd hm List.not_mem_nil⟩
  | cons n l ih =>
    intro d
    obtain ⟨hnot, hl⟩ := List.nodup_cons.mp hl
    obtain ⟨hframe, hout, hin⟩ := ih hl (discardAt s n)
    refine ⟨onlyOrd_trans (discardAt_frame s n) hframe, fun m hm => ?_, fun m hm hlen => ?_⟩
    · obtain ⟨hne, hm⟩ := not_or.mp (mt List.mem_cons.mpr hm)
      exact (hout m hm).trans (order_discardAt_ne s hne)
    · rcases List.mem_cons.mp hm with rfl | hm
      · exact (hout m hnot).trans (order_discardAt_same s hlen)
      · have hne : m ≠ n := fun h => hnot (h ▸ hm)
        refine (hin m hm (by rwa [discardAt_length])).trans ?_
        rw [retires_discardAt_ne s hne, order_discardAt_ne s hne]

theorem retires_iff (s : State) (n : Nat) : s.retires n = true ↔
    (((s.order n).st = .done ∨ (s.order n).st = .refused ∨ (s.order n).st = .withdrawn) ∧ s.inUse n = false)
      ∧ (s.order n).body.isSome = true := by
  rw [State.retires]
  cases (s.order n).st <;> simp [and_comm]

theorem discardCopies_spec (s : State) {n : Nat} (hn : n < 8) (hlen : n < s.ord.orders.length) :
    let d := s.discardCopies
    let retired := ((s.order n).st = .done ∨ (s.order n).st = .refused ∨ (s.order n).st = .withdrawn) ∧ s.inUse n = false
    (retired → (d.order n).body = none ∧ (d.order n).st = (s.order n).st ∧ (d.order n).produced = (s.order n).produced)
      ∧ (¬ retired → d.order n = s.order n) ∧ d = { s with ord := d.ord } := by
  intro d retired
  obtain ⟨hframe, -, hin⟩ := discard_slots List.nodup_range (l := List.range 8) s
  have hord : d.order n = _ := hin n (List.mem_range.mpr hn) hlen
  refine ⟨fun hret => ?_, fun hret => ?_, hframe⟩
  · rw [hord]
    split
    next => exact ⟨rfl, rfl, rfl⟩
    next h =>
      have hbody : (s.order n).body = none := by
        by_contra hsome
        exact h ((retires_iff s n).mpr ⟨hret, Option.isSome_iff_ne_none.mpr hsome⟩)
      exact ⟨hbody, rfl, rfl⟩
  · rw [hord, if_neg fun h => hret ((retires_iff s n).mp h).1]

/-! ## The obligation -/

theorem dealPost_judged {s : State} {n code field : Nat} (hfree : s.slotBusy n = false) (hphase : s.port.phase = .operating)
    (hjudged : s.judgePost n (s.readBody n) = (code, field)) :
    s.dealPost n = if code = 0 then s.takePost n (s.readBody n) else s.refusePost n code field := by
  unfold State.dealPost
  rw [if_neg (by rw [hfree]; decide), if_neg (not_not.mpr hphase)]
  extract_lets b
  rw [hjudged]

theorem dealPost_busy {s : State} {n : Nat} (hbusy : s.slotBusy n = true) : s.dealPost n = s.refuseBusy n := if_pos hbusy

/-- Settles O54: each function of the order unit that the statement opens has its own lemma. -/
theorem postAnswered : Obligations.PostAnswered := by
  unfold Obligations.PostAnswered
  intro s n hn hlen a t
  refine ⟨fun hbusy htag => (dealPost_busy hbusy).trans (if_pos htag), fun hbusy htag => ?_, fun hfree hphase => ?_,
    fun hfree hphase hjudged => ?_, fun code field hfree hphase hjudged hcode => ?_, ?_, ?_, discardCopies_spec s hn hlen⟩
  · rw [show t = s.refuseBusy n from dealPost_busy hbusy]
    exact refuseBusy_new s hn hlen htag
  · exact (if_neg (by rw [hfree]; decide)).trans (if_pos hphase)
  · rw [show t = s.takePost n (s.readBody n) from dealPost_judged hfree hphase hjudged]
    exact takePost_spec s hn hlen _
  · rw [show t = s.refusePost n code field from (dealPost_judged hfree hphase hjudged).trans (if_neg hcode)]
    exact refusePost_spec s hn hlen code field
  · intro ready u
    have hready : ready ↔ s.port.phase = .operating ∧ s.orderRunning = false ∧ s.ord.hold = false := by
      rw [orderRunning_false_iff]
    refine ⟨fun h => ?_, fun h hst hlow => ?_⟩
    · show s.testActivation = s
      unfold State.testActivation
      split
      next hr =>
        rw [orderQueue_none (h.resolve_left fun hnot => hnot (hready.mpr hr))]
      next => rfl
    · obtain ⟨rest, hqueue⟩ := orderQueue_head hn hst hlow
      have hu : u = s.activate n := by
        show s.testActivation = _
        rw [State.testActivation, if_pos (hready.mp h), hqueue]
      rw [hu]
      exact activate_spec s hn hlen
  · intro w
    refine ⟨withdraw_taken_spec s hn hlen, fun hst hunits => ?_, withdraw_units_spec s hn hlen, fun htaken hactive => ?_⟩
    · have hw : w = s.finishOrder n 2 := by
        show s.withdraw n = _
        rw [State.withdraw, hst]
        exact if_pos (by rw [hunits]; rfl)
      rw [hw]
      exact finishOrder_spec s hn hlen 2
    · show s.withdraw n = s
      rw [State.withdraw]
      cases hst : (s.order n).st with
      | taken => exact absurd hst htaken
      | active => exact absurd hst hactive
      | none => rfl
      | refused => rfl
      | ending => rfl
      | done => rfl
      | withdrawn => rfl

end Sys2Proof.Proofs.OrderUnit
end

section
/-! PROOFS. The draw loop (3.4): the total of a full block and DRAW_LIMIT. -/

namespace Sys2Proof.Proofs.DrawBlocks
open Sys2Proof.Machine Sys2Proof.Proofs.FaultFacts Sys2Proof.Proofs.Lookups

theorem sameSign_iff (u v : Int) : sameSign u v = true ↔ 0 < u * v := by
  rw [sameSign, mul_pos_iff]
  simp

theorem natAbs_clamp_le {v x : Int} (hx : 0 ≤ x) : ((clamp v x).natAbs : Int) ≤ x := by
  unfold clamp
  split
  · omega
  · split <;> omega

theorem reach_follow (s : State) (code subject : Nat) (b : Bool) : s.faultReach (s.follow code subject b) := by
  unfold State.follow
  exact .ite (.ite (.refl s) (reach_raise _ _ _)) (reach_clear _ _ _)

/-- A condition-type fault that follows a condition is active exactly when the condition holds. -/
theorem follow_faultActive (s : State) {code : Nat} (subject : Nat) (hc : isEventKind code = false)
    (htimeout : code ≠ embossDriveTimeout) (hloss : code ≠ embossRegisterLoss) (b : Bool) :
    (s.follow code subject b).faultActive code subject = b := by
  unfold State.follow
  cases b with
  | false => exact clear_faultActive s code subject
  | true =>
    rw [if_pos rfl]
    split
    next h => exact h
    next => exact raise_faultActive s subject hc htimeout hloss

theorem drawAtLimit_eq (s : State) : s.drawAtLimit = s.draw.report.any DrawReport.atLimit := by
  rw [State.drawAtLimit]
  cases s.draw.report <;> rfl

/-- Within the deadband, or for a step of the total's own sign with the drive at its limit, the total is held. -/
theorem drawTotal_held {s : State} {rho : Int} (h : (rho.natAbs : Int) ≤ s.setting 41
      ∨ (0 < roundHalfAway (rho * s.setting 42) 64 * s.draw.total ∧ s.draw.report.any DrawReport.atLimit = true)) :
    s.drawTotal rho = clamp s.draw.total (s.setting 43) := by
  unfold State.drawTotal
  extract_lets step moved
  have hmoved : moved = s.draw.total := by
    dsimp only [moved]
    rw [Reference.magnitude_eq_natAbs]
    rcases h with h | ⟨hsign, hlimit⟩
    · exact if_pos h
    · have hboth : (sameSign step s.draw.total && s.drawAtLimit) = true := by
        rw [(sameSign_iff _ _).mpr hsign, drawAtLimit_eq, hlimit]
        rfl
      rw [if_pos hboth, ite_self]
  rw [hmoved]

theorem drawTotal_moved {s : State} {rho : Int} (h : ¬ ((rho.natAbs : Int) ≤ s.setting 41
      ∨ (0 < roundHalfAway (rho * s.setting 42) 64 * s.draw.total ∧ s.draw.report.any DrawReport.atLimit = true))) :
    s.drawTotal rho = clamp (s.draw.total + roundHalfAway (rho * s.setting 42) 64) (s.setting 43) := by
  unfold State.drawTotal
  extract_lets step moved
  obtain ⟨hband, hlimit⟩ := not_or.mp h
  have hmoved : moved = s.draw.total + step := by
    dsimp only [moved]
    rw [Reference.magnitude_eq_natAbs, if_neg hband, if_neg]
    rw [Bool.and_eq_true, sameSign_iff, drawAtLimit_eq]
    exact hlimit
  rw [hmoved]

/-- The draw loop after a full block, before DRAW_LIMIT follows: the total is stored, and a changed one is sent and settles. -/
def blockStored (s : State) (total : Int) : State :=
  let t : State := { s with draw := { s.draw with sum := 0, count := 0, total := total } }
  if total ≠ s.draw.total then t.drawResend else t

theorem computeDraw_eq (s : State) : s.computeDraw = (blockStored s (s.drawTotal
    (roundHalfAway ((s.drawTarget - floorDiv s.draw.sum 8) * 1000000) (floorDiv s.draw.sum 8)))).followDrawLimit := by
  unfold State.computeDraw blockStored
  simp only [decide_eq_true_eq]

theorem blockStored_spec (s : State) (total : Int) :
    let t := blockStored s total
    t.draw = { s.draw with
        sum := 0, count := 0, total := total, settle := if total ≠ s.draw.total then s.drawSettleLength else s.draw.settle }
      ∧ State.faultReach { s with draw := t.draw } t := by
  intro t
  by_cases hsame : total = s.draw.total
  · have ht : t = { s with draw := { s.draw with sum := 0, count := 0, total := total } } := if_neg (not_not.mpr hsame)
    rw [ht, if_neg (not_not.mpr hsame)]
    exact ⟨rfl, .refl _⟩
  · have ht : t = State.drawResend { s with draw := { s.draw with sum := 0, count := 0, total := total } } := if_pos hsame
    have hreach : State.faultReach { s with draw := { s.draw with
        sum := 0, count := 0, total := total, settle := s.drawSettleLength } } t := ht ▸ reach_hand _ _ _
    rw [if_pos hsame]
    refine ⟨hreach.draw, ?_⟩
    rw [hreach.draw]
    exact hreach

/-- Settles O24: the block stores the total of R64, and DRAW_LIMIT follows the condition of R65. -/
theorem drawBlockComputed : Obligations.DrawBlockComputed := by
  unfold Obligations.DrawBlockComputed
  intro s mean rho step limit held t
  obtain ⟨hdraw, hstored⟩ := blockStored_spec s (s.drawTotal rho)
  have ht : t = (blockStored s (s.drawTotal rho)).followDrawLimit := computeDraw_eq s
  have hfollow : (blockStored s (s.drawTotal rho)).faultReach t := ht ▸ reach_follow _ _ _ _
  have htdraw : t.draw = _ := hfollow.draw.trans hdraw
  have hlast : State.faultReach { s with draw := t.draw } t := by
    rw [hfollow.draw]
    exact hstored.trans hfollow
  have hord : (blockStored s (s.drawTotal rho)).ord = s.ord := hstored.orders
  have hset : (blockStored s (s.drawTotal rho)).setting 43 = limit := setting_congr hstored.inputs.settings 43
  refine ⟨by rw [htdraw], by rw [htdraw], fun h => ?_, fun h => ?_, fun h => ?_, fun h => ?_, fun h => ?_, ?_, hlast⟩
  · rw [htdraw]
    exact drawTotal_held h
  · rw [htdraw]
    exact drawTotal_moved h
  · rw [htdraw]
    exact natAbs_clamp_le h
  · rw [htdraw] at h ⊢
    exact if_pos h
  · rw [htdraw] at h ⊢
    exact if_neg (not_not.mpr h)
  · rw [htdraw, ht, State.followDrawLimit, follow_faultActive _ 0 rfl (by decide) (by decide), Bool.and_eq_true,
      Bool.or_eq_true, decide_eq_true_eq,
      Reference.magnitude_eq_natAbs, hset, hord, drawAtLimit_eq, hdraw]

end Sys2Proof.Proofs.DrawBlocks
end

section
/-! PROOFS. Verdicts and batches (chapter 4): the shade difference, the batch table and its mirror, deciding the units of a run. -/

namespace Sys2Proof.Proofs.ShadeBatches
open Sys2Proof.Machine Sys2Proof.Proofs.FaultFacts Sys2Proof.Proofs.Lookups Sys2Proof.Proofs.MemoryFacts
open Sys2Proof.Proofs.FaultList Sys2Proof.Proofs.PlannerFacts Sys2Proof.Proofs.OrderUnit Sys2Proof.Proofs.WebDownstream

/-! ## The shade difference (R73) -/

/-- The bits found so far and those still to come enclose the root. -/
theorem isqrtFrom_eq_sqrt {n : Nat} (b r : Nat) (hlow : r * r ≤ n) (hhigh : n < (r + 2 ^ b) * (r + 2 ^ b)) :
    isqrtFrom n b r = Nat.sqrt n := by
  induction b generalizing r with
  | zero => exact Nat.eq_sqrt.mpr ⟨hlow, hhigh⟩
  | succ b ih =>
    rw [isqrtFrom]
    split
    next h =>
      refine ih _ h (hhigh.trans_eq ?_)
      rw [pow_succ]
      ring
    next h => exact ih r hlow (not_le.mp h)

theorem isqrt_eq_sqrt (n : Nat) : isqrt n = Nat.sqrt n := by
  refine isqrtFrom_eq_sqrt _ 0 (Nat.zero_le n) ?_
  calc n < 2 ^ (n.log2 + 1) := Nat.lt_log2_self
    _ ≤ 2 ^ ((n.log2 / 2 + 1) + (n.log2 / 2 + 1)) := Nat.pow_le_pow_right (by decide) (by omega)
    _ = (0 + 2 ^ (n.log2 / 2 + 1)) * (0 + 2 ^ (n.log2 / 2 + 1)) := by rw [Nat.zero_add, pow_add]

theorem shadeSquare_eq (wL wC : Int) (r q : Reading) : shadeSquare wL wC r q
    = (wL * (r.l - q.l)) ^ 2 + (wC * (r.a - q.a)) ^ 2 + (wC * (r.b - q.b)) ^ 2 := by
  simp only [shadeSquare, pow_two]

theorem shadeWithin_iff (wL wC t : Int) (r q : Reading) :
    shadeWithin wL wC t r q = true ↔ shadeSquare wL wC r q ≤ (16 * t) ^ 2 := by
  rw [shadeWithin, decide_eq_true_eq, pow_two]

theorem shadeDifference_eq (wL wC : Int) (r q : Reading) : shadeDifference wL wC r q
    = min 65535 ((Nat.sqrt (shadeSquare wL wC r q).toNat + 8) / 16) := by
  rw [shadeDifference, isqrt_eq_sqrt]
  rfl

/-- A weighted component difference in range. -/
theorem weighted_sq_le {w d bound : Int} (hw : 1 ≤ w) (hw' : w ≤ 32) (hd : -bound ≤ d) (hd' : d ≤ bound) :
    (w * d) ^ 2 ≤ (32 * bound) ^ 2 := by
  refine sq_le_sq' ?_ ?_ <;> nlinarith

theorem shadeSquare_lt {wL wC : Int} {r q : Reading} (hL : 1 ≤ wL) (hL' : wL ≤ 32) (hC : 1 ≤ wC) (hC' : wC ≤ 32)
    (hr : r.valid = true) (hq : q.valid = true) : shadeSquare wL wC r q < 2 ^ 41 := by
  simp only [Reading.valid, Bool.and_eq_true, decide_eq_true_eq] at hr hq
  obtain ⟨⟨⟨⟨⟨hl, hl'⟩, ha⟩, ha'⟩, hb⟩, hb'⟩ := hr
  obtain ⟨⟨⟨⟨⟨kl, kl'⟩, ka⟩, ka'⟩, kb⟩, kb'⟩ := hq
  have h1 : (wL * (r.l - q.l)) ^ 2 ≤ (32 * 10000) ^ 2 := weighted_sq_le hL hL' (by omega) (by omega)
  have h2 : (wC * (r.a - q.a)) ^ 2 ≤ (32 * 25500) ^ 2 := weighted_sq_le hC hC' (by omega) (by omega)
  have h3 : (wC * (r.b - q.b)) ^ 2 ≤ (32 * 25500) ^ 2 := weighted_sq_le hC hC' (by omega) (by omega)
  rw [shadeSquare_eq]
  omega

/-- The darkest and the lightest reading lie beyond what the difference can report. -/
theorem saturation_reached : ∃ r q : Reading, r.valid = true ∧ q.valid = true
    ∧ 65535 < (isqrt (shadeSquare 32 32 r q).toNat + 8) / 16 ∧ shadeDifference 32 32 r q = 65535 := by
  refine ⟨⟨0, -12800, -12800⟩, ⟨10000, 12700, 12700⟩, by decide, by decide, ?_⟩
  have hroot : 1048568 ≤ isqrt (shadeSquare 32 32 ⟨0, -12800, -12800⟩ ⟨10000, 12700, 12700⟩).toNat := by
    rw [isqrt_eq_sqrt, Nat.le_sqrt]
    decide
  refine ⟨by omega, ?_⟩
  rw [shadeDifference, saturate]
  omega

/-- Settles O27, with `Nat.sqrt` for the bit-by-bit root of the model. -/
theorem shadeDifferenceReported : Obligations.ShadeDifferenceReported := by
  refine ⟨fun wL wC t r q => ?_, saturation_reached⟩
  intro square
  have hsquare : square = shadeSquare wL wC r q := (shadeSquare_eq wL wC r q).symm
  rw [hsquare]
  exact ⟨shadeWithin_iff wL wC t r q, shadeDifference_eq wL wC r q, fun hL hL' hC hC' hr hq => shadeSquare_lt hL hL' hC hC' hr hq⟩

/-! ## A batch record changes (R85) -/

theorem BatchRec.bytes_length (r : BatchRec) (b : Nat) : (r.bytes b).length = 32 := by
  simp [BatchRec.bytes, natBytes_length, ImageAndConfig.intBytes_length]

theorem mirror_range {b : Nat} (hb : 1 ≤ b) (hb' : b ≤ 8) (r : BatchRec) :
    partRange (mirrorAddr b) (r.bytes b).length = true ∧ mirrorAddr b + (r.bytes b).length ≤ memSize := by
  rw [BatchRec.bytes_length]
  unfold mirrorAddr
  exact ⟨partRange_mirror (by omega) (by omega), by unfold memSize; omega⟩

theorem setBatch_some {s : State} {b : Nat} {r : BatchRec} (f : BatchRec → BatchRec) (h : s.shade.batches[b - 1]? = some r) :
    s.setBatch b f = (s.setShade (fun p => { p with
      batches := p.batches.set (b - 1) { f r with updates := nextCyclic 255 (f r).updates } })).partStore (mirrorAddr b)
        (BatchRec.bytes { f r with updates := nextCyclic 255 (f r).updates } b) := by
  unfold State.setBatch
  rw [h]

theorem setBatch_none {s : State} {b : Nat} (f : BatchRec → BatchRec) (h : s.shade.batches[b - 1]? = none) : s.setBatch b f = s := by
  unfold State.setBatch
  rw [h]

theorem setBatch_spec (s : State) {b : Nat} (f : BatchRec → BatchRec) {r : BatchRec} (hb : 1 ≤ b) (hb' : b ≤ 8)
    (h : s.shade.batches[b - 1]? = some r) :
    let q : BatchRec := { f r with updates := if (f r).updates < 255 then (f r).updates + 1 else 1 }
    let t := s.setBatch b f
    t.shade = { s.shade with batches := s.shade.batches.set (b - 1) q }
    ∧ t = { s with shade := t.shade, mem := t.mem }
    ∧ t.readBytes (0x1400 + 32 * (b - 1)) 32 = q.bytes b
    ∧ (∀ a, a < 0x1400 + 32 * (b - 1) ∨ 0x1400 + 32 * b ≤ a → t.readByte a = s.readByte a) := by
  intro q t
  have ht : t = (s.setShade (fun p => { p with batches := p.batches.set (b - 1) q })).partStore (mirrorAddr b) (q.bytes b) :=
    setBatch_some f h
  obtain ⟨hrange, hfits⟩ := mirror_range hb hb' q
  refine ⟨by rw [ht, partStore_shade]; rfl, by rw [ht, partStore_eq]; rfl, ?_, fun a ha => ?_⟩
  · have hsame := readBytes_partStore_same (s.setShade (fun p => { p with batches := p.batches.set (b - 1) q })) hrange hfits
    rw [BatchRec.bytes_length] at hsame
    rw [ht]
    exact hsame
  · rw [ht]
    refine (partStore_outside _ _ _ ?_).trans rfl
    rw [BatchRec.bytes_length]
    unfold mirrorAddr
    omega

/-! ## Units are decided (R75, R83) -/

/-- From `s` to `t` units have been decided: their records and the counts of the batch records may change. -/
structure Decided (s t : State) : Prop where
  frame : t = { s with
    track := { s.track with units := t.track.units }, shade := { s.shade with batches := t.shade.batches }, mem := t.mem }
  refs : t.shade.batches.map BatchRec.ref = s.shade.batches.map BatchRec.ref

theorem Decided.refl (s : State) : Decided s s := ⟨rfl, rfl⟩

theorem Decided.trans {s t u : State} (h : Decided s t) (k : Decided t u) : Decided s u :=
  ⟨k.frame.trans (by rw [h.frame]), k.refs.trans h.refs⟩

theorem Decided.ord {s t : State} (h : Decided s t) : t.ord = s.ord := by rw [h.frame]

theorem Decided.batchRef {s t : State} (h : Decided s t) (b : Nat) : t.batchRef b = s.batchRef b := by
  have hget : (t.shade.batches[b - 1]?).map BatchRec.ref = (s.shade.batches[b - 1]?).map BatchRec.ref := by
    rw [← List.getElem?_map, h.refs, List.getElem?_map]
  rw [State.batchRef, hget]
  rfl

theorem decided_setUnit (s : State) (c : Int) (f : UnitRec → UnitRec) : Decided s (s.setUnit c f) := ⟨rfl, rfl⟩

theorem decided_setBatch (s : State) (b : Nat) {f : BatchRec → BatchRec} (hf : ∀ r, (f r).ref = r.ref) :
    Decided s (s.setBatch b f) := by
  cases h : s.shade.batches[b - 1]? with
  | none =>
    rw [setBatch_none f h]
    exact .refl s
  | some r =>
    rw [setBatch_some f h, partStore_eq]
    refine ⟨rfl, ?_⟩
    show (s.shade.batches.set (b - 1) _).map BatchRec.ref = _
    rw [List.map_set]
    obtain ⟨hlt, hget⟩ := List.getElem?_eq_some_iff.mp h
    rw [hf r, ← hget, ← List.getElem_map BatchRec.ref (h := by simpa using hlt), List.set_getElem_self]

/-- A record takes a verdict, a batch and a difference, and its horizon is disarmed. -/
def verdictGiven (v : Verdict) (b : Nat) (d : Option Nat) (w : UnitRec) : UnitRec :=
  { w with verdict := v, batch := b, shadeD := d, horizonAt := none }

theorem verdictGiven_c (v : Verdict) (b : Nat) (d : Option Nat) (w : UnitRec) : (verdictGiven v b d w).c = w.c := rfl

/-- The difference of a unit against the reference of a batch (R83). -/
def differenceOf (s : State) (u : UnitRec) (b : Nat) : Option Nat :=
  u.reading.bind fun r => (s.batchRef b).map fun q => shadeDifference (s.body u.order).wL (s.body u.order).wC r q

/-- The record of a decided unit. -/
def decidedUnit (s : State) (u : UnitRec) (v : Verdict) (b : Nat) : UnitRec := verdictGiven v b (differenceOf s u b) u

/-- A batch record counts a unit (R84). -/
def unitCounted (u : UnitRec) (v : Verdict) (r : BatchRec) : BatchRec :=
  { r with lastUnit := u.number, units := r.units + 1, excursions := r.excursions + (if v = .excursion then 1 else 0) }

theorem decideUnit_eq {s : State} {c : Int} {u : UnitRec} (h : s.unit? c = some u) (v : Verdict) (b : Nat) (counted : Bool) :
    s.decideUnit c v b counted = if b = 0 ∨ counted = true then s.setUnit c (verdictGiven v b (differenceOf s u b))
      else (s.setUnit c (verdictGiven v b (differenceOf s u b))).setBatch b (unitCounted u v) := by
  unfold State.decideUnit
  rw [h]
  have hd : differenceOf s u b = (match u.reading, s.batchRef b with
      | some r, some q => some (shadeDifference (s.body u.order).wL (s.body u.order).wC r q)
      | _, _ => none) := by
    unfold differenceOf
    cases u.reading <;> cases s.batchRef b <;> rfl
  rw [hd]
  exact rfl

theorem decided_decideUnit (s : State) (c : Int) (v : Verdict) (b : Nat) (counted : Bool) :
    Decided s (s.decideUnit c v b counted) := by
  cases h : s.unit? c with
  | none =>
    unfold State.decideUnit
    rw [h]
    exact .refl s
  | some u =>
    rw [decideUnit_eq h]
    split
    · exact decided_setUnit s _ _
    · exact (decided_setUnit s _ _).trans (decided_setBatch _ b fun _ => rfl)

theorem setBatch_units (s : State) (b : Nat) (f : BatchRec → BatchRec) : (s.setBatch b f).track = s.track := by
  cases h : s.shade.batches[b - 1]? with
  | none => rw [setBatch_none f h]
  | some r =>
    rw [setBatch_some f h, partStore_track]
    rfl

theorem unit?_decideUnit_same {s : State} {c : Int} {u : UnitRec} (h : s.unit? c = some u) (v : Verdict) (b : Nat) (counted : Bool) :
    (s.decideUnit c v b counted).unit? c = some (decidedUnit s u v b) := by
  rw [decideUnit_eq h]
  split
  · rw [unit?_setUnit_same s (verdictGiven_c v b _), h]
    rfl
  · rw [unit?_congr (congrArg Track.units (setBatch_units _ b _)), unit?_setUnit_same s (verdictGiven_c v b _), h]
    rfl

theorem unit?_decideUnit_ne (s : State) {c d : Int} (hne : d ≠ c) (v : Verdict) (b : Nat) (counted : Bool) :
    (s.decideUnit c v b counted).unit? d = s.unit? d := by
  cases h : s.unit? c with
  | none =>
    unfold State.decideUnit
    rw [h]
  | some u =>
    rw [decideUnit_eq h]
    split
    · exact unit?_setUnit_ne s (verdictGiven_c v b _) hne
    · rw [unit?_congr (congrArg Track.units (setBatch_units _ b _)), unit?_setUnit_ne s (verdictGiven_c v b _) hne]

/-- A unit is decided with a verdict for a present reading, and as ABSENT without one. -/
def decideAs (v : Verdict) (b : Nat) (counted : Bool) (s : State) (c : Int) : State :=
  match s.unit? c with
  | some u => s.decideUnit c (if u.reading.isSome then v else .absent) b counted
  | none => s

theorem decideAs_some {s : State} {c : Int} {u : UnitRec} (h : s.unit? c = some u) (v : Verdict) (b : Nat) (counted : Bool) :
    decideAs v b counted s c = s.decideUnit c (if u.reading.isSome then v else .absent) b counted := by
  unfold decideAs
  rw [h]

theorem decideAs_none {s : State} {c : Int} (h : s.unit? c = none) (v : Verdict) (b : Nat) (counted : Bool) :
    decideAs v b counted s c = s := by
  unfold decideAs
  rw [h]

/-- What deciding gave to a unit. -/
structure DecidedTo (v : Verdict) (b : Nat) (u w : UnitRec) : Prop where
  verdict : w.verdict = if u.reading.isSome then v else .absent
  batch : w.batch = b
  horizon : w.horizonAt = none
  reading : w.reading = u.reading
  flags : w.flags = u.flags

/-- Units decided in turn. -/
theorem decideAll_spec (v : Verdict) (b : Nat) (counted : Bool) (l : List Int) (s : State) :
    let t := l.foldl (decideAs v b counted) s
    Decided s t ∧ (∀ d, d ∉ l → t.unit? d = s.unit? d)
      ∧ (∀ d ∈ l, ∀ u, s.unit? d = some u → ∃ w, t.unit? d = some w ∧ DecidedTo v b u w) := by
  induction l generalizing s with
  | nil => exact ⟨.refl s, fun _ _ => rfl, fun d hd => absurd hd List.not_mem_nil⟩
  | cons c l ih =>
    intro t
    obtain ⟨hdecided, hout, hin⟩ := ih (decideAs v b counted s c)
    have hne (d : Int) (h : d ≠ c) : (decideAs v b counted s c).unit? d = s.unit? d := by
      cases hc : s.unit? c with
      | none => rw [decideAs_none hc]
      | some u => rw [decideAs_some hc, unit?_decideUnit_ne s h]
    have hsame (u : UnitRec) (h : s.unit? c = some u) :
        ∃ w, (decideAs v b counted s c).unit? c = some w ∧ DecidedTo v b u w := by
      rw [decideAs_some h, unit?_decideUnit_same h]
      exact ⟨_, rfl, rfl, rfl, rfl, rfl, rfl⟩
    have hstep : Decided s (decideAs v b counted s c) := by
      cases hc : s.unit? c with
      | none => rw [decideAs_none hc]; exact .refl s
      | some u => rw [decideAs_some hc]; exact decided_decideUnit s _ _ _ _
    refine ⟨hstep.trans hdecided, fun d hd => ?_, fun d hd u hu => ?_⟩
    · obtain ⟨hdc, hdl⟩ := not_or.mp (mt List.mem_cons.mpr hd)
      exact (hout d hdl).trans (hne d hdc)
    · by_cases hdl : d ∈ l
      · by_cases hdc : d = c
        · subst hdc
          obtain ⟨x, hx, hux⟩ := hsame u hu
          obtain ⟨w, hw, hxw⟩ := hin d hdl x hx
          exact ⟨w, hw, by rw [hxw.verdict, hux.reading], hxw.batch, hxw.horizon, hxw.reading.trans hux.reading,
            hxw.flags.trans hux.flags⟩
        · exact hin d hdl u ((hne d hdc).trans hu)
      · obtain rfl | hd := List.mem_cons.mp hd
        · obtain ⟨x, hx, hux⟩ := hsame u hu
          exact ⟨x, (hout d hdl).trans hx, hux⟩
        · exact absurd hd hdl

theorem decideOut_eq (b : Nat) : (fun (s : State) (c : Int) => s.decideOut b c) = decideAs .excursion b false := by
  funext s c
  cases h : s.unit? c with
  | none =>
    rw [decideAs_none h, State.decideOut, h]
  | some u =>
    rw [decideAs_some h, State.decideOut, h]

/-- The run is decided as excursions of the open batch or of batch 0, and emptied. -/
theorem decideRun_spec (s : State) :
    let t := s.decideRun
    t = { s with
      track := { s.track with units := t.track.units }, mem := t.mem,
      shade := { s.shade with batches := t.shade.batches, run := [], runReadings := 0 } }
      ∧ t.shade.batches.map BatchRec.ref = s.shade.batches.map BatchRec.ref
      ∧ (∀ d, d ∉ s.shade.run → t.unit? d = s.unit? d)
      ∧ (∀ d ∈ s.shade.run, ∀ u, s.unit? d = some u → ∃ w, t.unit? d = some w ∧ DecidedTo .excursion s.batchNow u w) := by
  intro t
  obtain ⟨hdecided, hout, hin⟩ := decideAll_spec .excursion s.batchNow false s.shade.run s
  have ht : t = (s.shade.run.foldl (decideAs .excursion s.batchNow false) s).setShade
      (fun p => { p with run := [], runReadings := 0 }) := by
    rw [← decideOut_eq]
    rfl
  generalize s.shade.run.foldl (decideAs .excursion s.batchNow false) s = v at *
  have hunits : t.track.units = v.track.units := by rw [ht]; rfl
  refine ⟨?_, by rw [ht]; exact hdecided.refs, fun d hd => (unit?_congr hunits d).trans (hout d hd), fun d hd u hu => ?_⟩
  · rw [ht, hdecided.frame]
    rfl
  · obtain ⟨w, hw, huw⟩ := hin d hd u hu
    exact ⟨w, (unit?_congr hunits d).trans hw, huw⟩

end Sys2Proof.Proofs.ShadeBatches
end

section
/-! PROOFS. Batches (R74 to R76, R82): closing, opening, and a reading in the open batch. -/

namespace Sys2Proof.Proofs.ShadeBatches
open Sys2Proof.Machine Sys2Proof.Proofs.FaultFacts Sys2Proof.Proofs.Lookups Sys2Proof.Proofs.MemoryFacts
open Sys2Proof.Proofs.FaultList Sys2Proof.Proofs.PlannerFacts Sys2Proof.Proofs.OrderUnit Sys2Proof.Proofs.WebDownstream

/-! ## Closing -/

theorem setBatch_frame (s : State) (b : Nat) (f : BatchRec → BatchRec) :
    s.setBatch b f = { s with
        shade := { s.shade with batches := (s.setBatch b f).shade.batches }, mem := (s.setBatch b f).mem }
      ∧ (s.setBatch b f).shade.batches.length = s.shade.batches.length := by
  cases h : s.shade.batches[b - 1]? with
  | none =>
    rw [setBatch_none f h]
    exact ⟨rfl, rfl⟩
  | some r =>
    rw [setBatch_some f h, partStore_eq]
    exact ⟨rfl, List.length_set⟩

theorem closeBatch_none {s : State} (h : s.shade.openBatch = none) : s.closeBatch = s := by
  rw [State.closeBatch, h]

theorem closeBatch_some {s : State} {b : Nat} (h : s.shade.openBatch = some b) : s.closeBatch
    = ((s.setBatch b (fun r => { r with isOpen := false })).setShade (fun p => { p with openBatch := none })).latch .batch := by
  rw [State.closeBatch, h]

/-- Closing changes the table, its mirror and the notice. -/
theorem closeBatch_frame (s : State) :
    s.closeBatch = { s with
        shade := { s.shade with openBatch := none, batches := s.closeBatch.shade.batches }, mem := s.closeBatch.mem,
        port := { s.port with notice := s.closeBatch.port.notice } }
      ∧ s.closeBatch.shade.batches.length = s.shade.batches.length := by
  cases h : s.shade.openBatch with
  | none =>
    rw [closeBatch_none h, ← h]
    exact ⟨rfl, rfl⟩
  | some b =>
    obtain ⟨hframe, hlength⟩ := setBatch_frame s b (fun r => { r with isOpen := false })
    rw [closeBatch_some h]
    generalize s.setBatch b (fun r => { r with isOpen := false }) = v at *
    refine ⟨?_, hlength⟩
    rw [hframe]
    rfl

theorem closeBatch_record {s : State} {b : Nat} (h : s.shade.openBatch = some b) (hb : 1 ≤ b) (hlen : b ≤ s.shade.batches.length) :
    (∃ r, s.closeBatch.shade.batches[b - 1]? = some r ∧ r.isOpen = false) ∧ s.closeBatch.noticed .batch = true
      ∧ (b ≤ 8 → s.closeBatch.readByte (0x1400 + 32 * (b - 1) + 3) = 2) := by
  have hget : s.shade.batches[b - 1]? = some s.shade.batches[b - 1] := List.getElem?_eq_getElem (by omega)
  rw [closeBatch_some h]
  refine ⟨?_, latch_noticed _ _, fun hb' => ?_⟩
  · rw [setBatch_some _ hget, partStore_eq]
    exact ⟨_, List.getElem?_set_self (by omega), rfl⟩
  · obtain ⟨-, -, hbytes, -⟩ := setBatch_spec s (fun r => { r with isOpen := false }) hb hb' hget
    have hmem : (((s.setBatch b (fun r => { r with isOpen := false })).setShade
        (fun p => { p with openBatch := none })).latch .batch).mem = (s.setBatch b (fun r => { r with isOpen := false })).mem := rfl
    rw [readByte_of_mem hmem]
    have hthird := congrArg (fun l => l.getD 3 0) hbytes
    simpa [readBytes_eq_map, BatchRec.bytes] using hthird

/-! ## Opening (R76) -/

/-- The number of the last unit of the run; of the boundary unit `u` where it is not held. -/
def lastOfRun (s : State) (u : UnitRec) : Nat :=
  match s.shade.run.getLast?.bind s.unit? with
  | some w => w.number
  | none => u.number

theorem lastOfRun_some {s : State} {w : UnitRec} (u : UnitRec) (h : s.shade.run.getLast?.bind s.unit? = some w) :
    lastOfRun s u = w.number := by
  rw [lastOfRun, h]

/-- The record of a batch that opens. -/
def batchMade (s : State) (u : UnitRec) (ref : Reading) : BatchRec :=
  { isOpen := true, ref := ref, boundaryUnit := u.number,
    lastUnit := lastOfRun s u, units := s.shade.run.length, excursions := 0, rolls := 0, updates := 1 }

/-- The boundary unit is flagged. -/
def boundaryFlagged (u : UnitRec) : UnitRec := { u with flags := { u.flags with boundary := true } }

theorem boundaryFlagged_c (u : UnitRec) : (boundaryFlagged u).c = u.c := rfl

/-- The batch stands in the table and in the mirror, and its boundary unit is flagged. -/
def batchShown (s : State) (u : UnitRec) (ref : Reading) (c : Int) : State :=
  ((s.setShade (fun p => { p with
      batches := p.batches ++ [batchMade s u ref], openBatch := some (s.shade.batches.length + 1), run := [],
      runReadings := 0 })).partStore (mirrorAddr (s.shade.batches.length + 1))
    ((batchMade s u ref).bytes (s.shade.batches.length + 1))).setUnit c boundaryFlagged

/-- The units of the run are given the batch. -/
def runJoined (s : State) (u : UnitRec) (ref : Reading) (c : Int) : State :=
  s.shade.run.foldl (decideAs .isIn (s.shade.batches.length + 1) true) (batchShown s u ref c)

/-- The reference store takes the reference of the batch, when there is a classifying order. -/
def refStored (s : State) (b : Nat) (ref : Reading) : State :=
  match s.shade.classifying with
  | some k => s.storeRef k b ref
  | none => s

theorem refStored_frame (s : State) (b : Nat) (ref : Reading) :
    refStored s b ref = { s with rolls := (refStored s b ref).rolls } := by
  unfold refStored
  split <;> rfl

/-- What opens after the open batch is closed: the units of the run join it, the reference store takes its reference, and the
planner is asked for a boundary. -/
theorem openNewBatch_eq {s : State} {c : Int} {u : UnitRec} (h : s.unit? c = some u) (ref : Reading) :
    let v := refStored (runJoined s.closeBatch u ref c) (s.closeBatch.shade.batches.length + 1) ref
    s.openNewBatch c ref = (v.request .batch (v.spanStart u)).latch .batch := by
  intro v
  unfold State.openNewBatch
  rw [h]
  exact rfl

/-- Units decided for a batch whose record already counts them. -/
theorem decideAll_counted (v : Verdict) (b : Nat) (l : List Int) (s : State) :
    ∃ x : List UnitRec, l.foldl (decideAs v b true) s = { s with track := { s.track with units := x } } := by
  induction l generalizing s with
  | nil => exact ⟨s.track.units, rfl⟩
  | cons c l ih =>
    have hstep : ∃ x : List UnitRec, decideAs v b true s c = { s with track := { s.track with units := x } } := by
      cases hc : s.unit? c with
      | none => exact ⟨s.track.units, decideAs_none hc v b true⟩
      | some u => exact ⟨_, (decideAs_some hc v b true).trans ((decideUnit_eq hc _ b true).trans (if_pos (.inr rfl)))⟩
    obtain ⟨x, hx⟩ := hstep
    obtain ⟨y, hy⟩ := ih (decideAs v b true s c)
    exact ⟨y, hy.trans (by rw [hx])⟩

theorem batchShown_frame (s : State) (u : UnitRec) (ref : Reading) (c : Int) : batchShown s u ref c = { s with
    track := (s.setUnit c boundaryFlagged).track, mem := (batchShown s u ref c).mem,
    shade := { s.shade with
      batches := s.shade.batches ++ [batchMade s u ref], openBatch := some (s.shade.batches.length + 1), run := [],
      runReadings := 0 } } := by
  unfold batchShown
  rw [partStore_eq]
  rfl

theorem unit?_batchShown (s : State) (u : UnitRec) (ref : Reading) (c d : Int) :
    (batchShown s u ref c).unit? d = if d = c then (s.unit? d).map boundaryFlagged else s.unit? d := by
  have htrack : (batchShown s u ref c).track = (s.setUnit c boundaryFlagged).track := by rw [batchShown_frame]
  rw [unit?_congr (congrArg Track.units htrack)]
  split
  next h => rw [h, unit?_setUnit_same s boundaryFlagged_c]
  next h => exact unit?_setUnit_ne s boundaryFlagged_c h

theorem runJoined_frame (s : State) (u : UnitRec) (ref : Reading) (c : Int) : runJoined s u ref c = { s with
    track := { s.track with units := (runJoined s u ref c).track.units }, mem := (batchShown s u ref c).mem,
    shade := { s.shade with
      batches := s.shade.batches ++ [batchMade s u ref], openBatch := some (s.shade.batches.length + 1), run := [],
      runReadings := 0 } } := by
  obtain ⟨x, hcounted⟩ := decideAll_counted .isIn (s.shade.batches.length + 1) s.shade.run (batchShown s u ref c)
  have hshown := batchShown_frame s u ref c
  unfold runJoined
  generalize (batchShown s u ref c).mem = m at *
  generalize batchShown s u ref c = v at *
  rw [hcounted, hshown]
  exact rfl

/-- The units of the run are in the new batch, and its first one is flagged. -/
theorem runJoined_units {s : State} {u : UnitRec} {c : Int} (hc : s.unit? c = some u) (hrun : c ∈ s.shade.run) (ref : Reading) :
    (∃ v, (runJoined s u ref c).unit? c = some v ∧ v.flags.boundary = true)
      ∧ ∀ d ∈ s.shade.run, ∀ w, s.unit? d = some w → ∃ v, (runJoined s u ref c).unit? d = some v
          ∧ v.batch = s.shade.batches.length + 1 ∧ v.horizonAt = none
          ∧ v.verdict = if w.reading.isSome then .isIn else .absent := by
  obtain ⟨-, -, hin⟩ := decideAll_spec .isIn (s.shade.batches.length + 1) true s.shade.run (batchShown s u ref c)
  have hflagged : (batchShown s u ref c).unit? c = some (boundaryFlagged u) := by rw [unit?_batchShown, if_pos rfl, hc]; rfl
  refine ⟨?_, fun d hd w hw => ?_⟩
  · obtain ⟨v, hv, huv⟩ := hin c hrun _ hflagged
    exact ⟨v, hv, by rw [huv.flags]; rfl⟩
  · have hbefore : ∃ x, (batchShown s u ref c).unit? d = some x ∧ x.reading = w.reading := by
      rw [unit?_batchShown, hw]
      split
      · exact ⟨_, rfl, rfl⟩
      · exact ⟨_, rfl, rfl⟩
    obtain ⟨x, hx, hreading⟩ := hbefore
    obtain ⟨v, hv, hxv⟩ := hin d hd x hx
    exact ⟨v, hv, hxv.batch, hxv.horizon, by rw [hxv.verdict, hreading]⟩

theorem batchShown_bytes (s : State) (u : UnitRec) (ref : Reading) (c : Int) (hn : s.shade.batches.length < 8) :
    (batchShown s u ref c).readBytes (0x1400 + 32 * s.shade.batches.length) 32
        = (batchMade s u ref).bytes (s.shade.batches.length + 1)
      ∧ ∀ x, x < 0x1400 + 32 * s.shade.batches.length → (batchShown s u ref c).readByte x = s.readByte x := by
  obtain ⟨hrange, hfits⟩ := mirror_range (b := s.shade.batches.length + 1) (by omega) (by omega) (batchMade s u ref)
  have hmem (v : State) : (v.setUnit c boundaryFlagged).mem = v.mem := rfl
  constructor
  · have hsame := readBytes_partStore_same (s.setShade (fun p => { p with
      batches := p.batches ++ [batchMade s u ref], openBatch := some (s.shade.batches.length + 1), run := [],
      runReadings := 0 })) hrange hfits
    rw [BatchRec.bytes_length] at hsame
    exact (readBytes_congr fun x _ _ => readByte_of_mem (hmem _) x).trans hsame
  · intro x hx
    refine (readByte_of_mem (hmem _) x).trans ((partStore_outside _ _ _ (.inl ?_)).trans rfl)
    unfold mirrorAddr
    omega

/-! ## The test of the run (R76) -/

theorem foldl_add_eq_sum (f : Reading → Int) (rs : List Reading) : rs.foldl (fun sum r => sum + f r) 0 = (rs.map f).sum := by
  rw [List.sum_eq_foldl, List.foldl_map]

theorem candidate_eq (rs : List Reading) :
    let mean (f : Reading → Int) : Int := roundHalfAway (rs.map f).sum rs.length
    candidate rs = { l := mean Reading.l, a := mean Reading.a, b := mean Reading.b } := by
  intro mean
  simp only [candidate, foldl_add_eq_sum, mean]

theorem testRun_opens {s : State} {body : OrderBody} {c : Int} (hhead : s.shade.run.head? = some c)
    (hfull : body.persistence ≤ (s.shade.runReadings : Int)) (hroom : s.shade.batches.length < 8)
    (hwithin : ∀ r ∈ s.runReadings, shadeWithin body.wL body.wC body.tol r (candidate s.runReadings) = true) :
    s.testRun body = s.openNewBatch c (candidate s.runReadings) := by
  unfold State.testRun
  rw [if_pos hfull]
  extract_lets rs ref
  rw [if_pos (List.all_eq_true.mpr hwithin), if_neg (by omega), hhead]

/-- The next batch opens. -/
theorem openNewBatch_spec (s : State) {c : Int} {u : UnitRec} (ref : Reading) (hhead : s.shade.run.head? = some c)
    (hc : s.unit? c = some u) (hroom : s.shade.batches.length < 8)
    (hopen : ∀ b, s.shade.openBatch = some b → 1 ≤ b ∧ b ≤ s.shade.batches.length) :
    let n := s.shade.batches.length
    let t := s.openNewBatch c ref
    t.shade.openBatch = some (n + 1) ∧ t.shade.run = [] ∧ t.shade.runReadings = 0 ∧ t.shade.batches.length = n + 1
    ∧ (∀ b, s.shade.openBatch = some b → (∃ r, t.shade.batches[b - 1]? = some r ∧ r.isOpen = false)
        ∧ t.readByte (0x1400 + 32 * (b - 1) + 3) = 2)
    ∧ (∃ r, t.shade.batches[n]? = some r ∧ r = {
          isOpen := true, ref := ref, boundaryUnit := u.number, lastUnit := r.lastUnit, units := s.shade.run.length,
          excursions := 0, rolls := 0, updates := 1 }
        ∧ (∀ w, s.shade.run.getLast?.bind s.unit? = some w → r.lastUnit = w.number)
        ∧ t.readBytes (0x1400 + 32 * n) 32 = r.bytes (n + 1))
    ∧ (∃ v, t.unit? c = some v ∧ v.flags.boundary = true)
    ∧ (∀ d ∈ s.shade.run, ∀ w, s.unit? d = some w → ∃ v, t.unit? d = some v ∧ v.batch = n + 1 ∧ v.horizonAt = none
        ∧ v.verdict = (if w.reading.isSome then .isIn else .absent))
    ∧ t.noticed .batch = true
    ∧ (∃ p : State, p.cut = s.cut ∧ p.winder = s.winder ∧ t = (p.request .batch (s.spanStart u)).latch .batch) := by
  intro n t
  obtain ⟨hclosed, hlength⟩ := closeBatch_frame s
  have hrecord (b : Nat) (h : s.shade.openBatch = some b) := closeBatch_record h (hopen b h).1 (hopen b h).2
  have hopened := openNewBatch_eq hc ref
  obtain ⟨q, hq⟩ : ∃ q, q = s.closeBatch := ⟨_, rfl⟩
  rw [← hq] at hclosed hlength hopened
  simp only [← hq] at hrecord
  have hqtrack : q.track = s.track := by rw [hclosed]
  have hqunit (d : Int) : q.unit? d = s.unit? d := unit?_congr (congrArg Track.units hqtrack) d
  have hqrun : q.shade.run = s.shade.run := by rw [hclosed]
  have hqc : q.unit? c = some u := (hqunit c).trans hc
  have hmem : c ∈ s.shade.run := List.mem_of_head? hhead
  have hjoined := runJoined_frame q u ref c
  obtain ⟨hboundary, hunits⟩ := runJoined_units hqc (hqrun ▸ hmem) ref
  obtain ⟨hbytes, hother⟩ := batchShown_bytes q u ref c (hlength ▸ hroom)
  have hstored := refStored_frame (runJoined q u ref c) (q.shade.batches.length + 1) ref
  obtain ⟨v, hv⟩ : ∃ v, v = refStored (runJoined q u ref c) (q.shade.batches.length + 1) ref := ⟨_, rfl⟩
  rw [← hv] at hopened hstored
  have hreach : PlanReach v (v.request .batch (v.spanStart u)) := plan_request v _ _
  have ht : t = (v.request .batch (v.spanStart u)).latch .batch := hopened
  have hvshade : v.shade = { q.shade with
      batches := q.shade.batches ++ [batchMade q u ref], openBatch := some (q.shade.batches.length + 1), run := [],
      runReadings := 0 } := by
    rw [hstored, hjoined]
  have htshade : t.shade = _ := (by rw [ht]; exact hreach.shade : t.shade = v.shade).trans hvshade
  have htunit (d : Int) : t.unit? d = (runJoined q u ref c).unit? d := by
    refine unit?_congr ?_ d
    rw [ht, latch_track, hreach.track, hstored]
  have htbyte (x : Nat) (hx : 0x40 ≤ x) (hx' : x < 0x1500) : t.readByte x = (batchShown q u ref c).readByte x := by
    have hvmem : v.mem = (batchShown q u ref c).mem := by rw [hstored, hjoined]
    have hkept : (v.request .batch (v.spanStart u)).readByte x = v.readByte x := hreach.bytes x (.inr ⟨hx, hx'⟩)
    rw [ht, readByte_of_mem (latch_mem _ _), hkept, readByte_of_mem hvmem]
  have hspan : v.spanStart u = s.spanStart u := by
    have hord : v.ord = s.ord := by rw [hstored, hjoined, hclosed]
    have hset : v.settings = s.settings := by rw [hstored, hjoined, hclosed]
    simp only [State.spanStart, State.phaseF, State.feP, setting_congr hset, body_congr hord]
  refine ⟨by rw [htshade, hlength], by rw [htshade], by rw [htshade], by rw [htshade]; simp [hlength, n], fun b hb => ?_,
    ⟨batchMade q u ref, ?_, ?_, fun w hw => ?_, ?_⟩, ?_, fun d hd w hw => ?_, ht ▸ latch_noticed _ _, v, ?_, ?_, ?_⟩
  · obtain ⟨⟨r, hr, hclosed'⟩, -, hbyte⟩ := hrecord b hb
    obtain ⟨hb1, hbn⟩ := hopen b hb
    refine ⟨⟨r, ?_, hclosed'⟩, ?_⟩
    · rw [htshade]
      exact (List.getElem?_append_left (by omega)).trans hr
    · rw [htbyte _ (by omega) (by omega), hother _ (by omega), hbyte (by omega)]
  · rw [htshade, show n = q.shade.batches.length from hlength.symm]
    exact List.getElem?_concat_length
  · rw [batchMade, hqrun]
  · rw [← lastOfRun_some (s := q) u (by rw [hqrun, funext hqunit]; exact hw)]
    rfl
  · rw [show n = q.shade.batches.length from hlength.symm, ← hbytes]
    exact readBytes_congr fun x hx hx' => htbyte x (by omega) (by omega)
  · obtain ⟨w, hw, hflag⟩ := hboundary
    exact ⟨w, (htunit c).trans hw, hflag⟩
  · obtain ⟨x, hx, hbatch, hhorizon, hverdict⟩ := hunits d (hqrun ▸ hd) w ((hqunit d).trans hw)
    exact ⟨x, (htunit d).trans hx, by rw [hbatch, hlength], hhorizon, hverdict⟩
  · rw [hstored, hjoined, hclosed]
  · rw [hstored, hjoined, hclosed]
  · rw [ht, hspan]

/-! ## The obligation -/

/-- A reading within tolerance of the open batch. -/
theorem classifyRunning_inBatch {s : State} {c : Int} {body : OrderBody} {r : Reading} {b : Nat} {rec : BatchRec}
    (hopen : s.shade.openBatch = some b) (hb : 1 ≤ b) (hrec : s.shade.batches[b - 1]? = some rec)
    (hwithin : shadeWithin body.wL body.wC body.tol r rec.ref = true) :
    s.classifyRunning c body (some r) = s.decideRun.decideUnit c .isIn b false := by
  have hany : (s.batchRef b).any (fun q => shadeWithin body.wL body.wC body.tol r q) = true := by
    rw [State.batchRef, if_neg (by omega), hrec]
    exact hwithin
  rw [State.classifyRunning, hopen]
  exact if_pos hany

/-- The end of the classifying order decides the run and closes its batch. -/
theorem shadeOrderDone_closes {s : State} {k : OrderKey} {b : Nat} (hk : s.shade.classifying = some k)
    (hopen : s.shade.openBatch = some b) (hb : 1 ≤ b) (hlen : b ≤ s.shade.batches.length) :
    let t := s.shadeOrderDone k
    t.shade.openBatch = none ∧ t.shade.run = [] ∧ t.noticed .batch = true
      ∧ (∃ r, t.shade.batches[b - 1]? = some r ∧ r.isOpen = false) := by
  intro t
  have ht : t = s.decideRun.closeBatch := if_pos hk
  obtain ⟨hframe, hrefs, -, -⟩ := decideRun_spec s
  have hlength : s.decideRun.shade.batches.length = s.shade.batches.length := by simpa using congrArg List.length hrefs
  obtain ⟨hclosed, -⟩ := closeBatch_frame s.decideRun
  obtain ⟨hrecord, hnotice, -⟩ := closeBatch_record (s := s.decideRun) (b := b) (by rw [hframe]; exact hopen) hb (by omega)
  rw [ht]
  refine ⟨by rw [hclosed], ?_, hnotice, hrecord⟩
  rw [hclosed, hframe]

/-- A change of the classifying order empties the table and the mirror. -/
theorem changeClassifying_spec (s : State) (k : OrderKey) :
    let t := s.changeClassifying k
    t.shade.batches = [] ∧ t.shade.openBatch = none ∧ t.shade.run = [] ∧ t.shade.classifying = some k
      ∧ t.readBytes 0x1400 256 = List.replicate 256 0 ∧ t.noticed .batch = true := by
  intro t
  obtain ⟨hframe, -, -, -⟩ := decideRun_spec s
  obtain ⟨hclosed, -⟩ := closeBatch_frame s.decideRun
  obtain ⟨v, hv⟩ : ∃ v, v = s.decideRun.closeBatch.setShade (fun p => { p with
    batches := [], openBatch := none, tableFull := false, classifying := some k }) := ⟨_, rfl⟩
  have ht : t = (v.partStore (mirrorAddr 1) (List.replicate 256 0)).latch .batch := by rw [hv]; rfl
  have hshade : t.shade = v.shade := by rw [ht, latch_shade, partStore_shade]
  refine ⟨by rw [hshade, hv]; rfl, by rw [hshade, hv]; rfl, ?_, by rw [hshade, hv]; rfl, ?_, ht ▸ latch_noticed _ _⟩
  · rw [hshade, hv]
    show s.decideRun.closeBatch.shade.run = []
    rw [hclosed, hframe]
  · have hrange : partRange (mirrorAddr 1) (List.replicate 256 (0 : Byte)).length = true := by
      rw [List.length_replicate]
      exact partRange_mirror (by decide) (by decide)
    have hfits : mirrorAddr 1 + (List.replicate 256 (0 : Byte)).length ≤ memSize := by
      rw [List.length_replicate]
      decide
    have hzero := readBytes_partStore_same v hrange hfits
    rw [List.length_replicate] at hzero
    rw [ht]
    exact (readBytes_congr fun x _ _ => readByte_of_mem (latch_mem _ _) x).trans hzero

/-- Settles O28. -/
theorem readingInOpenBatch : Obligations.ReadingInOpenBatch := by
  refine ⟨fun s u b rec r hu hreading hrun hopen hb hrec hwithin => ?_,
    fun s body c u => ?_, fun s k b => shadeOrderDone_closes, changeClassifying_spec,
    fun s b f r hb hb' h => setBatch_spec s f hb hb' h⟩
  · intro t
    have ht : t = s.decideRun.decideUnit u.c .isIn b false := classifyRunning_inBatch hopen hb hrec hwithin
    obtain ⟨hframe, hrefs, hout, hin⟩ := decideRun_spec s
    have hnow : s.batchNow = b := by rw [State.batchNow, hopen]; rfl
    have hu' : s.decideRun.unit? u.c = some u := (hout u.c hrun).trans hu
    have hdecided := decided_decideUnit s.decideRun u.c .isIn b false
    have hshade : t.shade = { s.decideRun.shade with batches := t.shade.batches } := by
      rw [ht]
      exact congrArg State.shade hdecided.frame
    have hbody : s.decideRun.body u.order = s.body u.order := body_congr (by rw [hframe]) _
    have href : s.decideRun.batchRef b = some rec.ref := by
      have hget := congrArg (fun l => l[b - 1]?) hrefs
      simp only [List.getElem?_map, hrec] at hget
      rw [State.batchRef, if_neg (by omega)]
      exact hget
    refine ⟨by rw [hshade, hframe], by rw [hshade, hframe]; exact hopen, ⟨decidedUnit s.decideRun u .isIn b, ?_, rfl, rfl, rfl, ?_⟩,
      fun d hd w hw => ?_⟩
    · rw [ht, unit?_decideUnit_same hu']
    · show differenceOf s.decideRun u b = _
      rw [differenceOf, hreading, href, hbody]
      rfl
    · obtain ⟨v, hv, hwv⟩ := hin d hd w hw
      have hne : d ≠ u.c := fun h => hrun (h ▸ hd)
      rw [ht, unit?_decideUnit_ne _ hne]
      exact ⟨v, hv, hwv.verdict, hnow ▸ hwv.batch⟩
  · intro rs n mean ref hhead hu hfull hroom hwithin hopen t
    have href : candidate rs = ref := candidate_eq rs
    have ht : t = s.openNewBatch c ref := by
      rw [← href]
      exact testRun_opens hhead hfull hroom (by rw [show candidate s.runReadings = ref from href]; exact hwithin)
    rw [ht]
    exact openNewBatch_spec s ref hhead hu hroom hopen

end Sys2Proof.Proofs.ShadeBatches
end

section
/-! PROOFS. Shade events and horizons (R67, R79): requests, and the units that get no reading. -/

namespace Sys2Proof.Proofs.ShadeEvents
open Sys2Proof.Machine Sys2Proof.Proofs.FaultFacts Sys2Proof.Proofs.Lookups Sys2Proof.Proofs.WebDownstream
open Sys2Proof.Proofs.ShadeBatches

/-! ## The queue of requests -/

theorem drainRequests_empty {s : State} (h : s.shade.queue = []) (fuel : Nat) : s.drainRequests fuel = s := by
  cases fuel with
  | zero => exact rfl
  | succ fuel => rw [State.drainRequests, h]

theorem drainRequests_unfinished {s : State} {q : Request} {rest : List Request} (h : s.shade.queue = q :: rest) (hst : q.st ≠ .done)
    (fuel : Nat) : s.drainRequests fuel = s := by
  cases fuel with
  | zero => exact rfl
  | succ fuel =>
    rw [State.drainRequests, h]
    exact if_neg hst

/-- No request at the front is finished. -/
theorem classifyDone_unfinished {s : State} (h : ∀ q ∈ s.shade.queue, q.st ≠ .done) : s.classifyDone = s := by
  cases hq : s.shade.queue with
  | nil => exact drainRequests_empty hq 9
  | cons q rest => exact drainRequests_unfinished hq (h q (by rw [hq]; exact List.mem_cons_self)) 9

theorem endRequests_none {s : State} {p : Request → Bool} (h : ∀ q ∈ s.shade.queue, p q = false) : s.endRequests p = s := by
  have hmap : s.shade.queue.map (fun q => if q.st ≠ .done ∧ p q = true then { q with st := .done, result := none } else q)
      = s.shade.queue := by
    refine (List.map_congr_left fun q hq => if_neg ?_).trans (List.map_id _)
    rw [h q hq]
    exact fun hboth => Bool.false_ne_true hboth.2
  rw [State.endRequests, State.setShade, hmap]

/-! ## The shade event (R67) -/

/-- An event that is due. -/
theorem reached_of_le {s : State} {t : Option Int} {x : Int} (ht : t = some x) (hx : x ≤ s.posHF) : s.reached t = true := by
  rw [ht]
  exact decide_eq_true hx

/-- Settles O25. -/
theorem shadeEventRequests : Obligations.ShadeEventRequests := by
  unfold Obligations.ShadeEventRequests
  intro s u x hu hx hdue disarmed
  have hexec : exec (.shadeEvent u.c) s = .next (s.shadeRequest u).settlePlan := by
    show Host.Outcome.next (s.shadeEvent u.c) = _
    rw [State.shadeEvent, hu]
    exact congrArg Host.Outcome.next (if_pos (reached_of_le hx hdue))
  rw [hexec]
  refine ⟨fun hverdict => ?_, fun hverdict hst hpresent hroom hqueue => ?_⟩
  · rw [show s.shadeRequest u = disarmed from if_pos hverdict]
  · intro queued
    have happend (q : Request) : disarmed.appendRequest q = disarmed.setShade (fun p => { p with queue := p.queue ++ [q] }) := by
      have hnot : ¬ 8 ≤ disarmed.shade.queue.length := not_le.mpr hroom
      rw [State.appendRequest, if_neg hnot]
    have hqueued : ∀ q ∈ queued.shade.queue, q.st ≠ .done ∧ ¬ (q.st = .inFlight ∧ q.tag = u.number % 256) := by
      intro q hq
      rcases List.mem_append.mp hq with hq | hq
      · exact hqueue q hq
      · rw [List.mem_singleton.mp hq]
        exact ⟨nofun, fun h => nomatch h.1⟩
    have hended : queued.endRequests (fun q => decide (q.st = .inFlight) && decide (q.tag = u.number % 256)) = queued := by
      refine endRequests_none fun q hq => ?_
      have := (hqueued q hq).2
      rw [Bool.and_eq_false_iff, decide_eq_false_iff_not, decide_eq_false_iff_not]
      exact not_and_or.mp this
    have hhanded : ((queued.hand .shade (.measure (u.number % 256) u.c)).1).classifyDone
        = (queued.hand .shade (.measure (u.number % 256) u.c)).1 := by
      refine classifyDone_unfinished fun q hq => ?_
      rw [(reach_hand _ _ _).shade] at hq
      exact (hqueued q hq).1
    have hasked : s.shadeRequest u = (queued.hand .shade (.measure (u.number % 256) u.c)).1 := by
      unfold State.shadeRequest
      extract_lets v tag absent w
      have hv : v = disarmed := rfl
      have hpresent' : disarmed.nodePresent .shade = true := hpresent
      have hw : w = queued := by
        dsimp only [w]
        rw [hv, happend]
        exact hended
      have hnot : ¬ ((v.order u.order).st = .done ∨ v.nodePresent .shade = false) := by
        rw [hv, hpresent']
        exact fun h => h.elim hst (fun h => Bool.noConfusion h)
      rw [if_neg (not_not.mpr hverdict), if_neg hnot, hw]
      exact hhanded
    rw [hasked]

/-! ## A unit without a reading (R78, R79) -/

theorem changeClassifying_frame (s : State) (k : OrderKey) :
    let t := s.changeClassifying k
    t.shade = { s.shade with
        batches := [], openBatch := none, run := [], runReadings := 0, tableFull := false, classifying := some k }
      ∧ t.ord = s.ord ∧ (∀ d, d ∉ s.shade.run → t.unit? d = s.unit? d) := by
  intro t
  obtain ⟨hframe, -, hout, -⟩ := decideRun_spec s
  obtain ⟨hclosed, -⟩ := closeBatch_frame s.decideRun
  obtain ⟨v, hv⟩ : ∃ v, v = s.decideRun.closeBatch.setShade (fun p => { p with
    batches := [], openBatch := none, tableFull := false, classifying := some k }) := ⟨_, rfl⟩
  have ht : t = (v.partStore (mirrorAddr 1) (List.replicate 256 0)).latch .batch := by rw [hv]; rfl
  refine ⟨?_, ?_, fun d hd => ?_⟩
  · rw [ht, latch_shade, partStore_shade, hv]
    show { s.decideRun.closeBatch.shade with
      batches := [], openBatch := none, tableFull := false, classifying := some k } = _
    rw [hclosed, hframe]
  · rw [ht, latch_ord, partStore_ord, hv]
    show s.decideRun.closeBatch.ord = _
    rw [hclosed, hframe]
  · refine (unit?_congr ?_ d).trans (hout d hd)
    rw [ht, latch_track, partStore_track, hv]
    show s.decideRun.closeBatch.track.units = _
    rw [hclosed]

theorem decideUnit_shade (s : State) (c : Int) (v : Verdict) (b : Nat) (counted : Bool) :
    (s.decideUnit c v b counted).shade = { s.shade with batches := (s.decideUnit c v b counted).shade.batches } :=
  congrArg State.shade (decided_decideUnit s c v b counted).frame

/-- What the classification of a unit as ABSENT leaves. -/
structure Absent (s t : State) (c : Int) (u : UnitRec) : Prop where
  unit : ∃ w, t.unit? c = some w ∧ w.verdict = .absent ∧ w.shadeAt = u.shadeAt ∧ w.horizonAt = none
    ∧ (s.shade.run = [] → (s.order u.order).st ≠ .done → w.batch = s.shade.openBatch.getD 0)
    ∧ ((s.order u.order).st = .done → w.batch = 0)
  run : s.shade.run ≠ [] → (s.order u.order).st ≠ .done → t.shade.run = s.shade.run ++ [c]
  classifying : t.shade.classifying = s.shade.classifying
  queue : t.shade.queue = s.shade.queue

/-- A record becomes ABSENT. -/
def madeAbsent (u : UnitRec) : UnitRec := { u with verdict := .absent }

theorem madeAbsent_c (u : UnitRec) : (madeAbsent u).c = u.c := rfl

/-- The unit's order is the classifying one. -/
theorem absent_classified {s : State} {c : Int} {u : UnitRec} (h : s.unit? c = some u) (hhorizon : u.horizonAt = none)
    (body : OrderBody) :
    Absent s (if (s.order u.order).st = .done then s.decideUnit c .absent 0 false else s.classifyRunning c body none) c u := by
  by_cases hst : (s.order u.order).st = .done
  · rw [if_pos hst]
    exact ⟨⟨_, unit?_decideUnit_same h _ _ _, rfl, rfl, rfl, fun _ hnot => absurd hst hnot, fun _ => rfl⟩,
      fun _ hnot => absurd hst hnot,
      by rw [decideUnit_shade], by rw [decideUnit_shade]⟩
  · rw [if_neg hst]
    by_cases hrun : s.shade.run = []
    · have heq : s.classifyRunning c body none = s.decideUnit c .absent s.batchNow false := if_pos hrun
      rw [heq]
      exact ⟨⟨_, unit?_decideUnit_same h _ _ _, rfl, rfl, rfl, fun _ _ => rfl, fun h => absurd h hst⟩, fun h => absurd hrun h,
        by rw [decideUnit_shade], by rw [decideUnit_shade]⟩
    · have heq : s.classifyRunning c body none
          = (s.setUnit c madeAbsent).setShade (fun p => { p with run := p.run ++ [c] }) := if_neg hrun
      rw [heq]
      refine ⟨⟨madeAbsent u, ?_, rfl, rfl, hhorizon, fun h => absurd h hrun, fun h => absurd h hst⟩, fun _ _ => rfl, rfl, rfl⟩
      have hunit : ((s.setUnit c madeAbsent).setShade (fun p => { p with run := p.run ++ [c] })).unit? c
          = (s.setUnit c madeAbsent).unit? c := rfl
      rw [hunit, unit?_setUnit_same s madeAbsent_c, h]
      rfl

theorem classify_absent_eq {s : State} {c : Int} {u : UnitRec} (h : s.unit? c = some u) :
    let v := if s.shade.classifying = some (s.orderKey u.order) then s else s.changeClassifying (s.orderKey u.order)
    s.classify c none = if (v.order u.order).st = .done then v.decideUnit c .absent 0 false
      else v.classifyRunning c (s.body u.order) none := by
  intro v
  rw [State.classify, h]
  exact rfl

/-- A unit outside the run is classified as ABSENT, of batch 0 where the classifying order changes first (log 48). -/
theorem classify_absent {s : State} {c : Int} {u : UnitRec} (h : s.unit? c = some u) (hrun : c ∉ s.shade.run)
    (hhorizon : u.horizonAt = none) :
    let t := s.classify c none
    let k := s.orderKey u.order
    (∃ w, t.unit? c = some w ∧ w.verdict = .absent ∧ w.shadeAt = u.shadeAt ∧ w.horizonAt = none
        ∧ (s.shade.classifying = some k → s.shade.run = [] → (s.order u.order).st ≠ .done →
            w.batch = s.shade.openBatch.getD 0)
        ∧ (s.shade.classifying ≠ some k ∨ (s.order u.order).st = .done → w.batch = 0))
      ∧ (s.shade.classifying = some k → s.shade.run ≠ [] → (s.order u.order).st ≠ .done → t.shade.run = s.shade.run ++ [c])
      ∧ t.shade.classifying = some k ∧ t.shade.queue = s.shade.queue := by
  intro t k
  have ht : t = _ := classify_absent_eq h
  by_cases hk : s.shade.classifying = some k
  · rw [if_pos hk] at ht
    obtain ⟨⟨w, hw, hverdict, hat, hhor, hbatch, hdone⟩, hjoin, hclass, hqueue⟩ := absent_classified h hhorizon (s.body u.order)
    rw [← ht] at hw hjoin hclass hqueue
    exact ⟨⟨w, hw, hverdict, hat, hhor, fun _ => hbatch, fun hor => hdone (hor.resolve_left fun hnot => hnot hk)⟩, fun _ => hjoin,
      hclass.trans hk, hqueue⟩
  · rw [if_neg hk] at ht
    obtain ⟨hshade, hord, hout⟩ := changeClassifying_frame s k
    generalize s.changeClassifying (s.orderKey u.order) = v at *
    obtain ⟨⟨w, hw, hverdict, hat, hhor, hbatch, hdone⟩, -, hclass, hqueue⟩ :=
      absent_classified ((hout c hrun).trans h) hhorizon (s.body u.order)
    rw [← ht] at hw hclass hqueue
    have hzero : w.batch = 0 := by
      by_cases hst : (v.order u.order).st = .done
      · exact hdone hst
      · rw [hbatch (by rw [hshade]) hst, hshade]
        rfl
    exact ⟨⟨w, hw, hverdict, hat, hhor, fun h => absurd h hk, fun _ => hzero⟩, fun h => absurd h hk, by rw [hclass, hshade],
      by rw [hqueue, hshade]⟩

/-! ## The horizon (R79) -/

/-- A unit's horizon is disarmed. -/
def horizonOff (u : UnitRec) : UnitRec := { u with horizonAt := none }

/-- A unit makes no later request. -/
def shadeOff (u : UnitRec) : UnitRec := { u with shadeAt := none }

theorem horizonOff_c (u : UnitRec) : (horizonOff u).c = u.c := rfl

theorem shadeOff_c (u : UnitRec) : (shadeOff u).c = u.c := rfl

/-- Settles O26. -/
theorem shadeHorizonResolves : Obligations.ShadeHorizonResolves := by
  unfold Obligations.ShadeHorizonResolves
  intro s u x hu hx hdue disarmed raised unasked k
  have hexec : exec (.shadeHorizon u.c) s = .next (s.horizonReached u).settlePlan := by
    show Host.Outcome.next (s.horizonEvent u.c) = _
    rw [State.horizonEvent, hu]
    exact congrArg Host.Outcome.next (if_pos (reached_of_le hx hdue))
  have hraised : disarmed.faultReach raised := reach_raise _ _ _
  have hshade : raised.shade = s.shade := hraised.shade
  have hdisarmed : disarmed.unit? u.c = some (horizonOff u) := by
    show (s.setUnit u.c horizonOff).unit? u.c = _
    rw [unit?_setUnit_same s horizonOff_c, hu]
    rfl
  rw [hexec]
  refine ⟨fun hhead => ?_, fun hrun hhead => ?_, fun hrun hverdict => ?_, fun hrun hverdict hasked => ?_,
    fun hrun hverdict hunasked => ?_⟩
  · have hrun : u.c ∈ s.shade.run := List.mem_of_head? hhead
    have heq : s.horizonReached u = (s.raise shadeUnresolved 0).decideRun := (if_pos hrun).trans (if_pos hhead)
    have hreach : s.faultReach (s.raise shadeUnresolved 0) := reach_raise _ _ _
    obtain ⟨hframe, -, hout, hin⟩ := decideRun_spec (s.raise shadeUnresolved 0)
    have hunit (d : Int) : (s.raise shadeUnresolved 0).unit? d = s.unit? d := unit?_congr (by rw [hreach.track]) d
    rw [hreach.shade] at hout hin
    refine ⟨_, congrArg (fun t => Host.Outcome.next t.settlePlan) heq, rfl, by rw [hframe], by rw [hframe], fun d hd w hw => ?_,
      fun d hd => (hout d hd).trans (hunit d)⟩
    obtain ⟨v, hv, hwv⟩ := hin d hd w ((hunit d).trans hw)
    have hbatch := hwv.batch
    rw [State.batchNow, hreach.shade] at hbatch
    exact ⟨v, hv, hwv.verdict, hbatch, hwv.horizon⟩
  · rw [show s.horizonReached u = s from (if_pos hrun).trans (if_neg hhead)]
  · rw [show s.horizonReached u = disarmed from (if_neg hrun).trans (if_pos hverdict)]
  · obtain ⟨q, hq, hqu⟩ := hasked
    have heq : s.horizonReached u = State.classifyDone { raised with shade := { s.shade with
        queue := s.shade.queue.map (fun q =>
          if q.st ≠ .done ∧ q.unit = u.c then { q with st := .done, result := none } else q) } } := by
      have hany : raised.shade.queue.any (fun q => decide (q.unit = u.c)) = true := by
        rw [hshade]
        exact List.any_eq_true.mpr ⟨q, hq, decide_eq_true hqu⟩
      refine (if_neg hrun).trans ((if_neg (not_not.mpr hverdict)).trans ((if_pos hany).trans (congrArg State.classifyDone ?_)))
      show raised.endRequests (fun q => decide (q.unit = u.c)) = _
      simp only [State.endRequests, State.setShade, hshade, decide_eq_true_eq]
    refine ⟨by rw [heq], fun q hqueue hunit hst => ?_⟩
    have hcleared : State.unit? { raised with shade := { s.shade with queue := [] } } u.c = some (horizonOff u) :=
      (unit?_congr (by rw [hraised.track]) u.c).trans hdisarmed
    obtain ⟨-, -, -, hempty⟩ := classify_absent hcleared hrun rfl
    have hended : s.shade.queue.map (fun q => if q.st ≠ .done ∧ q.unit = u.c then { q with st := .done, result := none } else q)
        = [{ q with st := .done, result := none }] := by
      rw [hqueue]
      exact congrArg (fun r => [r]) (if_pos ⟨hst, hunit⟩)
    rw [heq, hended, State.classifyDone, State.drainRequests]
    have hdrain : State.drainRequests (State.classify { raised with shade := { s.shade with queue := [] } } u.c none) 8
        = State.classify { raised with shade := { s.shade with queue := [] } } u.c none := drainRequests_empty hempty 8
    rw [← hdrain, ← hunit]
    exact rfl
  · have hnone : raised.shade.queue.any (fun q => decide (q.unit = u.c)) = false := by
      rw [hshade]
      exact List.any_eq_false.mpr fun q hq => by simpa using hunasked q hq
    have hunasked : unasked = raised.setUnit u.c shadeOff := by
      have hmap : (s.track.units.map (fun v => if v.c = u.c then { v with horizonAt := none, shadeAt := none } else v))
          = ((s.track.units.map (fun v => if v.c = u.c then horizonOff v else v)).map
              (fun v => if v.c = u.c then shadeOff v else v)) := by
        rw [List.map_map]
        refine List.map_congr_left fun v _ => ?_
        by_cases hv : v.c = u.c
        · rw [Function.comp, if_pos hv, if_pos (by rw [if_pos hv]; exact hv), if_pos hv]
          rfl
        · rw [Function.comp, if_neg hv, if_neg (by rw [if_neg hv]; exact hv), if_neg hv]
      have htrack : raised.track = disarmed.track := hraised.track
      rw [State.setUnit, htrack]
      dsimp only [unasked]
      rw [hmap]
      rfl
    have heq : s.horizonReached u = unasked.classify u.c none := by
      rw [hunasked]
      have hnot : ¬ raised.shade.queue.any (fun q => decide (q.unit = u.c)) = true := by
        rw [hnone]
        exact Bool.false_ne_true
      exact (if_neg hrun).trans ((if_neg (not_not.mpr hverdict)).trans (if_neg hnot))
    have hunit : unasked.unit? u.c = some (shadeOff (horizonOff u)) := by
      have hraisedUnit : raised.unit? u.c = some (horizonOff u) :=
        (unit?_congr (by rw [hraised.track]) u.c).trans hdisarmed
      rw [hunasked, unit?_setUnit_same raised shadeOff_c, hraisedUnit]
      rfl
    have hshade' : unasked.shade = s.shade := hshade
    have hord : unasked.ord = s.ord := hraised.orders
    have hkey : unasked.orderKey u.order = k := by rw [State.orderKey, order_congr hord]; rfl
    obtain ⟨⟨w, hw, habsent, hat, hhorizon, hbatch, hzero⟩, hjoin, hclass, -⟩ :=
      classify_absent hunit (by rw [hshade']; exact hrun) rfl
    have horder : (shadeOff (horizonOff u)).order = u.order := rfl
    rw [horder, hshade', hkey, order_congr hord] at hbatch hzero hjoin
    rw [horder, hkey] at hclass
    exact ⟨_, congrArg (fun t => Host.Outcome.next t.settlePlan) heq, rfl, ⟨w, hw, habsent, hat, hhorizon, hbatch, hzero⟩,
      hjoin, hclass⟩

end Sys2Proof.Proofs.ShadeEvents
end

section
/-! PROOFS. The node table: which node is a block's, and which nodes a raise or a clear of a fault may hand a command to. -/

namespace Sys2Proof.Proofs.LinkNodes
open Sys2Proof.Machine Sys2Proof.Proofs.FaultFacts Sys2Proof.Proofs.StationLoops

/-! ## Positions by kind -/

theorem nodesOfKind_congr {l l' : List Node} (h : l'.map Node.kind = l.map Node.kind) (kind i : Nat) :
    nodesOfKind kind i l' = nodesOfKind kind i l := by
  induction l generalizing l' i with
  | nil =>
    rw [List.map_eq_nil_iff.mp h]
  | cons n l ih =>
    obtain ⟨n', l'', rfl, hn, hl⟩ := List.map_eq_cons_iff.mp h
    rw [nodesOfKind, nodesOfKind, ih hl, hn]

theorem kind_of_mem_nodesOfKind {kind i j : Nat} {l : List Node} (h : j ∈ nodesOfKind kind i l) :
    ∃ n, l[j - i]? = some n ∧ n.kind = kind ∧ i ≤ j := by
  induction l generalizing i with
  | nil => exact absurd h List.not_mem_nil
  | cons n l ih =>
    rw [nodesOfKind] at h
    have hrest (hj : j ∈ nodesOfKind kind (i + 1) l) : ∃ m, (n :: l)[j - i]? = some m ∧ m.kind = kind ∧ i ≤ j := by
      obtain ⟨m, hm, hkind, hle⟩ := ih hj
      refine ⟨m, ?_, hkind, by omega⟩
      rw [show j - i = (j - (i + 1)) + 1 by omega]
      exact hm
    split at h
    next hn =>
      rcases List.mem_cons.mp h with rfl | h
      · exact ⟨n, by rw [Nat.sub_self]; rfl, hn, le_refl _⟩
      · exact hrest h
    next => exact hrest h

/-- The kind of a block's node. -/
def targetKind : Target → Nat
  | .station _ => kindPrint
  | .emboss => kindEmboss
  | .draw => kindDraw
  | .shade => kindShade
  | .winder => kindWinder

/-- The node of a block has the block's kind. -/
theorem nodeIndex_kind {s : State} {t : Target} {i : Nat} (h : s.nodeIndex t = some i) :
    ∃ n, s.link.nodes[i]? = some n ∧ n.kind = targetKind t := by
  have hof {kind j : Nat} (hj : (nodesOfKind kind 0 s.link.nodes)[j]? = some i) : ∃ n, s.link.nodes[i]? = some n ∧ n.kind = kind := by
    obtain ⟨n, hn, hkind, -⟩ := kind_of_mem_nodesOfKind (List.mem_of_getElem? hj)
    exact ⟨n, hn, hkind⟩
  cases t with
  | station st =>
    unfold State.nodeIndex at h
    simp only at h
    split at h
    next => cases h
    next => exact hof h
  | emboss => exact hof h
  | draw => exact hof h
  | shade => exact hof h
  | winder => exact hof h

theorem nodeIndex_winder_ne_emboss {s : State} {i : Nat} (h : s.nodeIndex .winder = some i) : s.nodeIndex .emboss ≠ some i := by
  intro he
  obtain ⟨n, hn, hkind⟩ := nodeIndex_kind h
  obtain ⟨m, hm, hkind'⟩ := nodeIndex_kind he
  rw [hn, Option.some.injEq] at hm
  rw [← hm, hkind] at hkind'
  exact absurd hkind' (by decide)

/-! ## What a raise or a clear leaves of the table -/

theorem nodeIndex_of_kinds {s t : State} (h : t.link.nodes.map Node.kind = s.link.nodes.map Node.kind) (x : Target) :
    t.nodeIndex x = s.nodeIndex x := by
  cases x <;> simp only [State.nodeIndex, nodesOfKind_congr h]

theorem kinds_of_waiting {l l' : List Node}
    (h : l'.map (fun n => { n with waiting := [] }) = l.map (fun n => { n with waiting := [] })) :
    l'.map Node.kind = l.map Node.kind := by
  simpa [List.map_map, Function.comp_def] using congrArg (List.map Node.kind) h

theorem reach_nodeIndex {s t : State} (h : s.faultReach t) (x : Target) : t.nodeIndex x = s.nodeIndex x :=
  nodeIndex_of_kinds (kinds_of_waiting h.nodes) x

/-- From `s` to `t` only what a raise or clear reaches has changed, and of the nodes only the emboss drive's may have been handed
a command. -/
structure EmbossNode (s t : State) : Prop where
  reach : s.faultReach t
  others : ∀ i, s.nodeIndex .emboss ≠ some i → t.link.nodes[i]? = s.link.nodes[i]?

theorem EmbossNode.refl (s : State) : EmbossNode s s := ⟨.refl s, fun _ _ => rfl⟩

theorem EmbossNode.trans {s t u : State} (h : EmbossNode s t) (k : EmbossNode t u) : EmbossNode s u :=
  ⟨h.reach.trans k.reach, fun i hi => (k.others i (by rwa [reach_nodeIndex h.reach])).trans (h.others i hi)⟩

theorem EmbossNode.ite {c : Prop} [Decidable c] {s t u : State} (h : EmbossNode s t) (k : EmbossNode s u) :
    EmbossNode s (if c then t else u) := by
  split
  · exact h
  · exact k

theorem EmbossNode.of_link {s t : State} (h : s.faultReach t) (hlink : t.link = s.link) : EmbossNode s t :=
  ⟨h, fun i _ => by rw [hlink]⟩

theorem getElem?_setNode_ne (s : State) {i j : Nat} (f : Node → Node) (h : j ≠ i) :
    (s.setNode i f).link.nodes[j]? = s.link.nodes[j]? := by
  show (modifyAt f i s.link.nodes)[j]? = _
  rw [Lookups.getElem?_modifyAt, if_neg (Ne.symm h)]

/-- A command goes to the node of its block alone. -/
theorem hand_others (s : State) (t : Target) (c : LinkCmd) {i : Nat} (h : s.nodeIndex t ≠ some i) :
    (s.hand t c).1.link.nodes[i]? = s.link.nodes[i]? := by
  unfold State.hand
  split
  next => rfl
  next j hj =>
    have hne : i ≠ j := fun hij => h (hij ▸ hj)
    split
    next => rfl
    next =>
      split
      next => rfl
      next =>
        split
        next => exact getElem?_setNode_ne s _ hne
        next =>
          split
          next => rfl
          next => exact getElem?_setNode_ne s _ hne

theorem embossNode_emb (s : State) (x : EmbossUnit) : EmbossNode s { s with emb := x } := .of_link (reach_emb s x) rfl

theorem embossNode_hand (s : State) (c : LinkCmd) : EmbossNode s (s.hand .emboss c).1 :=
  ⟨reach_hand s _ _, fun _ hi => hand_others s .emboss c hi⟩

theorem embossNode_sendLift (s : State) : EmbossNode s s.sendLift := by
  unfold State.sendLift
  extract_lets src t
  have ht : EmbossNode s t := embossNode_emb s _
  clear_value t
  have hhand := embossNode_hand t .lift
  split
  · rename_i heq
    rw [heq] at hhand
    exact ht.trans hhand
  · rename_i heq
    rw [heq] at hhand
    exact ((ht.trans hhand).trans (embossNode_emb _ _)).trans (embossNode_hand _ _)

theorem embossNode_clearCore (s : State) (code subject : Nat) : EmbossNode s (s.clearCore code subject) :=
  .of_link (reach_clearCore s code subject) (faultOnly_clearCore s code subject).link

theorem embossNode_raiseCore (s : State) (code subject : Nat) : EmbossNode s (s.raiseCore code subject) :=
  .of_link (reach_raiseCore s code subject) (faultOnly_raiseCore s code subject).link

theorem embossNode_enterLifted (s : State) : EmbossNode s s.enterLifted := by
  unfold State.enterLifted
  extract_lets src t u
  have hclear : EmbossNode t u := (embossNode_clearCore _ _ _).trans (embossNode_clearCore _ _ _)
  exact ((embossNode_emb s _).trans hclear).trans (.ite (embossNode_emb u _) (.ite (.refl u) (embossNode_emb u _)))

theorem embossNode_settle (s : State) : EmbossNode s s.settle := by
  refine EmbossNode.trans (t := s.loopsSettle) (.of_link (reach_loopsSettle s) rfl) ?_
  rw [State.settle]
  generalize s.loopsSettle = t
  unfold State.embossSettle
  split
  · exact .refl t
  · exact .ite (embossNode_emb t _) (.refl t)
  · exact .ite (embossNode_enterLifted t) (.refl t)
  · exact .ite (embossNode_emb t _) (.refl t)
  · exact .ite (embossNode_sendLift t) (.refl t)
  · exact .refl t

theorem embossNode_clear (s : State) (code subject : Nat) : EmbossNode s (s.clear code subject) :=
  (embossNode_clearCore s code subject).trans (embossNode_settle _)

end Sys2Proof.Proofs.LinkNodes
end

section
/-! PROOFS. The winder's decisions (5.5, 5.6): a cut committed, deferred, given up, or a stall. -/

namespace Sys2Proof.Proofs.WinderCuts
open Sys2Proof.Machine Sys2Proof.Proofs.FaultFacts Sys2Proof.Proofs.Lookups Sys2Proof.Proofs.FaultList
open Sys2Proof.Proofs.PlannerFacts Sys2Proof.Proofs.StationLoops Sys2Proof.Proofs.LinkNodes Sys2Proof.Proofs.EmbossLoop

/-! ## An entry in the plan -/

theorem find?_insertBy_self {α : Type} {key : α → Int} {a : α} {l : List α} (h : ∀ b ∈ l, key b ≠ key a) :
    (insertBy key a l).find? (fun b => decide (key b = key a)) = some a := by
  induction l with
  | nil => simp [insertBy]
  | cons b l ih =>
    rw [insertBy]
    split
    · simp
    · rw [List.find?_cons_of_neg (by simpa using h b List.mem_cons_self)]
      exact ih fun c hc => h c (List.mem_cons_of_mem _ hc)

theorem mem_insertBy {α : Type} {key : α → Int} {a b : α} {l : List α} : b ∈ insertBy key a l ↔ b = a ∨ b ∈ l := by
  induction l with
  | nil => simp [insertBy]
  | cons c l ih =>
    rw [insertBy]
    split
    · simp
    · rw [List.mem_cons, ih, List.mem_cons]
      tauto

theorem union_absorb (r q : Reasons) : (r.union q).union q = r.union q := by
  simp [Reasons.union]

theorem union_self (r : Reasons) : r.union r = r := by
  simp [Reasons.union]

/-- The plan in which the entry has gone to `y` (R102). -/
def planDeferred (e : PlanEntry) (y : Int) (old : List PlanEntry) : List PlanEntry :=
  let rest := old.filter (fun q => decide (q.x ≠ e.x))
  match rest.find? (fun q => decide (q.x = y)) with
  | some _ => rest.map (fun q => if q.x = y then { q with reasons := q.reasons.union e.reasons, deferred := true } else q)
  | none => insertEntry { e with x := y, deferred := true } rest

theorem planDeferred_gone (e : PlanEntry) {y : Int} (hy : y ≠ e.x) (old : List PlanEntry) :
    (planDeferred e y old).find? (fun q => decide (q.x = e.x)) = none := by
  have hrest : ∀ q ∈ old.filter (fun q => decide (q.x ≠ e.x)), q.x ≠ e.x := fun q hq => by simpa using (List.mem_filter.mp hq).2
  rw [List.find?_eq_none]
  intro q hq
  rw [decide_eq_true_eq]
  unfold planDeferred at hq
  extract_lets rest at hq
  split at hq
  · obtain ⟨p, hp, rfl⟩ := List.mem_map.mp hq
    split
    · exact hrest p hp
    · exact hrest p hp
  · rcases mem_insertBy.mp hq with rfl | hq
    · exact hy
    · exact hrest q hq

/-- The entry at `y` is DEFERRED and carries all the reasons. -/
theorem planDeferred_there (e : PlanEntry) (y : Int) (old : List PlanEntry) :
    ∃ d, (planDeferred e y old).find? (fun q => decide (q.x = y)) = some d ∧ d.deferred = true
      ∧ d.reasons.union e.reasons = d.reasons := by
  unfold planDeferred
  extract_lets rest
  split
  next q hq =>
    refine ⟨{ q with reasons := q.reasons.union e.reasons, deferred := true }, ?_, rfl, union_absorb _ _⟩
    have hqy : q.x = y := by simpa using List.find?_some hq
    rw [List.find?_map]
    have hpred : ((fun q : PlanEntry => decide (q.x = y)) ∘ fun q : PlanEntry =>
        if q.x = y then { q with reasons := q.reasons.union e.reasons, deferred := true } else q)
          = fun q => decide (q.x = y) := by
      funext p
      by_cases hp : p.x = y <;> simp [hp]
    rw [hpred, hq]
    exact congrArg some (if_pos hqy)
  next hnone =>
    refine ⟨{ e with x := y, deferred := true }, ?_, rfl, union_self _⟩
    refine find?_insertBy_self (key := PlanEntry.x) (a := { e with x := y, deferred := true }) fun q hq => ?_
    simpa using List.find?_eq_none.mp hnone q hq

/-! ## Deferral (R102) -/

theorem embossNode_setPlan (s : State) (plan : List PlanEntry) :
    EmbossNode (s.setCut (fun p => { p with plan := plan })) (s.setPlan plan) := .ite (embossNode_clear _ _ _) (.refl _)

theorem setPlan_cut (s : State) (plan : List PlanEntry) : (s.setPlan plan).cut = { s.cut with plan := plan } :=
  (embossNode_setPlan s plan).reach.cut

theorem setPlan_winder (s : State) (plan : List PlanEntry) : (s.setPlan plan).winder = s.winder :=
  (embossNode_setPlan s plan).reach.winder

theorem stripFor_winder (s : State) (y : Int) : (s.stripFor y).winder = s.winder := by
  unfold State.stripFor State.stripTarget
  split
  · rfl
  · exact setPlan_winder _ _

theorem entryMoved_keeps (s : State) (x y : Int) (orderEnd : Bool) :
    (s.entryMoved x y orderEnd).cut.plan = s.cut.plan ∧ (s.entryMoved x y orderEnd).winder = s.winder := by
  unfold State.entryMoved
  extract_lets shift t
  split <;> exact ⟨rfl, rfl⟩

theorem countFrom_keeps (s : State) (x : Int) : (s.countFrom x).cut.plan = s.cut.plan ∧ (s.countFrom x).winder = s.winder := by
  unfold State.countFrom
  split
  · exact ⟨rfl, rfl⟩
  · split <;> exact ⟨rfl, rfl⟩

theorem deferEntry_spec (s : State) (e : PlanEntry) (y : Int) :
    (∃ old, (s.deferEntry e y).cut.plan = planDeferred e y old) ∧ (s.deferEntry e y).winder = s.winder := by
  unfold State.deferEntry
  extract_lets plan t u
  have ht : t.winder = s.winder := by
    dsimp only [t]
    split
    · exact stripFor_winder s y
    · rfl
  obtain ⟨hplan, hwinder⟩ := entryMoved_keeps (t.setPlan (plan t.cut.plan)) e.x y e.reasons.orderEnd
  have huplan : u.cut.plan = planDeferred e y t.cut.plan := hplan.trans (congrArg Planner.plan (setPlan_cut t _))
  have huwinder : u.winder = s.winder := (hwinder.trans (setPlan_winder t _)).trans ht
  obtain ⟨hcount, hcount'⟩ := countFrom_keeps u y
  split
  · exact ⟨⟨_, hcount.trans huplan⟩, hcount'.trans huwinder⟩
  · exact ⟨⟨_, huplan⟩, huwinder⟩

theorem lt_of_boundaryAfter {s : State} {x y : Int} (h : s.boundaryAfter x = some y) : x < y := by
  simpa using List.find?_some h

theorem deferEarliest_waits {s : State} {e : PlanEntry} {rest : List PlanEntry} (hplan : s.cut.plan = e :: rest)
    (h : s.boundaryAfter e.x = none) : s.deferEarliest = s.setWinder (fun w => { w with awaitBoundary := true }) := by
  rw [State.deferEarliest, hplan]
  simp only [h]

/-- The earliest entry goes to the next boundary. -/
theorem deferEarliest_moves {s : State} {e : PlanEntry} {rest : List PlanEntry} {y : Int} (hplan : s.cut.plan = e :: rest)
    (h : s.boundaryAfter e.x = some y) :
    let t := s.deferEarliest
    t.entryAt e.x = none ∧ t.winder = { s.winder with lead := none, awaitBoundary := false }
      ∧ ∃ d, t.entryAt y = some d ∧ d.deferred = true ∧ d.reasons.union e.reasons = d.reasons := by
  intro t
  have ht : t = (s.deferEntry e y).setWinder (fun w => { w with awaitBoundary := false, lead := none }) := by
    show s.deferEarliest = _
    rw [State.deferEarliest, hplan]
    simp only [h]
  obtain ⟨⟨old, hold⟩, hwinder⟩ := deferEntry_spec s e y
  have hentry (x : Int) : t.entryAt x = (planDeferred e y old).find? (fun q => decide (q.x = x)) := by
    rw [ht, ← hold]
    rfl
  refine ⟨(hentry _).trans (planDeferred_gone e (lt_of_boundaryAfter h).ne' old), ?_, ?_⟩
  · rw [ht, ← hwinder]
    rfl
  · obtain ⟨d, hd, hdeferred, hreasons⟩ := planDeferred_there e y old
    exact ⟨d, (hentry y).trans hd, hdeferred, hreasons⟩

/-! ## The earliest entry at its lead point (R98) -/

theorem leadPoint_exec {s : State} {l : LeadEvent} (hlead : s.winder.lead = some l) (hfired : l.fired = false)
    (hdue : l.threshold ≤ s.posHF) : exec .leadPoint s
      = .next ((s.setWinder (fun w => { w with lead := some { l with fired := true } })).decideEntry).settlePlan := by
  show Host.Outcome.next s.leadEvent = _
  have h : s.leadDue = some l := by
    rw [State.leadDue, hlead]
    have hkept : (!l.fired && decide (l.threshold ≤ s.posHF)) = true := by rw [hfired, decide_eq_true hdue]; rfl
    exact if_pos hkept
  rw [State.leadEvent, h]

/-- With no open segment that starts before the entry, the entry is decided as it stands. -/
theorem decideEntry_eq {s : State} {e : PlanEntry} {rest : List PlanEntry} (hplan : s.cut.plan = e :: rest)
    (hopen : ∀ g ∈ s.cut.segments, g.stop = none → e.x ≤ g.start) : s.decideEntry
      = if s.failing.clear then (if 0 < s.remaining e.x then s.commitCut e (s.remaining e.x) else s.deferEarliest)
        else s.stall s.failing := by
  have hclose : s.closeAtEntry e.x = s := by
    have hnone : s.cut.segments.find? (fun g => g.stop.isNone && decide (g.start < e.x)) = none := by
      refine List.find?_eq_none.mpr fun g hg => ?_
      rw [Bool.and_eq_true, Option.isNone_iff_eq_none, decide_eq_true_eq]
      exact fun ⟨hstop, hlt⟩ => absurd (hopen g hg hstop) (by omega)
    rw [State.closeAtEntry, hnone]
  unfold State.decideEntry
  simp only [hplan, hclose]

theorem failing_clear_iff (s : State) : s.failing.clear = true ↔
    s.idleEmpty = true ∧ s.rolls.queue.length + s.winder.closing.length < 4 ∧ s.winder.out = none := by
  simp [State.failing, Blocked.clear, State.queueRoom, and_assoc]

/-! ## A cut is committed (R99) -/

theorem nodePresent_of_idleEmpty {s : State} (h : s.idleEmpty = true) : s.nodePresent .winder = true := by
  unfold State.idleEmpty at h
  split at h
  · cases h
  · exact (Bool.and_eq_true_iff.mp h).1

/-- A committed cut whose CUT IN joins what waits at the winder drive. -/
theorem commitCut_joins {s : State} {e : PlanEntry} {rest : List PlanEntry} {i : Nat} {n : Node} (rem : Int)
    (hplan : s.cut.plan = e :: rest) (hlater : ∀ d ∈ rest, e.x < d.x) (hi : s.nodeIndex .winder = some i)
    (hn : s.link.nodes[i]? = some n) (hst : n.st = .present) (hroom : n.waiting.length < 10) :
    let t := s.commitCut e rem
    t.cut.plan = rest ∧ t.winder.st = .cutIssued ∧ t.winder.roll = s.winder.roll
      ∧ (∃ c, t.winder.out = some c ∧ c.x = e.x ∧ c.reasons = e.reasons ∧ c.deferred = e.deferred ∧ c.resent = false
          ∧ c.receiver = s.winder.active.other
          ∧ t.link.nodes[i]? = some { n with waiting := n.waiting ++ [.cutIn rem c.serial] }) := by
  have hfilter : s.cut.plan.filter (fun q => decide (q.x ≠ e.x)) = rest := by
    rw [hplan, List.filter_cons_of_neg (by simp)]
    refine List.filter_eq_self.mpr fun d hd => ?_
    simpa using (hlater d hd).ne'
  unfold State.commitCut
  extract_lets u v w serial c x t
  have hnode := embossNode_setPlan s (s.cut.plan.filter (fun q => decide (q.x ≠ e.x)))
  have huplan : u.cut.plan = rest := (congrArg Planner.plan (setPlan_cut s _)).trans hfilter
  have huwinder : u.winder = s.winder := setPlan_winder s _
  have hw : w.cut.plan = rest ∧ w.winder = s.winder ∧ w.link = u.link := by
    dsimp only [w]
    split
    · exact ⟨huplan, huwinder, rfl⟩
    · exact ⟨huplan, huwinder, rfl⟩
  obtain ⟨hwplan, hwwinder, hwlink⟩ := hw
  have hxi : x.nodeIndex .winder = some i := by
    have hxlink : x.link = u.link := hwlink
    rw [nodeIndex_congr hxlink, reach_nodeIndex hnode.reach]
    exact hi
  have hxn : x.link.nodes[i]? = some n := by
    rw [show x.link = u.link from hwlink, hnode.others i (nodeIndex_winder_ne_emboss hi)]
    exact hn
  have ht : t = x.setNode i (fun n => { n with waiting := n.waiting ++ [.cutIn rem serial] }) := by
    dsimp only [t]
    rw [hand_joins hxi hxn hst rfl hroom]
  rw [ht]
  refine ⟨hwplan, rfl, (congrArg Winder.roll hwwinder :), c, rfl, rfl, rfl, rfl, rfl, ?_, ?_⟩
  · show w.winder.active.other = _
    rw [hwwinder]
  · show (modifyAt _ i x.link.nodes)[i]? = _
    rw [getElem?_modifyAt, if_pos rfl, hxn]
    rfl

/-! ## A stall (R102) -/

theorem reach_overlengthTest (s : State) : s.faultReach s.overlengthTest := by
  unfold State.overlengthTest
  split
  · split
    · extract_lets limit
      exact .ite (reach_raise _ _ _) (.refl s)
    · exact .refl s
  · exact .refl s

/-- The winder stalls with its failed conditions; a full holding queue raises RECORD_HOLD_FULL. -/
theorem stall_spec (s : State) (b : Blocked) :
    let t := s.stall b
    t.winder = { s.winder with st := .stalled, blocked := b } ∧ t.cut.plan = s.cut.plan
      ∧ (b.queue = true → t.faultActive recordHoldFull 0 = true) := by
  unfold State.stall
  extract_lets entering u v t
  have hvu : u.faultReach v := .ite (reach_raise _ _ _) (.refl u)
  have htv : v.faultReach t := .ite (reach_overlengthTest v) (.refl v)
  refine ⟨(hvu.trans htv).winder, congrArg Planner.plan (hvu.trans htv).cut, fun hqueue => ?_⟩
  have hv : v.faultActive recordHoldFull 0 = true := by
    dsimp only [v]
    split
    next => exact raise_faultActive u 0 rfl (by decide) (by decide)
    next h => simpa [hqueue] using h
  have hkeep : (v.overlengthTest).faultActive recordHoldFull 0 = true := by
    unfold State.overlengthTest
    split
    · split
      · extract_lets limit
        split
        · exact (faultActive_iff _ _ _).mpr (raise_keeps_active v ((faultActive_iff _ _ _).mp hv) (by decide) (by decide))
        · exact hv
      · exact hv
    · exact hv
  dsimp only [t]
  split
  · exact hkeep
  · exact hv

/-- Settles O29. -/
theorem leadPointDecides : Obligations.LeadPointDecides := by
  unfold Obligations.LeadPointDecides
  intro s l e rest hlead hfired hdue hplan hlater hopen fired rem
  have hexec := leadPoint_exec hlead hfired hdue
  have hdecide : fired.decideEntry = _ := decideEntry_eq (s := fired) hplan hopen
  have hrem : fired.remaining e.x = rem := rfl
  have hfail : fired.failing = s.failing := rfl
  rw [hrem, hfail] at hdecide
  rw [hexec]
  refine ⟨fun hempty hroom hout hpos => ?_, fun hempty hroom hout hneg => ?_, fun hfails => ?_⟩
  · have hclear : s.failing.clear = true := (failing_clear_iff s).mpr ⟨hempty, hroom, hout⟩
    rw [if_pos hclear, if_pos hpos] at hdecide
    refine ⟨congrArg (fun t => Host.Outcome.next (State.settlePlan t)) hdecide, fun i n hi hn hwait => ?_⟩
    obtain ⟨j, m, hj, hm, hst⟩ := nodePresent_iff.mp (nodePresent_of_idleEmpty hempty)
    rw [hi, Option.some.injEq] at hj
    subst hj
    rw [hn, Option.some.injEq] at hm
    subst hm
    exact commitCut_joins (s := fired) rem hplan hlater hi hn hst hwait
  · have hclear : s.failing.clear = true := (failing_clear_iff s).mpr ⟨hempty, hroom, hout⟩
    rw [if_pos hclear, if_neg (not_lt.mpr hneg)] at hdecide
    refine ⟨fun hnone => ?_, fun y hy => ?_⟩
    · exact congrArg (fun t => Host.Outcome.next (State.settlePlan t)) (hdecide.trans (deferEarliest_waits hplan hnone))
    · obtain ⟨hgone, hwinder, hthere⟩ := deferEarliest_moves (s := fired) hplan hy
      exact ⟨_, congrArg (fun t => Host.Outcome.next (State.settlePlan t)) hdecide, hgone, hwinder, hthere⟩
  · have hnot : ¬ s.failing.clear = true := by
      rw [failing_clear_iff]
      rintro ⟨hempty, hroom, hout⟩
      rcases hfails with h | h | h
      · rw [hempty] at h
        cases h
      · omega
      · rw [hout] at h
        cases h
    rw [if_neg hnot] at hdecide
    obtain ⟨hwinder, hkept, hfull⟩ := stall_spec fired s.failing
    refine ⟨_, congrArg (fun t => Host.Outcome.next (State.settlePlan t)) hdecide, by rw [hwinder], hkept, ?_, fun hqueue => ?_,
      by rw [hwinder]; rfl⟩
    · have hroom : (!decide (s.rolls.queue.length + s.winder.closing.length < 4))
          = decide (4 ≤ s.rolls.queue.length + s.winder.closing.length) := by
        rw [← decide_not]
        exact decide_eq_decide.mpr not_lt
      rw [hwinder, ← hroom]
      rfl
    · exact hfull (by simpa [State.failing, State.queueRoom] using hqueue)

/-! ## A blocked entry's lead point is passed (R102) -/

/-- Settles O30. -/
theorem leadPointPassedDefers : Obligations.LeadPointPassedDefers := by
  unfold Obligations.LeadPointPassedDefers
  intro s l e rest hst hblocked hlead hfired hpassed hplan
  have hdue : s.leadPassed = true := by
    have hnot : s.winder.blocked.clear = false := by
      rw [Blocked.clear]
      revert hblocked
      cases s.winder.blocked.spindle <;> cases s.winder.blocked.queue <;> cases s.winder.blocked.cut <;> decide
    unfold State.leadPassed
    rw [hst, hnot, hlead]
    simp [hfired, hpassed]
  have hexec : exec .leadPointPassed s = .next s.deferEarliest.settlePlan := by
    show Host.Outcome.next s.leadPassedEvent = _
    rw [State.leadPassedEvent, if_pos hdue]
  rw [hexec]
  refine ⟨fun hnone => by rw [deferEarliest_waits hplan hnone], fun y hy => ?_⟩
  obtain ⟨hgone, hwinder, d, hd, hdeferred, hreasons⟩ := deferEarliest_moves hplan hy
  have hcarried (f : Reasons → Bool) (hf : ∀ r q : Reasons, f (r.union q) = (f r || f q)) (h : f e.reasons = true) :
      f d.reasons = true := by
    rw [← hreasons, hf, h, Bool.or_true]
  exact ⟨_, rfl, hgone, ⟨d, hd, hdeferred, hcarried Reasons.target fun _ _ => rfl, hcarried Reasons.batch fun _ _ => rfl,
    hcarried Reasons.spliceBefore fun _ _ => rfl, hcarried Reasons.spliceAfter fun _ _ => rfl,
    hcarried Reasons.orderEnd fun _ _ => rfl, hcarried Reasons.changeover fun _ _ => rfl⟩, by rw [hwinder]⟩

/-! ## A cut given up (R101) -/

theorem settle_stopped {s : State} (h : s.fault.st = .stopped) : s.settle.fault.st = .stopped := by
  have hlifted (t : State) (ht : t.fault.st = .stopped) : t.enterLifted.fault.st = .stopped := by
    have hone : (State.clearCore { t with emb := liftedEmb t.emb } embossDriveTimeout 0).fault.st = .stopped :=
      (clearCore_standing (s := { t with emb := liftedEmb t.emb }) _ _ (.inr ht)).trans ht
    have htwo : (liftedState t).fault.st = .stopped := (clearCore_standing _ _ (.inr hone)).trans hone
    rw [enterLifted_eq]
    split
    · exact htwo
    · split <;> exact htwo
  have hloops : s.loopsSettle.fault.st = .stopped := h
  rw [State.settle]
  generalize s.loopsSettle = t at hloops
  unfold State.embossSettle
  split
  · exact hloops
  · split <;> exact hloops
  · split
    · exact hlifted t hloops
    · exact hloops
  · split <;> exact hloops
  · split
    · rw [sendLift_fault]
      exact hloops
    · exact hloops
  · exact hloops

/-- A raise that stops the line: both lines are low and STOP is latched when the loops have taken it up. -/
theorem raise_stops {s : State} {code : Nat} (subject : Nat) (hr : s.reactionOf code = .stop)
    (h : s.fault.st = .normal ∨ s.fault.st = .alert) :
    let t := s.raise code subject
    t.fault.st = .stopped ∧ t.fault.stopA = false ∧ t.fault.stopB = false ∧ t.noticed .stop = true := by
  intro t
  have hcore := raiseCore_stopped (subject := subject) hr h
  have hst : (s.raiseCore code subject).fault.st = .stopped := by rw [hcore]; rfl
  have hpair : (s.raiseCore code subject).stopPairOk := by
    rw [State.stopPairOk, hst, hcore]
    exact ⟨rfl, rfl⟩
  have hsteady : Steady (s.raiseCore code subject) t := steady_settle _
  have htst : t.fault.st = .stopped := settle_stopped hst
  have htpair := hsteady.stopPair hpair
  rw [State.stopPairOk, htst] at htpair
  refine ⟨htst, htpair.1, htpair.2, hsteady.notice _ ?_⟩
  rw [hcore]
  exact latch_noticed _ _

/-- Settles O31. -/
theorem cutMissedGivesUp : Obligations.CutMissedGivesUp := by
  unfold Obligations.CutMissedGivesUp
  intro s c hout
  have hexec : exec .cutMissedThreshold s = .next (if c.missAfter < s.posHF then s.giveUpCut.settlePlan else s) := by
    show Host.Outcome.next s.missEvent = _
    rw [State.missEvent, hout]
  rw [hexec]
  refine ⟨fun hle => by rw [if_neg (not_lt.mpr hle)], fun hlt => ?_⟩
  rw [if_pos hlt]
  have hgive : s.giveUpCut = ((s.raise cutMissed 0).cutLeft).setCut (fun p => { p with
      awaiting := p.awaiting ++ [{ kind := .missed c.reasons c.x, coordinate := none }] }) := by
    rw [State.giveUpCut, hout]
  have hreach : s.faultReach (s.raise cutMissed 0) := reach_raise _ _ _
  have hstop := raise_stops (s := s) (code := cutMissed) 0 rfl
  generalize s.raise cutMissed 0 = u at *
  have hmark : u.posHF = s.posHF := by rw [State.posHF, hreach.inputs.coord]; rfl
  refine ⟨_, rfl, ?_⟩
  rw [hgive]
  refine ⟨rfl, rfl, (congrArg Winder.roll hreach.winder :), ?_, ?_, hstop, hreach.track, hreach.rolls, hreach.orders,
    hreach.inputs.coord, hreach.inputs.settings, hreach.inputs.printer, hreach.inputs.port, hreach.inputs.notice, hreach.inputs.host⟩
  · show u.winder.lead.map (fun l => { l with fired := l.fired || decide (l.threshold ≤ u.posHF) }) = _
    rw [hreach.winder, hmark]
  · show ({ u.cut with awaiting := u.cut.awaiting ++ [{ kind := .missed c.reasons c.x, coordinate := none }] } : Planner) = _
    rw [hreach.cut]

end Sys2Proof.Proofs.WinderCuts
end

section
/-! PROOFS. The handover of a closed roll (R100, R108, R109, R131): the record it becomes, and the count of its order. -/

namespace Sys2Proof.Proofs.RollHandover
open Sys2Proof.Machine Sys2Proof.Proofs.FaultFacts Sys2Proof.Proofs.Lookups Sys2Proof.Proofs.MemoryFacts
open Sys2Proof.Proofs.WebDownstream Sys2Proof.Proofs.OrderUnit Sys2Proof.Proofs.ShadeBatches

/-! ## When a roll is due -/

theorem handoverDue_none {s : State} {c : ClosingRoll} {rest : List ClosingRoll} (hc : s.winder.closing = c :: rest)
    (h : ∃ u ∈ s.track.units, ∃ b, s.spanStart u = some b ∧ b < c.stop) : s.handoverDue = none := by
  obtain ⟨u, hu, b, hb, hlt⟩ := h
  rw [State.handoverDue, hc]
  refine if_pos (List.any_eq_true.mpr ⟨u, hu, ?_⟩)
  rw [hb]
  exact decide_eq_true hlt

theorem handoverDue_some {s : State} {c : ClosingRoll} {rest : List ClosingRoll} (hc : s.winder.closing = c :: rest)
    (h : ∀ u ∈ s.track.units, ∀ b, s.spanStart u = some b → c.stop ≤ b) : s.handoverDue = some c := by
  rw [State.handoverDue, hc]
  refine if_neg fun hany => ?_
  obtain ⟨u, hu, hlt⟩ := List.any_eq_true.mp hany
  cases hb : s.spanStart u with
  | none =>
    rw [hb] at hlt
    cases hlt
  | some b =>
    rw [hb] at hlt
    exact absurd (of_decide_eq_true hlt) (not_lt.mpr (h u hu b hb))

/-! ## The record of a roll (R109) -/

theorem rollOrder_units {s : State} {c : ClosingRoll} {u : UnitRec} {rest : List UnitRec} (h : c.roll.units = u :: rest) :
    s.rollOrder c = s.orderKey u.order := by
  rw [State.rollOrder, Roll.order, h]
  rfl

theorem rollOrder_empty {s : State} {c : ClosingRoll} (h : c.roll.units = []) : s.rollOrder c = s.rolls.lastOrder := by
  rw [State.rollOrder, Roll.order, h]
  rfl

theorem copyHeld_units {s : State} {c : ClosingRoll} (h : c.roll.units ≠ []) : s.copyHeld c = true := by
  obtain ⟨u, rest, hu⟩ := List.exists_cons_of_ne_nil h
  rw [State.copyHeld, Roll.order, hu]
  rfl

theorem copyHeld_empty {s : State} {c : ClosingRoll} (h : c.roll.units = []) : s.copyHeld c
    = (decide (s.orderKey (s.rollOrder c).slot = s.rollOrder c) && (s.order (s.rollOrder c).slot).body.isSome) := by
  rw [State.copyHeld, Roll.order, h]
  exact Bool.false_or _

theorem recordNumber_held {s : State} {c : ClosingRoll} (h : s.copyHeld c = true) :
    s.recordNumber c = nextCyclic 65535 (s.order (s.rollOrder c).slot).lastRoll := if_pos h

theorem recordNumber_after {s : State} {c : ClosingRoll} {p : ComposedRoll} (h : s.copyHeld c = false)
    (hp : s.rolls.lastComposed = some p) : s.recordNumber c = nextCyclic 65535 p.number := by
  rw [State.recordNumber, if_neg (by rw [h]; exact Bool.false_ne_true), hp]

theorem one_le_nextCyclic (m v : Nat) : 1 ≤ nextCyclic m v := by
  unfold nextCyclic
  split <;> omega

theorem recordNumber_range (s : State) (c : ClosingRoll) : 1 ≤ s.recordNumber c ∧ s.recordNumber c ≤ 65535 := by
  unfold State.recordNumber
  split
  · exact ⟨one_le_nextCyclic _ _, nextCyclic_le (by decide)⟩
  · split
    · exact ⟨one_le_nextCyclic _ _, nextCyclic_le (by decide)⟩
    · omega

theorem recordBody_after {s : State} {c : ClosingRoll} {p : ComposedRoll} (h : s.copyHeld c = false)
    (hp : s.rolls.lastComposed = some p) : s.recordBody c = p.body := by
  rw [State.recordBody, if_neg (by rw [h]; exact Bool.false_ne_true), hp]

/-! ## Composing (R108) -/

/-- The record a closed roll is composed into. -/
def composedRecord (s : State) (c : ClosingRoll) : RollRec :=
  s.rollRecord c (nextCyclic 4294967295 s.rolls.seq) (s.recordNumber c)

theorem countRoll_frame (s : State) (k : OrderKey) (b : Nat) (waste : Bool) :
    ∃ x m, s.countRoll k b waste = { s with shade := x, mem := m } := by
  unfold State.countRoll
  split
  · exact ⟨_, _, (setBatch_frame s b _).1⟩
  · exact ⟨s.shade, s.mem, rfl⟩

/-- The state that holds the new record, before the shade unit and the order unit are told. -/
def queued (s : State) (c : ClosingRoll) : State :=
  (if s.copyHeld c then s.setOrder (s.rollOrder c).slot (fun o => { o with lastRoll := s.recordNumber c })
    else if s.rolls.lastComposed.isSome then s
    else { s with freeIdx := s.freeIdx + 1 }).setRolls (fun u => { u with
      queue := u.queue ++ [composedRecord s c], seq := nextCyclic 4294967295 s.rolls.seq, lastOrder := s.rollOrder c,
      lastComposed := some { number := s.recordNumber c, body := s.recordBody c } })

theorem compose_frame (s : State) (c : ClosingRoll) : ∃ x m, s.compose c = { queued s c with shade := x, mem := m } :=
  countRoll_frame (queued s c) _ _ _

theorem queued_frame (s : State) (c : ClosingRoll) :
    (queued s c).track = s.track ∧ (queued s c).winder = s.winder
      ∧ (queued s c).rolls.queue = s.rolls.queue ++ [composedRecord s c] := by
  unfold queued
  split
  · exact ⟨rfl, rfl, rfl⟩
  · split <;> exact ⟨rfl, rfl, rfl⟩

theorem composeReported_frame (s : State) (c : ClosingRoll) :
    let t := s.composeReported c
    t.track = s.track ∧ t.winder = s.winder ∧ t.rolls.queue = s.rolls.queue ++ [composedRecord s c]
      ∧ t.freeIdx = (queued s c).freeIdx := by
  unfold State.composeReported
  extract_lets slot held u t
  obtain ⟨x, m, hu⟩ := compose_frame s c
  obtain ⟨htrack, hwinder, hqueue⟩ := queued_frame s c
  have hu' : u.track = s.track ∧ u.winder = s.winder ∧ u.rolls.queue = s.rolls.queue ++ [composedRecord s c]
      ∧ u.freeIdx = (queued s c).freeIdx := by
    rw [show u = _ from hu]
    exact ⟨htrack, hwinder, hqueue, rfl⟩
  dsimp only [t]
  split
  · rw [State.rollProduced, State.writeOrderCounts, partStore_eq]
    exact hu'
  · exact hu'

/-- The roll is counted in its order's record and slot (R131). -/
theorem rollProduced_spec (s : State) {n : Nat} (hn : n < 8) (hlen : n < s.ord.orders.length) :
    let t := s.rollProduced n
    let produced := min 65535 ((s.order n).produced + 1)
    (t.order n).produced = produced ∧ t.readBytes (orderSlotAddr n + 0x74) 2 = natBytes 2 produced
      ∧ (t.order n).currentRoll
        = if (s.order n).st = .active ∨ (s.order n).st = .ending then min 65535 (produced + 1) else 0 := by
  intro t produced
  obtain ⟨u, hu⟩ : ∃ u, u = s.setOrder n (fun o => { o with
      produced := saturate 65535 (o.produced + 1),
      currentRoll := if o.st = .active ∨ o.st = .ending then saturate 65535 (saturate 65535 (o.produced + 1) + 1) else 0 }) :=
    ⟨_, rfl⟩
  have ht : t = u.writeOrderCounts n := by rw [hu]; rfl
  have huord : u.order n = { s.order n with
      produced := produced,
      currentRoll := if (s.order n).st = .active ∨ (s.order n).st = .ending then min 65535 (produced + 1) else 0 } := by
    rw [hu, order_setOrder_same s _ hlen]
    rfl
  have htord : t.order n = u.order n := order_congr (by rw [ht, State.writeOrderCounts, partStore_ord]) n
  have hfits := orderSlot_fits hn
  refine ⟨by rw [htord, huord], ?_, by rw [htord, huord]⟩
  have hread := readBytes_partStore_mid u (a := orderSlotAddr n + 0x74) (pre := []) (mid := natBytes 2 (u.order n).produced)
    (post := natBytes 2 (u.order n).currentRoll) (partRange_orderSlot hn (by decide) (by simp [natBytes_length]))
    (by simp [natBytes_length, memSize]; omega)
  rw [natBytes_length] at hread
  have hproduced : (u.order n).produced = produced := by rw [huord]
  rw [ht, ← hproduced]
  exact hread

/-! ## The label test leaves the records' rolls -/

/-- Records by their roll, not by their label. -/
def recordRoll (r : RollRec) : Nat × OrderKey × Nat × Int × Int × Int × Spindle × Bool :=
  (r.seq, r.order, r.rollNumber, r.start, r.stop, r.length, r.spindle, r.removed)

/-- From `s` to `t` track and winder stand, and every record still tells of its roll. -/
structure LabelStep (s t : State) : Prop where
  track : t.track = s.track
  winder : t.winder = s.winder
  rolls : t.rolls.queue.map recordRoll = s.rolls.queue.map recordRoll

theorem LabelStep.trans {s t u : State} (h : LabelStep s t) (k : LabelStep t u) : LabelStep s u :=
  ⟨k.track.trans h.track, k.winder.trans h.winder, k.rolls.trans h.rolls⟩

theorem labelStep_setRecord (s : State) (seq : Nat) {f : RollRec → RollRec} (hf : ∀ r, recordRoll (f r) = recordRoll r) :
    LabelStep s (s.setRecord seq f) := by
  refine ⟨rfl, rfl, ?_⟩
  show (s.rolls.queue.map _).map recordRoll = _
  rw [List.map_map]
  refine List.map_congr_left fun r _ => ?_
  rw [Function.comp]
  split
  · exact hf r
  · rfl

theorem labelStep_reach {s t : State} (h : s.faultReach t) : LabelStep s t := ⟨h.track, h.winder, by rw [h.rolls]⟩

theorem labelStep_startJob (s : State) (r : RollRec) (lines : List (List Byte)) : LabelStep s (s.startJob r lines) :=
  have h := labelStep_setRecord s r.seq (f := fun q => { q with label := .sent, jobNumber := s.rolls.nextJob }) fun _ => rfl
  ⟨h.track, h.winder, h.rolls⟩

theorem labelStep_failLabel (s : State) (seq : Nat) : LabelStep s (s.failLabel seq) :=
  (labelStep_setRecord s seq (f := fun r => { r with label := .failed, flags := r.flags ||| labelFailedBit }) fun _ => rfl).trans
    (labelStep_reach (reach_raise _ _ _))

theorem labelStep_labelTest (fuel : Nat) (s : State) : LabelStep s (s.labelTest fuel) := by
  induction fuel generalizing s with
  | zero => exact ⟨rfl, rfl, rfl⟩
  | succ fuel ih =>
    rw [State.labelTest]
    split
    · exact ⟨rfl, rfl, rfl⟩
    · split
      · exact ⟨rfl, rfl, rfl⟩
      · split
        · split
          · exact labelStep_startJob s _ _
          · exact (labelStep_failLabel s _).trans (ih _)
        · exact ⟨rfl, rfl, rfl⟩

/-! ## The obligation -/

theorem handOver_spec (s : State) {c : ClosingRoll} {rest : List ClosingRoll} (hc : s.winder.closing = c :: rest) :
    let t := s.handOver c
    t.winder.closing = rest
      ∧ t.rolls.queue.map recordRoll = s.rolls.queue.map recordRoll ++ [recordRoll (composedRecord s c)]
      ∧ t.track.units.map (fun v => (v.c, v.g)) = s.track.units.map (fun v => (v.c, v.g)) := by
  intro t
  obtain ⟨v, hv⟩ : ∃ v, v = s.setWinder (fun w => { w with closing := w.closing.drop 1 }) := ⟨_, rfl⟩
  have hrecord : composedRecord v c = composedRecord s c := by rw [hv]; rfl
  have hclosing : v.winder.closing = rest := by
    rw [hv]
    show s.winder.closing.drop 1 = rest
    rw [hc]
    rfl
  have ht : t = ((v.composeReported c).labelNext.reassess).settlePlan := by rw [hv]; rfl
  obtain ⟨htrack, hwinder, hqueue, -⟩ := composeReported_frame v c
  have hlabel : LabelStep (v.composeReported c) (v.composeReported c).labelNext := labelStep_labelTest 8 _
  have hkept : Kept (v.composeReported c).labelNext t := ht ▸ (kept_reassess _).trans (kept_settlePlan _)
  refine ⟨?_, ?_, ?_⟩
  · rw [kept_closing hkept, hlabel.winder, hwinder, hclosing]
  · rw [hkept.queue, hlabel.rolls, hqueue, List.map_append, hrecord, hv]
    rfl
  · have hunits := congrArg (List.map fun u : UnitRec => (u.c, u.g)) hkept.units
    simp only [List.map_map, Function.comp_def, UnitRec.core] at hunits
    rw [hunits, hlabel.track, htrack, hv]
    rfl

/-- Settles O32. -/
theorem rollHandedOver : Obligations.RollHandedOver := by
  unfold Obligations.RollHandedOver
  intro s
  refine ⟨fun hnone => ?_, fun c rest hc => ⟨fun hwait => ?_, fun hleft => ?_⟩, fun c u rest hunits hn hlen => ?_,
    fun c p hunits hheld hp => ?_⟩
  · show Host.Outcome.next s.handoverEvent = _
    rw [State.handoverEvent, State.handoverDue, hnone]
  · show Host.Outcome.next s.handoverEvent = _
    rw [State.handoverEvent, handoverDue_none hc hwait]
  · intro k
    have hexec : exec .rollHandover s = .next (s.handOver c) := by
      show Host.Outcome.next s.handoverEvent = _
      rw [State.handoverEvent, handoverDue_some hc hleft]
    have hk : s.rollOrder c = k := by
      dsimp only [k]
      cases hunits : c.roll.units with
      | nil => exact rollOrder_empty hunits
      | cons u us => exact rollOrder_units hunits
    obtain ⟨hclosing, hqueue, hunits⟩ := handOver_spec s hc
    obtain ⟨hlow, hhigh⟩ := recordNumber_range s c
    refine ⟨s.handOver c, s.recordNumber c, hexec, hclosing, hlow, hhigh, fun hheld => ?_, fun p hempty hgone hp => ?_, ?_, hunits,
      (steady_handOver s c).leavesInputs⟩
    · have hcopy : s.copyHeld c = true := by
        by_cases hempty : c.roll.units = []
        · obtain ⟨hkey, hbody⟩ := hheld.resolve_left fun hne => hne hempty
          rw [copyHeld_empty hempty, hk, decide_eq_true hkey, hbody]
          rfl
        · exact copyHeld_units hempty
      rw [recordNumber_held hcopy, hk]
      rfl
    · have hcopy : s.copyHeld c = false := by
        rw [copyHeld_empty hempty, hk]
        by_cases hkey : s.orderKey k.slot = k
        · rw [hgone hkey]
          exact Bool.and_false _
        · rw [decide_eq_false hkey]
          exact Bool.false_and _
      rw [recordNumber_after hcopy hp]
      rfl
    · refine hqueue.trans ?_
      rw [← hk]
      rfl
  · intro t produced
    have hheld : s.copyHeld c = true := copyHeld_units (by rw [hunits]; exact List.cons_ne_nil _ _)
    have hslot : (s.rollOrder c).slot = u.order := by rw [rollOrder_units hunits]; rfl
    have ht : t = (s.compose c).rollProduced u.order := by
      rw [← hslot]
      exact if_pos hheld
    obtain ⟨x, m, hcompose⟩ := compose_frame s c
    have hord : (s.compose c).ord = (s.setOrder u.order (fun o => { o with lastRoll := s.recordNumber c })).ord := by
      rw [hcompose, ← hslot]
      unfold queued
      rw [if_pos hheld]
      rfl
    have horder : (s.compose c).order u.order = { s.order u.order with lastRoll := s.recordNumber c } := by
      rw [order_congr hord, order_setOrder_same s _ hlen]
    obtain ⟨hproduced, hbytes, hcurrent⟩ := rollProduced_spec (s.compose c) hn (by rw [hord]; simpa using hlen)
    rw [horder] at hproduced hbytes hcurrent
    obtain ⟨-, -, hqueue, -⟩ := composeReported_frame s c
    have hbody : s.recordBody c = s.body u.order := by rw [State.recordBody, if_pos hheld, hslot]
    have haddr : 0x0474 + 128 * u.order = orderSlotAddr u.order + 0x74 := by unfold orderSlotAddr; omega
    refine ⟨by rw [ht, hproduced], by rw [ht, haddr]; exact hbytes, by rw [ht]; exact hcurrent, composedRecord s c, hqueue, hslot,
      ?_, ?_, ?_, ?_, ?_⟩
    all_goals
      rw [← hbody]
      rfl
  · have hbody := recordBody_after hheld hp
    obtain ⟨-, -, hqueue, hfree⟩ := composeReported_frame s c
    refine ⟨composedRecord s c, hqueue, rollOrder_empty hunits, recordNumber_after hheld hp, ?_, ?_, ?_, ?_, ?_, hfree.trans ?_⟩
    · rw [← hbody]
      rfl
    · rw [← hbody]
      rfl
    · rw [← hbody]
      rfl
    · rw [← hbody]
      rfl
    · rw [← hbody]
      rfl
    · unfold queued
      rw [if_neg (by rw [hheld]; exact Bool.false_ne_true), if_pos (by rw [hp]; rfl)]
      rfl

end Sys2Proof.Proofs.RollHandover
end

section
/-! PROOFS. Placing a request (R89), and a forced one inside a closed segment (R94). -/

namespace Sys2Proof.Proofs.PlanPlacing
open Sys2Proof.Machine Sys2Proof.Proofs.FaultFacts Sys2Proof.Proofs.PlannerFacts Sys2Proof.Proofs.WinderCuts

/-! ## Plans in coordinate order -/

/-- The entries stand in rising coordinates. -/
def Ordered (plan : List PlanEntry) : Prop := plan.Pairwise (fun a b => a.x < b.x)

theorem Ordered.map {plan : List PlanEntry} (h : Ordered plan) {f : PlanEntry → PlanEntry} (hf : ∀ e, (f e).x = e.x) :
    Ordered (plan.map f) := by
  refine List.pairwise_map.mpr (List.Pairwise.imp (fun {a b} hab => ?_) h)
  rwa [hf, hf]

theorem Ordered.filter {plan : List PlanEntry} (h : Ordered plan) (p : PlanEntry → Bool) : Ordered (plan.filter p) :=
  List.Pairwise.filter p h

theorem insertBy_perm {α : Type} (key : α → Int) (a : α) (l : List α) : (insertBy key a l).Perm (a :: l) := by
  induction l with
  | nil => exact .refl _
  | cons b l ih =>
    rw [insertBy]
    split
    · exact .refl _
    · exact (ih.cons b).trans (.swap a b l)

/-- An entry at a coordinate where none stands goes to its place. -/
theorem Ordered.insertEntry {plan : List PlanEntry} (h : Ordered plan) {e : PlanEntry} (he : ∀ q ∈ plan, q.x ≠ e.x) :
    Ordered (insertEntry e plan) := by
  induction plan with
  | nil => exact List.pairwise_singleton _ _
  | cons q plan ih =>
    obtain ⟨hq, hplan⟩ := List.pairwise_cons.mp h
    unfold Machine.insertEntry
    rw [insertBy]
    split
    next hlt =>
      refine List.pairwise_cons.mpr ⟨fun p hp => ?_, h⟩
      rcases List.mem_cons.mp hp with rfl | hp
      · exact hlt
      · exact hlt.trans (hq p hp)
    next hge =>
      refine List.pairwise_cons.mpr ⟨fun p hp => ?_, ih hplan fun p hp => he p (List.mem_cons_of_mem _ hp)⟩
      rcases mem_insertBy.mp hp with rfl | hp
      · have := he q List.mem_cons_self
        omega
      · exact hq p hp

theorem entryAt_none_iff (s : State) (x : Int) : s.entryAt x = none ↔ ∀ q ∈ s.cut.plan, q.x ≠ x := by
  rw [State.entryAt, List.find?_eq_none]
  simp

theorem entryAt_mem {s : State} {x : Int} {e : PlanEntry} (h : s.entryAt x = some e) : e ∈ s.cut.plan ∧ e.x = x :=
  ⟨List.mem_of_find?_eq_some h, by simpa using List.find?_some h⟩

/-! ## The plan after each rule of R89 -/

theorem placed_plan (s : State) (kind : CutKind) (x : Int) (opening : Bool) :
    (s.placed kind x opening).cut.plan = s.cut.plan := by
  unfold State.placed
  extract_lets t
  have ht : t.cut.plan = s.cut.plan := by
    dsimp only [t]
    split <;> rfl
  split
  · exact (countFrom_keeps t x).1.trans ht
  · exact ht

/-- The plan after rule 3 of R89. -/
def targetStripped (x : Int) (plan : List PlanEntry) : List PlanEntry :=
  (plan.map (fun e => if x < e.x then { e with reasons := { e.reasons with target := false } } else e)).filter
    (fun e => !e.reasons.isEmpty)

theorem stripTarget_cut (s : State) (x : Int) : (s.stripTarget x).cut = { s.cut with plan := targetStripped x s.cut.plan } :=
  setPlan_cut s _

theorem stripTarget_winder (s : State) (x : Int) : (s.stripTarget x).winder = s.winder := setPlan_winder s _

/-- TARGET is taken out of an entry beyond `x`. -/
def targetOut (x : Int) (e : PlanEntry) : PlanEntry :=
  if x < e.x then { e with reasons := { e.reasons with target := false } } else e

theorem targetOut_x (x : Int) (e : PlanEntry) : (targetOut x e).x = e.x := by
  unfold targetOut
  split <;> rfl

theorem mem_targetStripped {x : Int} {plan : List PlanEntry} {q : PlanEntry} :
    q ∈ targetStripped x plan ↔ (∃ e ∈ plan, targetOut x e = q) ∧ q.reasons.isEmpty = false := by
  unfold targetStripped
  rw [List.mem_filter, List.mem_map, Bool.not_eq_true']
  rfl

theorem Ordered.targetStripped {plan : List PlanEntry} (h : Ordered plan) (x : Int) : Ordered (targetStripped x plan) :=
  (h.map (targetOut_x x)).filter _

theorem length_targetStripped (x : Int) (plan : List PlanEntry) : (targetStripped x plan).length ≤ plan.length :=
  (List.length_filter_le _ _).trans (List.length_map _).le

/-- An entry with a forced reason keeps its place. -/
theorem targetOut_kept {x : Int} {e : PlanEntry} {plan : List PlanEntry} (he : e ∈ plan) (hforced : e.reasons.spliceAfter = true) :
    targetOut x e ∈ targetStripped x plan := by
  refine mem_targetStripped.mpr ⟨⟨e, he, rfl⟩, ?_⟩
  rw [Reasons.isEmpty, decide_eq_false_iff_not]
  intro hnone
  have hafter : (targetOut x e).reasons.spliceAfter = true := by
    unfold targetOut
    split <;> exact hforced
  rw [hnone] at hafter
  cases hafter

theorem planFull_spec (s : State) (kind : CutKind) (x : Int) :
    (s.planFull kind x).cut.plan = s.cut.plan ∧ (s.planFull kind x).faultActive cutPlanFull 0 = true := by
  unfold State.planFull
  extract_lets t
  have ht : t.cut.plan = s.cut.plan ∧ t.faultActive cutPlanFull 0 = true := by
    dsimp only [t]
    split
    next h => exact ⟨rfl, h⟩
    next => exact ⟨congrArg Planner.plan (reach_raise s _ _).cut, raise_faultActive s 0 rfl (by decide) (by decide)⟩
  clear_value t
  cases kind <;> exact ht

theorem rollAt_none {s : State} {x : Int} (h : ∀ r, s.winder.roll = some r → r.start ≠ x) : s.rollAt x = none := by
  rw [State.rollAt, Option.filter_eq_none_iff]
  intro r hr
  simpa using h r hr

/-- The reasons join the entry at `x`. -/
def reasonsJoined (x : Int) (r : Reasons) (late : Bool) (e : PlanEntry) : PlanEntry :=
  if e.x = x then { e with reasons := e.reasons.union r, deferred := e.deferred || late } else e

theorem reasonsJoined_x (x : Int) (r : Reasons) (late : Bool) (e : PlanEntry) : (reasonsJoined x r late e).x = e.x := by
  unfold reasonsJoined
  split <;> rfl

/-- Whether a TARGET goes late, after the drop indication. -/
def goesLate (s : State) (kind : CutKind) : Bool := decide (kind = .target) && s.cut.targetDrop

/-- The plan on which rules 4 and 5 of R89 act. -/
def planFor (s : State) (kind : CutKind) (x : Int) : List PlanEntry :=
  if kind.reasons.forced then targetStripped x s.cut.plan else s.cut.plan

section
variable {s : State} {kind : CutKind} {x : Int} {waiting : Bool}

/-- Rule 1: the roll in progress takes the reasons. -/
theorem placeAt_opening {roll : Roll} (h : s.rollAt x = some roll) : (s.placeAt kind x waiting).cut.plan = s.cut.plan := by
  unfold State.placeAt
  extract_lets r late
  simp only [h]
  exact placed_plan _ _ _ _

/-- Rule 2: the entry at `x` is joined. -/
theorem placeAt_joins (hroll : s.rollAt x = none) {e : PlanEntry} (h : s.entryAt x = some e) :
    (s.placeAt kind x waiting).cut.plan = s.cut.plan.map (reasonsJoined x kind.reasons (goesLate s kind)) := by
  unfold State.placeAt
  extract_lets r late
  simp only [hroll, h, Option.isSome_some, if_true]
  exact placed_plan _ _ _ _

theorem stripFor_cut (s : State) (kind : CutKind) (x : Int) :
    (if kind.reasons.forced then s.stripTarget x else s).cut = { s.cut with plan := planFor s kind x } := by
  unfold planFor
  split
  · exact stripTarget_cut s x
  · rfl

/-- The state on which rules 4 and 5 act. -/
theorem placeAt_beyond (hroll : s.rollAt x = none) (h : s.entryAt x = none) :
    ∃ t : State, t.cut = { s.cut with plan := planFor s kind x } ∧ s.placeAt kind x waiting
      = if 16 ≤ (planFor s kind x).length + (if waiting then 0 else s.cut.full.length) then t.planFull kind x
        else (t.setCut (fun p => { p with
          plan := insertEntry { x := x, reasons := kind.reasons, deferred := goesLate s kind } p.plan })).placed kind x false := by
  have hplaces : (if kind.reasons.forced then s.stripTarget x else s).placesTaken waiting
      = (planFor s kind x).length + (if waiting then 0 else s.cut.full.length) := by
    rw [State.placesTaken, stripFor_cut]
  refine ⟨_, stripFor_cut s kind x, ?_⟩
  rw [← hplaces]
  simp only [State.placeAt, hroll, h, Option.isSome_none, Bool.false_eq_true, if_false]
  exact rfl

/-- Rule 4: the plan is full. -/
theorem placeAt_full (hroll : s.rollAt x = none) (h : s.entryAt x = none)
    (hfull : 16 ≤ (planFor s kind x).length + (if waiting then 0 else s.cut.full.length)) :
    (s.placeAt kind x waiting).cut.plan = planFor s kind x ∧ (s.placeAt kind x waiting).faultActive cutPlanFull 0 = true := by
  obtain ⟨t, ht, heq⟩ := placeAt_beyond (kind := kind) (waiting := waiting) hroll h
  rw [heq, if_pos hfull]
  obtain ⟨hplan, hactive⟩ := planFull_spec t kind x
  exact ⟨hplan.trans (congrArg Planner.plan ht), hactive⟩

/-- Rule 5: an entry is made. -/
theorem placeAt_inserts (hroll : s.rollAt x = none) (h : s.entryAt x = none)
    (hroom : (planFor s kind x).length + (if waiting then 0 else s.cut.full.length) < 16) :
    (s.placeAt kind x waiting).cut.plan
      = insertEntry { x := x, reasons := kind.reasons, deferred := goesLate s kind } (planFor s kind x) := by
  obtain ⟨t, ht, heq⟩ := placeAt_beyond (kind := kind) (waiting := waiting) hroll h
  rw [heq, if_neg (not_le.mpr hroom), placed_plan, setCut_cut, ht]

end

theorem mem_planFor_x {s : State} {kind : CutKind} {x : Int} {q : PlanEntry} (h : q ∈ planFor s kind x) :
    ∃ e ∈ s.cut.plan, e.x = q.x := by
  unfold planFor at h
  split at h
  · obtain ⟨⟨e, he, heq⟩, -⟩ := mem_targetStripped.mp h
    exact ⟨e, he, by rw [← heq, targetOut_x]⟩
  · exact ⟨q, h, rfl⟩

theorem length_planFor (s : State) (kind : CutKind) (x : Int) : (planFor s kind x).length ≤ s.cut.plan.length := by
  unfold planFor
  split
  · exact length_targetStripped x _
  · exact le_refl _

/-- The placing of a request (R89). -/
theorem placeAt_spec (s : State) (kind : CutKind) (x : Int) (waiting : Bool)
    (hroll : ∀ r, s.winder.roll = some r → r.start ≠ x) :
    let t := s.placeAt kind x waiting
    let taken := (planFor s kind x).length + (if waiting then 0 else s.cut.full.length)
    (∀ e, s.entryAt x = some e → t.cut.plan = s.cut.plan.map (reasonsJoined x kind.reasons (goesLate s kind)))
    ∧ (s.entryAt x = none → 16 ≤ taken → t.cut.plan = planFor s kind x ∧ t.faultActive cutPlanFull 0 = true)
    ∧ (s.entryAt x = none → taken < 16 →
        t.cut.plan.Perm ({ x := x, reasons := kind.reasons, deferred := goesLate s kind } :: planFor s kind x)
        ∧ (Ordered s.cut.plan → Ordered t.cut.plan))
    ∧ (s.cut.plan.length ≤ 16 → t.cut.plan.length ≤ 16) := by
  intro t taken
  have hnone := rollAt_none hroll
  have hinsert (hentry : s.entryAt x = none) (hroom : taken < 16) := placeAt_inserts (kind := kind) hnone hentry hroom
  have hperm (hentry : s.entryAt x = none) (hroom : taken < 16) :
      t.cut.plan.Perm ({ x := x, reasons := kind.reasons, deferred := goesLate s kind } :: planFor s kind x) := by
    rw [hinsert hentry hroom]
    exact insertBy_perm _ _ _
  refine ⟨fun e he => placeAt_joins hnone he, fun hentry hfull => placeAt_full hnone hentry hfull,
    fun hentry hroom => ⟨hperm hentry hroom, fun hordered => ?_⟩, fun hlen => ?_⟩
  · rw [hinsert hentry hroom]
    have hplan : Ordered (planFor s kind x) := by
      unfold planFor
      split
      · exact hordered.targetStripped x
      · exact hordered
    refine hplan.insertEntry fun q hq => ?_
    obtain ⟨e, he, hx⟩ := mem_planFor_x hq
    exact hx ▸ (entryAt_none_iff s x).mp hentry e he
  · cases hentry : s.entryAt x with
    | some e =>
      rw [show t.cut.plan = _ from placeAt_joins hnone hentry, List.length_map]
      exact hlen
    | none =>
      by_cases hfull : 16 ≤ taken
      · rw [(placeAt_full hnone hentry hfull).1]
        exact (length_planFor s kind x).trans hlen
      · rw [(hperm hentry (not_le.mp hfull)).length_eq, List.length_cons]
        omega

/-! ## A forced request inside a closed segment (R94, log 22) -/

/-- What landing does with a request at a coordinate without roll or entry. -/
theorem landAt_eq {s : State} {kind : CutKind} {x : Int} (waiting : Bool) (merged : State → State)
    (hroll : s.rollAt x = none) (hentry : s.entryAt x = none) : s.landAt kind x waiting merged
      = if 16 ≤ (targetStripped x s.cut.plan).length + (if waiting then 0 else s.cut.full.length) then
          (s.stripTarget x).planFull kind x
        else merged ((s.stripTarget x).clear cutPlanFull 0) := by
  unfold State.landAt
  simp only [hroll, hentry, Option.isSome_none, Bool.false_eq_true, if_false]
  rw [State.placesTaken, stripTarget_cut]

/-- The request that lands inside the segment ending at `a`: BATCH is dropped, another joins the entry there. -/
theorem takeAt_inside {s : State} {kind : CutKind} {x a : Int} (waiting : Bool)
    (hkind : kind = .batch ∨ kind = .changeover ∨ (∃ n, kind = .orderEnd n))
    (hholding : s.holding kind x = false) (haround : s.segmentAround x = some a) : s.takeAt kind x waiting
      = s.landAt kind x waiting (if kind = .batch then id else fun t => t.placeAt kind a waiting) := by
  unfold State.takeAt
  rw [if_neg (by rw [hholding]; exact Bool.false_ne_true)]
  rcases hkind with rfl | rfl | ⟨n, rfl⟩
  · simp only [haround, Option.isSome_some, if_true]
  · simp only [haround, reduceCtorEq, if_false]
  · simp only [haround, reduceCtorEq, if_false]

theorem takeAt_lands (s : State) (kind : CutKind) (x a : Int) (f : PlanEntry) (waiting : Bool)
    (hkind : kind = .batch ∨ kind = .changeover ∨ (∃ n, kind = .orderEnd n))
    (hholding : s.holding kind x = false) (haround : s.segmentAround x = some a)
    (hroll : ∀ r, s.winder.roll = some r → r.start ≠ x ∧ r.start ≠ a) (hentry : s.entryAt x = none)
    (hf : s.entryAt a = some f) (hafter : f.reasons.spliceAfter = true) :
    let t := s.takeAt kind x waiting
    let taken := (targetStripped x s.cut.plan).length + (if waiting then 0 else s.cut.full.length)
    (16 ≤ taken → t.cut.plan = targetStripped x s.cut.plan ∧ t.faultActive cutPlanFull 0 = true)
    ∧ (taken < 16 → t.cut.plan = if kind = .batch then targetStripped x s.cut.plan else
        (targetStripped x s.cut.plan).map (fun q =>
          if q.x = a then { q with reasons := q.reasons.union kind.reasons } else q)) := by
  intro t taken
  have ht : t = _ := (takeAt_inside waiting hkind hholding haround).trans
    (landAt_eq waiting _ (rollAt_none fun r hr => (hroll r hr).1) hentry)
  have hstrip := congrArg Planner.plan (stripTarget_cut s x)
  refine ⟨fun hfull => ?_, fun hroom => ?_⟩
  · rw [ht, if_pos hfull]
    obtain ⟨hplan, hactive⟩ := planFull_spec (s.stripTarget x) kind x
    exact ⟨hplan.trans hstrip, hactive⟩
  · rw [ht, if_neg (not_le.mpr hroom)]
    have hclear : (s.stripTarget x).faultReach ((s.stripTarget x).clear cutPlanFull 0) := reach_clear _ _ _
    have hplan : ((s.stripTarget x).clear cutPlanFull 0).cut.plan = targetStripped x s.cut.plan := by
      rw [hclear.cut]
      exact hstrip
    split
    next => exact hplan
    next hnot =>
      have hnone : ((s.stripTarget x).clear cutPlanFull 0).rollAt a = none := by
        refine rollAt_none fun r hr => (hroll r ?_).2
        rwa [hclear.winder, stripTarget_winder] at hr
      obtain ⟨hfmem, hfx⟩ := entryAt_mem hf
      have hsome : ∃ e, ((s.stripTarget x).clear cutPlanFull 0).entryAt a = some e := by
        rw [← Option.isSome_iff_exists, State.entryAt, hplan, List.find?_isSome]
        exact ⟨_, targetOut_kept hfmem hafter, by rw [targetOut_x, hfx]; exact decide_eq_true rfl⟩
      obtain ⟨e, he⟩ := hsome
      have htarget : kind ≠ .target := by rcases hkind with rfl | rfl | ⟨n, rfl⟩ <;> nofun
      rw [placeAt_joins hnone he, hplan]
      refine List.map_congr_left fun q _ => ?_
      rw [reasonsJoined, goesLate, decide_eq_false htarget, Bool.false_and, Bool.or_false]

end Sys2Proof.Proofs.PlanPlacing
end

section
/-! PROOFS. A waste segment closes (R94): what the merge rules leave at its end and inside it. -/

namespace Sys2Proof.Proofs.ClosingSegment
open Sys2Proof.Machine Sys2Proof.Proofs.FaultFacts Sys2Proof.Proofs.PlannerFacts Sys2Proof.Proofs.WinderCuts
open Sys2Proof.Proofs.PlanPlacing

/-! ## Reasons -/

theorem union_none (r : Reasons) : r.union Reasons.none = r := by
  simp [Reasons.union, Reasons.none]

/-- `r` holds all of `q`. -/
def Absorbs (r q : Reasons) : Prop := r.union q = r

theorem Absorbs.union {r q : Reasons} (h : Absorbs r q) (p : Reasons) : Absorbs (r.union p) q := by
  unfold Absorbs Reasons.union at *
  rw [Reasons.mk.injEq] at *
  grind

theorem Absorbs.both {r q p : Reasons} (hq : Absorbs r q) (hp : Absorbs r p) : Absorbs r (q.union p) := by
  unfold Absorbs Reasons.union at *
  rw [Reasons.mk.injEq] at *
  grind

theorem absorbs_self (r : Reasons) : Absorbs r r := union_self r

theorem absorbs_iff {r q : Reasons} : Absorbs r q ↔ (q.target = true → r.target = true) ∧ (q.batch = true → r.batch = true)
    ∧ (q.spliceBefore = true → r.spliceBefore = true) ∧ (q.spliceAfter = true → r.spliceAfter = true)
    ∧ (q.orderEnd = true → r.orderEnd = true) ∧ (q.changeover = true → r.changeover = true) := by
  unfold Absorbs Reasons.union
  rw [Reasons.mk.injEq]
  grind

theorem Absorbs.spliceAfter {r q : Reasons} (h : Absorbs r q) (hq : q.spliceAfter = true) : r.spliceAfter = true :=
  (absorbs_iff.mp h).2.2.2.1 hq

/-! ## The state of a closing segment -/

/-- The segment from `b` ends at `a`, where an entry stands, which has the reasons `r`. -/
structure Closing (b a : Int) (r : Reasons) (t : State) : Prop where
  stops : ∀ g ∈ t.cut.segments, g.start = b → g.stop = some a
  stands : ∃ q ∈ t.cut.plan, q.x = a
  carries : ∀ q ∈ t.cut.plan, q.x = a → Absorbs q.reasons r

/-- Beyond `b` no entry has SPLICE_BEFORE. -/
def NoBefore (b : Int) (plan : List PlanEntry) : Prop := ∀ q ∈ plan, b < q.x → q.reasons.spliceBefore = false

/-- At `x` no entry has a reason that a closed segment takes from its inside. -/
def Cleared (x : Int) (plan : List PlanEntry) : Prop :=
  ∀ q ∈ plan, q.x = x → q.reasons.batch = false ∧ q.reasons.orderEnd = false ∧ q.reasons.changeover = false

theorem Closing.congr {b a : Int} {r : Reasons} {t u : State} (h : Closing b a r t) (hplan : u.cut.plan = t.cut.plan)
    (hsegments : u.cut.segments = t.cut.segments) : Closing b a r u where
  stops := by rw [hsegments]; exact h.stops
  stands := by rw [hplan]; exact h.stands
  carries := by rw [hplan]; exact h.carries

/-- The end of the segment. -/
theorem Closing.stop {b a : Int} {r : Reasons} {t : State} (h : Closing b a r t) :
    ((t.cut.segments.find? (fun g => decide (g.start = b))).bind Segment.stop).getD a = a := by
  cases hfind : t.cut.segments.find? (fun g => decide (g.start = b)) with
  | none => rfl
  | some g =>
    rw [Option.bind_some, h.stops g (List.mem_of_find?_eq_some hfind) (by simpa using List.find?_some hfind)]
    rfl

theorem Closing.entryAt_end {b a : Int} {r : Reasons} {t : State} (h : Closing b a r t) :
    ∃ d, t.entryAt a = some d ∧ Absorbs d.reasons r := by
  obtain ⟨q, hq, hx⟩ := h.stands
  obtain ⟨d, hd⟩ : ∃ d, t.entryAt a = some d := by
    rw [← Option.isSome_iff_exists, State.entryAt, List.find?_isSome]
    exact ⟨q, hq, decide_eq_true hx⟩
  exact ⟨d, hd, h.carries d (entryAt_mem hd).1 (entryAt_mem hd).2⟩

/-! ## The merge of an entry -/

/-- What an entry keeps when the segment closes at `a`. -/
def keptReasons (a : Int) (e : PlanEntry) : Reasons :=
  { e.reasons with
    batch := e.reasons.batch && !decide (e.x < a), orderEnd := e.reasons.orderEnd && !decide (e.x < a),
    changeover := e.reasons.changeover && !decide (e.x < a), spliceBefore := false }

/-- What goes from it to the entry at `a`. -/
def movedReasons (a : Int) (e : PlanEntry) : Reasons :=
  { Reasons.none with
    orderEnd := e.reasons.orderEnd && decide (e.x < a), changeover := e.reasons.changeover && decide (e.x < a) }

/-- The places of the plan that hold `e` keep what it keeps. -/
def keptAt (a : Int) (e q : PlanEntry) : PlanEntry := if q.x = e.x then { q with reasons := keptReasons a e } else q

/-- Reasons join at `a`. -/
def joinedAt (a : Int) (r : Reasons) (q : PlanEntry) : PlanEntry :=
  if q.x = a then { q with reasons := q.reasons.union r } else q

/-- The plan after the merge of `e`. -/
def mergedPlan (a : Int) (e : PlanEntry) (plan : List PlanEntry) : List PlanEntry :=
  ((plan.map (keptAt a e)).filter (fun q => !q.reasons.isEmpty)).map (joinedAt a (movedReasons a e))

theorem keptAt_x (a : Int) (e q : PlanEntry) : (keptAt a e q).x = q.x := by
  unfold keptAt
  split <;> rfl

theorem joinedAt_x (a : Int) (r : Reasons) (q : PlanEntry) : (joinedAt a r q).x = q.x := by
  unfold joinedAt
  split <;> rfl

theorem mem_mergedPlan {a : Int} {e p : PlanEntry} {plan : List PlanEntry} : p ∈ mergedPlan a e plan ↔
    ∃ q ∈ plan, (keptAt a e q).reasons.isEmpty = false ∧ joinedAt a (movedReasons a e) (keptAt a e q) = p := by
  unfold mergedPlan
  rw [List.mem_map]
  constructor
  · rintro ⟨q, hq, rfl⟩
    obtain ⟨hmem, hsome⟩ := List.mem_filter.mp hq
    obtain ⟨o, ho, rfl⟩ := List.mem_map.mp hmem
    exact ⟨o, ho, by simpa using hsome, rfl⟩
  · rintro ⟨q, hq, hsome, rfl⟩
    exact ⟨_, List.mem_filter.mpr ⟨List.mem_map_of_mem hq, by simp [hsome]⟩, rfl⟩

theorem joinReasons_cut {s : State} {a : Int} (r : Reasons) (h : (s.entryAt a).isSome = true) :
    (s.joinReasons a r).cut = { s.cut with plan := s.cut.plan.map (joinedAt a r) } := by
  unfold State.joinReasons
  rw [if_pos h]
  split
  next hr =>
    rw [Reasons.isEmpty, decide_eq_true_eq] at hr
    have hid : s.cut.plan.map (joinedAt a r) = s.cut.plan := by
      refine (List.map_congr_left fun q _ => ?_).trans (List.map_id _)
      rw [joinedAt, hr, union_none]
      split <;> rfl
    rw [hid]
  next => exact rfl

/-- An entry at the end keeps all its reasons. -/
theorem keptReasons_end {a : Int} {e : PlanEntry} (hx : e.x = a) (hbefore : e.reasons.spliceBefore = false) :
    keptReasons a e = e.reasons := by
  have hend : decide (e.x < a) = false := decide_eq_false (by omega)
  rw [keptReasons, hend, Bool.not_false, Bool.and_true, Bool.and_true, Bool.and_true, ← hbefore]

section
variable {b a y : Int} {r : Reasons} {t : State} {e : PlanEntry}

/-- The merge of an entry up to the end that has no SPLICE_BEFORE. -/
theorem mergeReasons_cut (h : Closing b a r t) (hr : r.spliceAfter = true) (he : e ∈ t.cut.plan)
    (hbefore : e.reasons.spliceBefore = false) : (t.mergeReasons b a e).cut.plan = mergedPlan a e t.cut.plan
      ∧ (t.mergeReasons b a e).cut.segments = t.cut.segments ∧ (t.mergeReasons b a e).cut.held = t.cut.held := by
  obtain ⟨p, hp⟩ : ∃ p, p = (t.cut.plan.map (keptAt a e)).filter (fun q => !q.reasons.isEmpty) := ⟨_, rfl⟩
  have hend : ((t.setPlan p).entryAt a).isSome = true := by
    obtain ⟨q, hq, hx⟩ := h.stands
    rw [State.entryAt, setPlan_cut, List.find?_isSome]
    refine ⟨keptAt a e q, ?_, by rw [keptAt_x, hx]; exact decide_eq_true rfl⟩
    rw [hp, List.mem_filter]
    refine ⟨List.mem_map_of_mem hq, ?_⟩
    have hafter : (keptAt a e q).reasons.spliceAfter = true := by
      unfold keptAt
      split
      next heq => exact (h.carries e he (heq.symm.trans hx)).spliceAfter hr
      next => exact (h.carries q hq hx).spliceAfter hr
    rw [Bool.not_eq_true', Reasons.isEmpty, decide_eq_false_iff_not]
    intro hnone
    rw [hnone] at hafter
    cases hafter
  have hcut := joinReasons_cut (movedReasons a e) hend
  have hjoined : (t.mergeReasons b a e).cut.plan = ((t.setPlan p).joinReasons a (movedReasons a e)).cut.plan
      ∧ (t.mergeReasons b a e).cut.segments = ((t.setPlan p).joinReasons a (movedReasons a e)).cut.segments
      ∧ (t.mergeReasons b a e).cut.held = ((t.setPlan p).joinReasons a (movedReasons a e)).cut.held := by
    subst hp
    unfold State.mergeReasons
    rw [if_neg (by rw [hbefore]; exact Bool.false_ne_true)]
    dsimp only
    split <;> exact ⟨rfl, rfl, rfl⟩
  rw [hcut, setPlan_cut] at hjoined
  exact ⟨hjoined.1.trans (by rw [hp, mergedPlan]), hjoined.2⟩

/-- The merge of the place `y`: its entry, when it has one up to the end, is merged. -/
theorem mergeEntry_cut (h : Closing b a r t) (hr : r.spliceAfter = true) (hno : NoBefore b t.cut.plan) (hy : b < y) :
    (t.mergeEntry b a y).cut.segments = t.cut.segments ∧ (t.mergeEntry b a y).cut.held = t.cut.held
    ∧ ((t.mergeEntry b a y).cut.plan = t.cut.plan ∧ (∀ e, t.entryAt y = some e → a < y)
      ∨ ∃ e, t.entryAt y = some e ∧ y ≤ a ∧ (t.mergeEntry b a y).cut.plan = mergedPlan a e t.cut.plan) := by
  cases hentry : t.entryAt y with
  | none =>
    have heq : t.mergeEntry b a y = t := by simp only [State.mergeEntry, hentry]
    rw [heq]
    exact ⟨rfl, rfl, .inl ⟨rfl, nofun⟩⟩
  | some e =>
    obtain ⟨he, hx⟩ := entryAt_mem hentry
    have heq : t.mergeEntry b a y = if y ≤ a then t.mergeReasons b a e else t := by
      simp only [State.mergeEntry, hentry, h.stop]
    rw [heq]
    split
    next hle =>
      obtain ⟨hplan, hsegments, hheld⟩ := mergeReasons_cut h hr he (hno e he (hx ▸ hy))
      exact ⟨hsegments, hheld, .inr ⟨e, rfl, hle, hplan⟩⟩
    next hlt => exact ⟨rfl, rfl, .inl ⟨rfl, fun e _ => not_le.mp hlt⟩⟩

/-- The merge of an entry keeps what a closing segment has. -/
theorem merged_noBefore (hno : NoBefore b t.cut.plan) (e : PlanEntry) : NoBefore b (mergedPlan a e t.cut.plan) := by
  intro p hp hx
  obtain ⟨q, hq, -, rfl⟩ := mem_mergedPlan.mp hp
  rw [joinedAt_x, keptAt_x] at hx
  have hkept : (keptAt a e q).reasons.spliceBefore = false := by
    unfold keptAt
    split
    · rfl
    · exact hno q hq hx
  unfold joinedAt
  split
  · exact (Bool.or_false _).trans hkept
  · exact hkept

theorem kept_carries (h : Closing b a r t) (hno : NoBefore b t.cut.plan) (hba : b < a) (he : e ∈ t.cut.plan) {q : PlanEntry}
    (hq : q ∈ t.cut.plan) (hx : q.x = a) : Absorbs (keptAt a e q).reasons r := by
  unfold keptAt
  split
  next heq =>
    have hex : e.x = a := heq.symm.trans hx
    rw [show ({ q with reasons := keptReasons a e } : PlanEntry).reasons = e.reasons from
      keptReasons_end hex (hno e he (hex ▸ hba))]
    exact h.carries e he hex
  next => exact h.carries q hq hx

theorem merged_carries (h : Closing b a r t) (hno : NoBefore b t.cut.plan) (hba : b < a) (he : e ∈ t.cut.plan) {p : PlanEntry}
    (hp : p ∈ mergedPlan a e t.cut.plan) (hx : p.x = a) : Absorbs p.reasons r ∧ Absorbs p.reasons (movedReasons a e) := by
  obtain ⟨q, hq, -, rfl⟩ := mem_mergedPlan.mp hp
  rw [joinedAt_x, keptAt_x] at hx
  have hkept := kept_carries h hno hba he hq hx
  have hjoined : (joinedAt a (movedReasons a e) (keptAt a e q)).reasons
      = (keptAt a e q).reasons.union (movedReasons a e) := by
    rw [joinedAt, if_pos (by rw [keptAt_x, hx])]
  rw [hjoined]
  exact ⟨hkept.union _, union_absorb _ _⟩

theorem merged_stands (h : Closing b a r t) (hr : r.spliceAfter = true) (hno : NoBefore b t.cut.plan) (hba : b < a)
    (he : e ∈ t.cut.plan) : ∃ q ∈ mergedPlan a e t.cut.plan, q.x = a := by
  obtain ⟨q, hq, hx⟩ := h.stands
  refine ⟨_, mem_mergedPlan.mpr ⟨q, hq, ?_, rfl⟩, by rw [joinedAt_x, keptAt_x, hx]⟩
  rw [Reasons.isEmpty, decide_eq_false_iff_not]
  intro hnone
  have hafter := (kept_carries h hno hba he hq hx).spliceAfter hr
  rw [hnone] at hafter
  cases hafter

theorem mergeEntry_closing (h : Closing b a r t) (hr : r.spliceAfter = true) (hno : NoBefore b t.cut.plan) (hba : b < a)
    (hy : b < y) : Closing b a r (t.mergeEntry b a y) ∧ NoBefore b (t.mergeEntry b a y).cut.plan := by
  obtain ⟨hsegments, -, hplan⟩ := mergeEntry_cut h hr hno hy
  rcases hplan with ⟨hplan, -⟩ | ⟨e, hentry, -, hplan⟩
  · exact ⟨h.congr hplan hsegments, by rw [hplan]; exact hno⟩
  · have he := (entryAt_mem hentry).1
    refine ⟨⟨by rw [hsegments]; exact h.stops, ?_, fun p hp hx => ?_⟩, ?_⟩
    · rw [hplan]
      exact merged_stands h hr hno hba he
    · rw [hplan] at hp
      exact (merged_carries h hno hba he hp hx).1
    · rw [hplan]
      exact merged_noBefore hno e

/-- What the place `x` inside has been left with, and what the end has from it. -/
def Settled (a x : Int) (e : PlanEntry) (plan : List PlanEntry) : Prop :=
  Cleared x plan ∧ ∀ q ∈ plan, q.x = a → Absorbs q.reasons (movedReasons a e)

/-- The entry `e` with its reasons stands alone at its place, or its merge is done. -/
def Merging (a : Int) (e : PlanEntry) (plan : List PlanEntry) : Prop :=
  (e ∈ plan ∧ e.reasons.isEmpty = false ∧ ∀ q ∈ plan, q.x = e.x → q = e) ∨ Settled a e.x e plan

variable {x : Int}

theorem merged_settled_self (h : Closing b a r t) (hno : NoBefore b t.cut.plan) (hba : b < a) (he : e ∈ t.cut.plan)
    (hx : e.x = x) (hxa : x < a) : Settled a x e (mergedPlan a e t.cut.plan) := by
  refine ⟨fun p hp hpx => ?_, fun p hp hpx => (merged_carries h hno hba he hp hpx).2⟩
  obtain ⟨q, -, -, rfl⟩ := mem_mergedPlan.mp hp
  rw [joinedAt_x, keptAt_x] at hpx
  rw [joinedAt, if_neg (by rw [keptAt_x]; omega), keptAt, if_pos (hpx.trans hx.symm)]
  have hin : decide (e.x < a) = true := decide_eq_true (hx ▸ hxa)
  exact ⟨by simp [keptReasons, hin], by simp [keptReasons, hin], by simp [keptReasons, hin]⟩

/-- The merge of another entry changes nothing at `x`. -/
theorem merged_elsewhere {d p : PlanEntry} (hd : d.x ≠ x) (hxa : x < a) (hp : p ∈ mergedPlan a d t.cut.plan) (hpx : p.x = x) :
    p ∈ t.cut.plan := by
  obtain ⟨q, hq, -, rfl⟩ := mem_mergedPlan.mp hp
  rw [joinedAt_x, keptAt_x] at hpx
  rw [joinedAt, if_neg (by rw [keptAt_x]; omega), keptAt, if_neg (by omega)]
  exact hq

/-- The merge of an entry whose merge at `x` is done keeps it done. -/
theorem merged_settled (h : Closing b a r t) (hno : NoBefore b t.cut.plan) (hba : b < a) {d : PlanEntry} (hd : d ∈ t.cut.plan)
    (hxa : x < a) (hsettled : Settled a x e t.cut.plan) : Settled a x e (mergedPlan a d t.cut.plan) := by
  obtain ⟨hcleared, hcarried⟩ := hsettled
  refine ⟨fun p hp hpx => ?_, fun p hp hpx => ?_⟩
  · by_cases hdx : d.x = x
    · obtain ⟨hbatch, horderEnd, hchangeover⟩ := hcleared d hd hdx
      obtain ⟨q, -, -, rfl⟩ := mem_mergedPlan.mp hp
      rw [joinedAt_x, keptAt_x] at hpx
      rw [joinedAt, if_neg (by rw [keptAt_x]; omega), keptAt, if_pos (hpx.trans hdx.symm)]
      exact ⟨by simp [keptReasons, hbatch], by simp [keptReasons, horderEnd], by simp [keptReasons, hchangeover]⟩
    · exact hcleared p (merged_elsewhere hdx hxa hp hpx) hpx
  · have hclosing : Closing b a (movedReasons a e) t := ⟨h.stops, h.stands, hcarried⟩
    exact (merged_carries hclosing hno hba hd hp hpx).1

theorem mergeEntry_settled (h : Closing b a r t) (hr : r.spliceAfter = true) (hno : NoBefore b t.cut.plan) (hba : b < a)
    (hy : b < y) (hxa : x < a) (hsettled : Settled a x e t.cut.plan) : Settled a x e (t.mergeEntry b a y).cut.plan := by
  obtain ⟨-, -, hplan⟩ := mergeEntry_cut h hr hno hy
  rcases hplan with ⟨hplan, -⟩ | ⟨d, hentry, -, hplan⟩
  · rwa [hplan]
  · rw [hplan]
    exact merged_settled h hno hba (entryAt_mem hentry).1 hxa hsettled

/-- The merge of any place goes toward it. -/
theorem mergeEntry_merging (h : Closing b a r t) (hr : r.spliceAfter = true) (hno : NoBefore b t.cut.plan) (hba : b < a)
    (hy : b < y) (hxa : e.x < a) (hmerging : Merging a e t.cut.plan) :
    Merging a e (t.mergeEntry b a y).cut.plan ∧ (y = e.x → Settled a e.x e (t.mergeEntry b a y).cut.plan) := by
  rcases hmerging with ⟨he, hsome, halone⟩ | hsettled
  · obtain ⟨-, -, hplan⟩ := mergeEntry_cut h hr hno hy
    rcases hplan with ⟨hplan, hbeyond⟩ | ⟨d, hentry, hle, hplan⟩
    · rw [hplan]
      refine ⟨.inl ⟨he, hsome, halone⟩, fun hyx => ?_⟩
      obtain ⟨d, hd⟩ : ∃ d, t.entryAt y = some d := by
        rw [← Option.isSome_iff_exists, State.entryAt, List.find?_isSome]
        exact ⟨e, he, decide_eq_true hyx.symm⟩
      have := hbeyond d hd
      omega
    · rw [hplan]
      obtain ⟨hd, hdy⟩ := entryAt_mem hentry
      by_cases hyx : y = e.x
      · obtain rfl := halone d hd (hdy.trans hyx)
        have hdone := merged_settled_self h hno hba hd rfl hxa
        exact ⟨.inr hdone, fun _ => hdone⟩
      · have hdx : d.x ≠ e.x := hdy ▸ hyx
        refine ⟨.inl ⟨?_, hsome, fun q hq hqx => halone q (merged_elsewhere hdx hxa hq hqx) hqx⟩, fun h => absurd h hyx⟩
        have hkept : keptAt a d e = e := if_neg (Ne.symm hdx)
        refine mem_mergedPlan.mpr ⟨e, he, by rw [hkept]; exact hsome, ?_⟩
        rw [hkept, joinedAt, if_neg (ne_of_lt hxa)]
  · have hdone := mergeEntry_settled h hr hno hba hy hxa hsettled
    exact ⟨.inr hdone, fun _ => hdone⟩

end

/-! ## The merge of a request that waited for room -/

/-- A request that joins the end of a closing segment. -/
def JoinsEnd (kind : CutKind) : Prop := kind = .changeover ∨ ∃ n, kind = .orderEnd n

theorem placed_segments {kind : CutKind} (hkind : JoinsEnd kind) (s : State) (y : Int) (opening : Bool) :
    (s.placed kind y opening).cut.segments = s.cut.segments := by
  have hcount (u : State) : (u.countFrom y).cut.segments = u.cut.segments := by
    unfold State.countFrom
    split
    · rfl
    · split <;> rfl
  rcases hkind with rfl | ⟨n, rfl⟩ <;> unfold State.placed <;> dsimp only <;> split
  · exact hcount s
  · rfl
  · exact hcount _
  · rfl

theorem planFull_segments (s : State) (kind : CutKind) (y : Int) : (s.planFull kind y).cut.segments = s.cut.segments := by
  unfold State.planFull
  extract_lets t
  have ht : t.cut.segments = s.cut.segments := by
    dsimp only [t]
    split
    · rfl
    · exact congrArg Planner.segments (reach_raise s _ _).cut
  clear_value t
  cases kind <;> exact ht

theorem placeAt_segments {kind : CutKind} (hkind : JoinsEnd kind) (s : State) (y : Int) (waiting : Bool) :
    (s.placeAt kind y waiting).cut.segments = s.cut.segments := by
  cases hroll : s.rollAt y with
  | some roll =>
    simp only [State.placeAt, hroll]
    exact placed_segments hkind _ _ _
  | none =>
    cases hentry : s.entryAt y with
    | some e =>
      simp only [State.placeAt, hroll, hentry, Option.isSome_some, if_true]
      exact placed_segments hkind _ _ _
    | none =>
      obtain ⟨t, ht, heq⟩ := placeAt_beyond (kind := kind) (waiting := waiting) hroll hentry
      have hsegments : t.cut.segments = s.cut.segments := by rw [ht]
      rw [heq]
      by_cases hfull : 16 ≤ (planFor s kind y).length + (if waiting then 0 else s.cut.full.length)
      · rw [if_pos hfull]
        exact (planFull_segments t kind y).trans hsegments
      · rw [if_neg hfull]
        exact (placed_segments hkind _ _ _).trans hsegments

section
variable {b a x y : Int} {r : Reasons} {t : State} {kind : CutKind}

/-- A placing at or beyond the end keeps the segment, and what stands at `x` inside it. -/
theorem placeAt_closing (hkind : JoinsEnd kind) (h : Closing b a r t) (hr : r.spliceAfter = true)
    (hcleared : Cleared x t.cut.plan) (hxa : x < a) (hy : a ≤ y) (waiting : Bool) :
    Closing b a r (t.placeAt kind y waiting) ∧ Cleared x (t.placeAt kind y waiting).cut.plan := by
  have hsegments := placeAt_segments hkind t y waiting
  have hforced : kind.reasons.forced = true := by rcases hkind with rfl | ⟨n, rfl⟩ <;> rfl
  have hplanFor : planFor t kind y = targetStripped y t.cut.plan := if_pos hforced
  have hstripped {q : PlanEntry} (hq : q ∈ targetStripped y t.cut.plan) (hx : q.x ≤ a) : q ∈ t.cut.plan := by
    obtain ⟨⟨e, he, rfl⟩, -⟩ := mem_targetStripped.mp hq
    rw [targetOut_x] at hx
    rwa [targetOut, if_neg (by omega)]
  have hend : ∃ q ∈ targetStripped y t.cut.plan, q.x = a := by
    obtain ⟨q, hq, hx⟩ := h.stands
    exact ⟨_, targetOut_kept hq ((h.carries q hq hx).spliceAfter hr), (targetOut_x y q).trans hx⟩
  have hbeyond (hroll : t.rollAt y = none) (hentry : t.entryAt y = none) :
      (∃ q ∈ (t.placeAt kind y waiting).cut.plan, q.x = a)
      ∧ ∀ q ∈ (t.placeAt kind y waiting).cut.plan, q.x ≤ a → q ∈ t.cut.plan := by
    have hne : a ≠ y := by
      rintro rfl
      obtain ⟨q, hq, hx⟩ := h.stands
      exact (entryAt_none_iff t a).mp hentry q hq hx
    by_cases hfull : 16 ≤ (planFor t kind y).length + (if waiting then 0 else t.cut.full.length)
    · rw [(placeAt_full hroll hentry hfull).1, hplanFor]
      exact ⟨hend, fun q hq hx => hstripped hq hx⟩
    · rw [placeAt_inserts hroll hentry (not_le.mp hfull), hplanFor]
      obtain ⟨q, hq, hx⟩ := hend
      refine ⟨⟨q, mem_insertBy.mpr (.inr hq), hx⟩, fun q hq hx => ?_⟩
      rcases mem_insertBy.mp hq with rfl | hq
      · exact absurd (le_antisymm hy hx) hne
      · exact hstripped hq hx
  cases hroll : t.rollAt y with
  | some roll =>
    have hplan := placeAt_opening (kind := kind) (waiting := waiting) hroll
    exact ⟨h.congr hplan hsegments, by rw [hplan]; exact hcleared⟩
  | none =>
    cases hentry : t.entryAt y with
    | none =>
      obtain ⟨hstands, hmem⟩ := hbeyond hroll hentry
      exact ⟨⟨by rw [hsegments]; exact h.stops, hstands, fun q hq hx => h.carries q (hmem q hq hx.le) hx⟩,
        fun q hq hx => hcleared q (hmem q hq (by omega)) hx⟩
    | some e =>
      have hplan := placeAt_joins (kind := kind) (waiting := waiting) hroll hentry
      refine ⟨⟨by rw [hsegments]; exact h.stops, ?_, ?_⟩, ?_⟩ <;> rw [hplan]
      · obtain ⟨q, hq, hx⟩ := h.stands
        exact ⟨_, List.mem_map_of_mem hq, (reasonsJoined_x _ _ _ q).trans hx⟩
      · intro p hp hx
        obtain ⟨q, hq, rfl⟩ := List.mem_map.mp hp
        rw [reasonsJoined_x] at hx
        unfold reasonsJoined
        split
        · exact (h.carries q hq hx).union _
        · exact h.carries q hq hx
      · intro p hp hx
        obtain ⟨q, hq, rfl⟩ := List.mem_map.mp hp
        rw [reasonsJoined_x] at hx
        rw [reasonsJoined, if_neg (by omega)]
        exact hcleared q hq hx

theorem segmentAround_lt {s : State} (h : s.segmentAround x = some a) : x < a := by
  unfold State.segmentAround at h
  obtain ⟨g, hg, hstop⟩ := Option.bind_eq_some_iff.mp h
  have hin := List.find?_some hg
  simp only [hstop] at hin
  have := (Bool.and_eq_true_iff.mp hin).2
  simpa using this

theorem takeAt_held {waiting : Bool} (h : t.holding kind x = true) : t.takeAt kind x waiting
    = t.setCut (fun p => { p with held := p.held ++ [{ kind := kind, coordinate := some x }] }) := by
  unfold State.takeAt
  exact if_pos h

/-- A request at the end of the segment. -/
theorem takeAt_end (hkind : JoinsEnd kind) (h : Closing b a r t) (hr : r.spliceAfter = true)
    (hcleared : Cleared x t.cut.plan) (hxa : x < a) :
    Closing b a r (t.takeAt kind a false) ∧ Cleared x (t.takeAt kind a false).cut.plan := by
  have hplace (y : Int) (hy : a ≤ y) := placeAt_closing hkind h hr hcleared hxa hy false
  by_cases hholding : t.holding kind a = true
  · rw [takeAt_held hholding]
    exact ⟨h.congr rfl rfl, hcleared⟩
  · rw [Bool.not_eq_true] at hholding
    cases haround : t.segmentAround a with
    | none =>
      have heq : t.takeAt kind a false = t.placeAt kind a false := by
        rcases hkind with rfl | ⟨n, rfl⟩ <;> simp only [State.takeAt, hholding, haround, Bool.false_eq_true, if_false]
      rw [heq]
      exact hplace a (le_refl a)
    | some c =>
      rw [takeAt_inside false (by rcases hkind with rfl | ⟨n, rfl⟩ <;> simp) hholding haround,
        if_neg (by rcases hkind with rfl | ⟨n, rfl⟩ <;> nofun)]
      obtain ⟨d, hd, -⟩ := h.entryAt_end
      unfold State.landAt
      cases hroll : t.rollAt a with
      | some roll => rcases hkind with rfl | ⟨n, rfl⟩ <;> exact hplace a (le_refl a)
      | none =>
        simp only [hd, Option.isSome_some, if_true]
        exact hplace c (segmentAround_lt haround).le

theorem endsInside_iff {q : CutRequest} : endsInside b a q = true ↔
    JoinsEnd q.kind ∧ ∃ y, q.coordinate = some y ∧ b < y ∧ y ≤ a := by
  unfold endsInside JoinsEnd
  cases q.coordinate <;> cases q.kind <;> simp

/-- The merge of a request that waited for room inside. -/
theorem mergeRequest_closing {q : CutRequest} (hq : endsInside b a q = true) (h : Closing b a r t) (hr : r.spliceAfter = true)
    (hcleared : Cleared x t.cut.plan) (hxa : x < a) :
    Closing b a r (t.mergeRequest b a q) ∧ Cleared x (t.mergeRequest b a q).cut.plan := by
  obtain ⟨hkind, y, hcoordinate, hby, hya⟩ := endsInside_iff.mp hq
  have hstop : ((t.cut.segments.find? (fun g => decide (g.start = b))).getD { start := b, tail := a, stop := some a }).stop
      = some a := by
    cases hfind : t.cut.segments.find? (fun g => decide (g.start = b)) with
    | none => rfl
    | some g => exact h.stops g (List.mem_of_find?_eq_some hfind) (by simpa using List.find?_some hfind)
  have heq : t.mergeRequest b a q = if t.holding q.kind y then t.takeAt q.kind y false
      else if b < y ∧ y < a then t.placeAt q.kind a false else t.takeAt q.kind y false := by
    obtain ⟨kind, coordinate⟩ := q
    obtain rfl : coordinate = some y := hcoordinate
    unfold State.mergeRequest
    dsimp only
    rw [hstop]
    rcases hkind with hk | ⟨n, hk⟩ <;> obtain rfl := hk <;> exact rfl
  rw [heq]
  split
  next hholding =>
    rw [takeAt_held hholding]
    exact ⟨h.congr rfl rfl, hcleared⟩
  next =>
    split
    next => exact placeAt_closing hkind h hr hcleared hxa (le_refl a) false
    next hout =>
      have hend : y = a := le_antisymm hya (not_lt.mp fun hlt => hout ⟨hby, hlt⟩)
      rw [hend]
      exact takeAt_end hkind h hr hcleared hxa

end

/-! ## The whole close -/

theorem foldl_keeps {α : Type} {P : State → Prop} {f : State → α → State} {l : List α}
    (h : ∀ t, ∀ q ∈ l, P t → P (f t q)) {s : State} (hs : P s) : P (l.foldl f s) := by
  induction l generalizing s with
  | nil => exact hs
  | cons q l ih =>
    exact ih (fun t p hp => h t p (List.mem_cons_of_mem _ hp)) (h s q List.mem_cons_self hs)

/-- The merge of all places in turn, the one of `x` among them. -/
theorem mergeEntries_spec {b a : Int} {r : Reasons} {e : PlanEntry} {ys : List Int} (hys : ∀ y ∈ ys, b < y) (hx : e.x ∈ ys)
    (hr : r.spliceAfter = true) (hba : b < a) (hxa : e.x < a) {s : State} (h : Closing b a r s) (hno : NoBefore b s.cut.plan)
    (hmerging : Merging a e s.cut.plan) :
    let t := ys.foldl (fun s y => s.mergeEntry b a y) s
    Closing b a r t ∧ t.cut.held = s.cut.held ∧ Settled a e.x e t.cut.plan := by
  intro t
  have hheld : Closing b a r t ∧ NoBefore b t.cut.plan ∧ t.cut.held = s.cut.held := by
    refine foldl_keeps (P := fun u => Closing b a r u ∧ NoBefore b u.cut.plan ∧ u.cut.held = s.cut.held) ?_ ⟨h, hno, rfl⟩
    rintro u y hy ⟨hclosing, hno, hheld⟩
    obtain ⟨hclosing', hno'⟩ := mergeEntry_closing hclosing hr hno hba (hys y hy)
    obtain ⟨-, hsame, -⟩ := mergeEntry_cut hclosing hr hno (hys y hy)
    exact ⟨hclosing', hno', hsame.trans hheld⟩
  refine ⟨hheld.1, hheld.2.2, ?_⟩
  clear hheld
  dsimp only [t]
  obtain ⟨before, after, rfl⟩ := List.append_of_mem hx
  rw [List.foldl_append, List.foldl_cons]
  have hall (l : List Int) (hl : ∀ y ∈ l, b < y) {u : State}
      (hu : Closing b a r u ∧ NoBefore b u.cut.plan ∧ Merging a e u.cut.plan) :
      Closing b a r (l.foldl (fun s y => s.mergeEntry b a y) u)
        ∧ NoBefore b (l.foldl (fun s y => s.mergeEntry b a y) u).cut.plan
        ∧ Merging a e (l.foldl (fun s y => s.mergeEntry b a y) u).cut.plan := by
    refine foldl_keeps (P := fun u => Closing b a r u ∧ NoBefore b u.cut.plan ∧ Merging a e u.cut.plan) ?_ hu
    rintro t y hy ⟨hclosing, hno, hmerging⟩
    obtain ⟨hclosing', hno'⟩ := mergeEntry_closing hclosing hr hno hba (hl y hy)
    exact ⟨hclosing', hno', (mergeEntry_merging hclosing hr hno hba (hl y hy) hxa hmerging).1⟩
  obtain ⟨hclosing, hno, hmerging⟩ := hall before (fun y hy => hys y (List.mem_append_left _ hy)) ⟨h, hno, hmerging⟩
  have hbx : b < e.x := hys _ hx
  obtain ⟨hclosing', hno'⟩ := mergeEntry_closing hclosing hr hno hba hbx
  have hsettled := (mergeEntry_merging hclosing hr hno hba hbx hxa hmerging).2 rfl
  refine (foldl_keeps (P := fun u => Settled a e.x e u.cut.plan ∧ Closing b a r u ∧ NoBefore b u.cut.plan) ?_
    ⟨hsettled, hclosing', hno'⟩).1
  rintro t y hy ⟨hsettled, hclosing, hno⟩
  have hby : b < y := hys y (List.mem_append_right _ (List.mem_cons_of_mem _ hy))
  obtain ⟨hclosing', hno'⟩ := mergeEntry_closing hclosing hr hno hba hby
  exact ⟨mergeEntry_settled hclosing hr hno hba hby hxa hsettled, hclosing', hno'⟩

theorem entry_unique {plan : List PlanEntry} (h : Ordered plan) {p q : PlanEntry} (hp : p ∈ plan) (hq : q ∈ plan)
    (hx : p.x = q.x) : p = q := by
  induction plan with
  | nil => cases hp
  | cons e plan ih =>
    obtain ⟨hbeyond, hplan⟩ := List.pairwise_cons.mp h
    rcases List.mem_cons.mp hp with rfl | hp' <;> rcases List.mem_cons.mp hq with rfl | hq'
    · rfl
    · exact absurd hx (ne_of_lt (hbeyond q hq'))
    · exact absurd hx.symm (ne_of_lt (hbeyond p hp'))
    · exact ih hplan hp' hq'

/-- What the close leaves at its end and at a place inside. -/
theorem finishClose_spec (s : State) (b a : Int) {e f : PlanEntry} (hordered : Ordered s.cut.plan)
    (he : s.entryAt e.x = some e) (hf : s.entryAt a = some f) (hbx : b < e.x) (hxa : e.x < a)
    (hafter : f.reasons.spliceAfter = true) (hheld : s.cut.held = []) (hno : NoBefore b s.cut.plan) :
    Closing b a (f.reasons.union (movedReasons a e)) (s.finishClose b a) ∧ Cleared e.x (s.finishClose b a).cut.plan := by
  have hr : (f.reasons.union (movedReasons a e)).spliceAfter = true := by simp [Reasons.union, hafter]
  obtain ⟨hemem, -⟩ := entryAt_mem he
  obtain ⟨hfmem, hfx⟩ := entryAt_mem hf
  unfold State.finishClose
  extract_lets joining t inside t' merged held last
  have hplan : t'.cut.plan = s.cut.plan ∧ t'.cut.held = s.cut.held
      ∧ ∀ g ∈ t'.cut.segments, g.start = b → g.stop = some a := by
    have ht : ∀ g ∈ t.cut.segments, g.start = b → g.stop = some a := by
      intro g hg hstart
      obtain ⟨q, -, rfl⟩ := List.mem_map.mp hg
      by_cases hqb : q.start = b
      · rw [if_pos hqb]
      · rw [if_neg hqb] at hstart
        exact absurd hstart hqb
    dsimp only [t']
    split
    · exact ⟨rfl, rfl, ht⟩
    · exact ⟨rfl, rfl, ht⟩
  obtain ⟨hplan, hheld', hstops⟩ := hplan
  have hclosing : Closing b a f.reasons t' := by
    refine ⟨hstops, ⟨f, by rw [hplan]; exact hfmem, hfx⟩, fun q hq hx => ?_⟩
    rw [hplan] at hq
    rw [entry_unique hordered hq hfmem (hx.trans hfx.symm)]
    exact absorbs_self _
  have hmerging : Merging a e t'.cut.plan := by
    rw [hplan]
    have halone : ∀ q ∈ s.cut.plan, q.x = e.x → q = e := fun q hq hx => entry_unique hordered hq hemem hx
    cases hsome : e.reasons.isEmpty with
    | false => exact .inl ⟨hemem, hsome, halone⟩
    | true =>
      have hnone : e.reasons = Reasons.none := by simpa [Reasons.isEmpty] using hsome
      refine .inr ⟨fun q hq hx => ?_, fun q hq hx => ?_⟩
      · rw [halone q hq hx, hnone]
        exact ⟨rfl, rfl, rfl⟩
      · have hmoved : movedReasons a e = Reasons.none := by simp [movedReasons, hnone, Reasons.none]
        rw [hmoved]
        exact union_none _
  have hmerge : Closing b a f.reasons merged ∧ merged.cut.held = t'.cut.held ∧ Settled a e.x e merged.cut.plan :=
    mergeEntries_spec (ys := (t'.cut.plan.map PlanEntry.x).filter (fun x => decide (b < x)))
      (fun y hy => by simpa using (List.mem_filter.mp hy).2)
      (List.mem_filter.mpr ⟨List.mem_map_of_mem (by rw [hplan]; exact hemem), decide_eq_true hbx⟩)
      hafter (hbx.trans hxa) hxa hclosing (by rw [hplan]; exact hno) hmerging
  obtain ⟨hmerged, hheldThen, hcleared, hcarried⟩ := hmerge
  have hboth : Closing b a (f.reasons.union (movedReasons a e)) last := by
    exact ⟨hmerged.stops, hmerged.stands, fun q hq hx => (hmerged.carries q hq hx).both (hcarried q hq hx)⟩
  have hheldIn : ∀ q ∈ held, endsInside b a q = true := by
    intro q hq
    have hmem : q ∈ joining ++ merged.cut.held :=
      (sortBy_perm (fun q : CutRequest => q.coordinate.getD 0) (joining ++ merged.cut.held)).mem_iff.mp hq
    rw [hheldThen, hheld', hheld, List.append_nil] at hmem
    exact (List.mem_filter.mp hmem).2
  have hclearedLast : Cleared e.x last.cut.plan := hcleared
  clear_value held last
  exact foldl_keeps (P := fun u => Closing b a (f.reasons.union (movedReasons a e)) u ∧ Cleared e.x u.cut.plan)
    (fun u q hq h => mergeRequest_closing (hheldIn q hq) h.1 hr h.2 hxa) ⟨hboth, hclearedLast⟩

end Sys2Proof.Proofs.ClosingSegment
end

section
/-! PROOFS. An order's end (R132, R133): what the order unit does with the planner's report of it. -/

namespace Sys2Proof.Proofs.OrderEnds
open Sys2Proof.Machine Sys2Proof.Proofs.FaultFacts Sys2Proof.Proofs.Lookups Sys2Proof.Proofs.MemoryFacts
open Sys2Proof.Proofs.PlannerFacts Sys2Proof.Proofs.ImageAndConfig Sys2Proof.Proofs.OrderUnit Sys2Proof.Proofs.FaultList
open Sys2Proof.Proofs.PlanPlacing Sys2Proof.Proofs.ClosingSegment

/-! ## The queue and the head of a flying changeover -/

theorem mem_orderQueue {s : State} {m : Nat} : m ∈ s.orderQueue ↔ m < 8 ∧ (s.order m).st = .taken :=
  (sortBy_perm _ _).mem_iff.trans (by simp)

theorem lt_length_of_taken {s : State} {m : Nat} (h : (s.order m).st = .taken) : m < s.ord.orders.length := by
  by_contra hlen
  rw [State.order, List.getD_eq_default _ _ (not_lt.mp hlen)] at h
  cases h

theorem flyingHead_taken {s : State} {n m : Nat} (h : s.flyingHead n = some m) : m < 8 ∧ (s.order m).st = .taken := by
  unfold State.flyingHead at h
  split at h
  next k rest hqueue =>
    obtain rfl : k = m := by
      split at h
      · exact Option.some.inj h
      · cases h
    exact mem_orderQueue.mp (by rw [hqueue]; exact List.mem_cons_self)
  next => cases h

theorem flyingHead_congr {s t : State} (hst : ∀ k, (t.order k).st = (s.order k).st) (hbody : ∀ k, t.body k = s.body k) (n : Nat) :
    t.flyingHead n = s.flyingHead n := by
  have hqueue : t.orderQueue = s.orderQueue := by
    simp only [State.orderQueue, hst, hbody]
  simp only [State.flyingHead, hqueue, hbody]

theorem spanStart_body {s t : State} (hbody : ∀ k, t.body k = s.body k) (hset : t.settings = s.settings) (u : UnitRec) :
    t.spanStart u = s.spanStart u := by
  simp only [State.spanStart, State.phaseF, State.feP, setting_congr hset, hbody]

/-! ## E is fixed -/

/-- E of order `n` is fixed at `x`, and stands in the slot; the changeover is still to be decided. -/
structure EndFixed (s v : State) (n : Nat) (x : Int) : Prop where
  other : ∀ k, k ≠ n → v.order k = s.order k
  same : ∃ c, v.order n = { s.order n with endAt := some x, e := some x, changeover := c }
  length : v.ord.orders.length = s.ord.orders.length
  active : v.ord.active = s.ord.active
  track : v.track = s.track
  cut : v.cut = s.cut
  settings : v.settings = s.settings
  bytes : v.readBytes (orderSlotAddr n + 0x7A) 6 = intBytes 6 x

namespace EndFixed
variable {s v : State} {n : Nat} {x : Int}

theorem body (h : EndFixed s v n x) (k : Nat) : v.body k = s.body k := by
  by_cases hk : k = n
  · obtain ⟨c, hc⟩ := h.same
    rw [hk, State.body, hc]
    rfl
  · rw [State.body, h.other k hk]
    rfl

theorem st (h : EndFixed s v n x) (k : Nat) : (v.order k).st = (s.order k).st := by
  by_cases hk : k = n
  · obtain ⟨c, hc⟩ := h.same
    rw [hk, hc]
  · rw [h.other k hk]

theorem flyingHead (h : EndFixed s v n x) : v.flyingHead n = s.flyingHead n := flyingHead_congr h.st h.body n

theorem spanStart (h : EndFixed s v n x) (u : UnitRec) : v.spanStart u = s.spanStart u := spanStart_body h.body h.settings u

theorem changeover (h : EndFixed s v n x) (hn : n < s.ord.orders.length) (c : Changeover) :
    EndFixed s (v.setOrder n (fun o => { o with changeover := c })) n x
      ∧ (v.setOrder n (fun o => { o with changeover := c })).order n
        = { s.order n with endAt := some x, e := some x, changeover := c } := by
  obtain ⟨d, hd⟩ := h.same
  have hord : (v.setOrder n (fun o => { o with changeover := c })).order n
      = { s.order n with endAt := some x, e := some x, changeover := c } := by
    rw [order_setOrder_same v _ (by rw [h.length]; exact hn), hd]
  exact ⟨⟨fun k hk => (order_setOrder_ne v _ hk).trans (h.other k hk), ⟨c, hord⟩, by simpa using h.length, h.active, h.track,
    h.cut, h.settings, h.bytes⟩, hord⟩

end EndFixed

/-- The state in which the changeover is decided. -/
def endFixed (s : State) (n : Nat) (x : Int) : State :=
  ((s.setOrder n (fun o => { o with endAt := some x })).setOrder n (fun o => { o with e := some x })).partStore
    (orderSlotAddr n + 0x7A) (intBytes 6 x)

theorem endFixed_spec (s : State) {n : Nat} (hn : n < 8) (hlen : n < s.ord.orders.length) (x : Int) :
    EndFixed s (endFixed s n x) n x := by
  have hfits := orderSlot_fits hn
  have hord (k : Nat) : (endFixed s n x).order k
      = ((s.setOrder n (fun o => { o with endAt := some x })).setOrder n (fun o => { o with e := some x })).order k :=
    order_congr (partStore_ord _ _ _) k
  refine ⟨fun k hk => ?_, ⟨(s.order n).changeover, ?_⟩, ?_, ?_, ?_, ?_, ?_, ?_⟩
  · rw [hord, order_setOrder_ne _ _ hk, order_setOrder_ne _ _ hk]
  · rw [hord, order_setOrder_same _ _ (by simpa using hlen), order_setOrder_same _ _ hlen]
  · rw [endFixed, partStore_ord]
    simp
  · rw [endFixed, partStore_ord]
    rfl
  · rw [endFixed, partStore_eq]
    rfl
  · rw [endFixed, partStore_eq]
    rfl
  · rw [endFixed, partStore_eq]
    rfl
  · have hsame := readBytes_partStore_same
      ((s.setOrder n (fun o => { o with endAt := some x })).setOrder n (fun o => { o with e := some x }))
      (a := orderSlotAddr n + 0x7A) (bs := intBytes 6 x)
      (partRange_orderSlot hn (by decide) (by rw [intBytes_length])) (by rw [intBytes_length]; unfold memSize; omega)
    rwa [intBytes_length] at hsame

/-- The first report of an end. -/
theorem takeReport_first {s : State} {n : Nat} {x : Int} (hlen : n < s.ord.orders.length) (he : (s.order n).e = none)
    (hv : EndFixed s (endFixed s n x) n x) : s.takeReport (.orderEnd n x false)
      = match s.flyingHead n with
        | some _ => ((endFixed s n x).setOrder n (fun o => { o with changeover := .flying })).tryFly n
        | none => (endFixed s n x).becomeStopped n := by
  have hnone : ((s.setOrder n (fun o => { o with endAt := some x })).order n).e.isNone = true := by
    rw [order_setOrder_same s _ hlen]
    exact Option.isNone_iff_eq_none.mpr he
  have hfix : s.takeReport (.orderEnd n x false)
      = (s.setOrder n (fun o => { o with endAt := some x })).fixEnd n x := by
    unfold State.takeReport
    dsimp only
    rw [hnone]
    rfl
  have hdecide : (s.setOrder n (fun o => { o with endAt := some x })).fixEnd n x
      = match (endFixed s n x).flyingHead n with
        | some _ => ((endFixed s n x).setOrder n (fun o => { o with changeover := .flying })).tryFly n
        | none => (endFixed s n x).becomeStopped n := rfl
  rw [hfix, hdecide, hv.flyingHead]

/-- A later report leaves E. -/
theorem takeReport_later {s : State} {n : Nat} {x e : Int} (he : (s.order n).e = some e) :
    s.takeReport (.orderEnd n x false) = s.setOrder n (fun o => { o with endAt := some x }) := by
  have hsome : ((s.setOrder n (fun o => { o with endAt := some x })).order n).e.isNone = false := by
    by_cases hlen : n < s.ord.orders.length
    · rw [order_setOrder_same s _ hlen]
      exact congrArg Option.isNone he
    · rw [State.order, List.getD_eq_default _ _ (not_lt.mp hlen)] at he
      cases he
  unfold State.takeReport
  dsimp only
  rw [hsome]
  rfl

/-! ## A stopped changeover -/

theorem becomeStopped_spec {s v : State} {n : Nat} {x : Int} (h : EndFixed s v n x) (hlen : n < s.ord.orders.length) :
    let t := v.becomeStopped n
    EndFixed s { t with track := s.track } n x ∧ (t.order n).changeover = .stopped ∧ t.ord.waste = true
      ∧ t.track = { s.track with units := s.track.units.map (fun u =>
          if u.order = n ∧ (∀ b, s.spanStart u = some b → x ≤ b) then
            { u with flags := { u.flags with changeover := true } } else u) } := by
  intro t
  obtain ⟨c, hc⟩ := h.same
  obtain ⟨hfixed, hord⟩ := h.changeover hlen .stopped
  have horder (k : Nat) : t.order k = (v.setOrder n (fun o => { o with changeover := .stopped })).order k := rfl
  refine ⟨⟨fun k hk => (horder k).trans (hfixed.other k hk), ⟨.stopped, (horder n).trans hord⟩, hfixed.length, hfixed.active, rfl,
    hfixed.cut, hfixed.settings, hfixed.bytes⟩, by rw [horder, hord], rfl, ?_⟩
  have htrack : t.track = { v.track with units := t.track.units } := rfl
  have hunits : t.track.units = v.track.units.map (fun u => if u.order = n ∧ (match u.g, (v.order n).e with
      | some g, some e => decide (e ≤ g + v.phaseF (v.body n))
      | none, _ => true
      | _, none => false) = true then { u with flags := { u.flags with changeover := true } } else u) := rfl
  have hchanged : t.track.units = s.track.units.map (fun u => if u.order = n ∧ (∀ b, s.spanStart u = some b → x ≤ b) then
      { u with flags := { u.flags with changeover := true } } else u) := by
    rw [hunits, h.track, hc]
    refine List.map_congr_left fun u _ => ?_
    refine ite_congr (propext (and_congr_right fun hu => ?_)) (fun _ => rfl) (fun _ => rfl)
    rw [← h.spanStart, State.spanStart, hu]
    cases u.g with
    | none => simp
    | some g => simp
  rw [htrack, hchanged, h.track]

/-! ## A flying changeover -/

section
variable {n m : Nat} {c : Int}

theorem reassign_length (k : Nat) (l : List UnitRec) : (reassign n m c k l).length = l.length := by
  induction l generalizing k with
  | nil => rfl
  | cons u l ih =>
    rw [reassign]
    split <;> simp [ih]

/-- Each record goes to the new order with a number of its own, or stays. -/
theorem getElem?_reassign {l : List UnitRec} {w : UnitRec} {i : Nat} (h : l[i]? = some w) (k : Nat) :
    ∃ v, (reassign n m c k l)[i]? = some v ∧ (w.order = n ∧ c ≤ w.c → v = { w with order := m, number := v.number })
      ∧ (w.order ≠ n ∨ w.c < c → v = w) := by
  induction l generalizing k i with
  | nil => cases h
  | cons u l ih =>
    rw [reassign]
    cases i with
    | zero =>
      obtain rfl : u = w := by simpa using h
      split
      next hgoes => exact ⟨_, rfl, fun _ => rfl, fun hstays => by omega⟩
      next hstays => exact ⟨_, rfl, fun hgoes => absurd hgoes hstays, fun _ => rfl⟩
    | succ i =>
      rw [List.getElem?_cons_succ] at h
      split
      · simpa using ih h _
      · simpa using ih h _

/-- Records before `c` stay, and the record at `c` takes the first number. -/
theorem reassign_first {before after : List UnitRec} {u : UnitRec} (hu : u.order = n) (hbefore : ∀ v ∈ before, v.c < u.c)
    (k : Nat) : reassign n m u.c k (before ++ u :: after)
      = before ++ { u with order := m, number := k } :: reassign n m u.c (nextCyclic 65535 k) after := by
  induction before with
  | nil =>
    rw [List.nil_append, reassign, if_pos ⟨hu, le_refl _⟩]
    rfl
  | cons v before ih =>
    have hv := hbefore v List.mem_cons_self
    rw [List.cons_append, reassign, if_neg (by omega), ih fun w hw => hbefore w (List.mem_cons_of_mem _ hw)]
    rfl

end

/-- The activation of an order whose record is there changes slot and record of that order alone. -/
theorem activate_elsewhere (s : State) {m : Nat} (hm : m < 8) (hlen : m < s.ord.orders.length) :
    let t := s.activate m
    t.ord.active = some m ∧ (t.order m).st = .active ∧ (∀ k, k ≠ m → t.order k = s.order k)
      ∧ t.ord.orders.length = s.ord.orders.length ∧ t.track.units = s.track.units ∧ t.cut = s.cut
      ∧ (∀ n j, n < 8 → n ≠ m → j < 128 → t.readByte (orderSlotAddr n + j) = s.readByte (orderSlotAddr n + j))
      ∧ (∀ i, s.port.notice.getLsbD i = true → t.port.notice.getLsbD i = true) := by
  intro t
  have htold := told_activate s m
  obtain ⟨hactive, hst, -, -, -, -, -, -, -, hother, hunits⟩ := activated_spec s hm hlen
  generalize hf : (fun o : OrderRec => { o with
    produced := 0, currentRoll := 1, nextUnit := 1, lastRoll := 0, hasUnits := false, s0 := none, s1 := none, e := none,
    endAt := none, changeover := .undecided }) = f
  obtain ⟨v, hv⟩ : ∃ v, v = ((s.setOrder m f).writeOrderCounts m).setOrderState m .active := ⟨_, rfl⟩
  have hu : activated s m = { v with
      ord := { v.ord with active := some m }, track := { v.track with lastNominal := (v.body m).nominal } } := by
    rw [hv, ← hf]
    rfl
  have hcounts : ((s.setOrder m f).writeOrderCounts m).ord = (s.setOrder m f).ord := partStore_ord _ _ _
  have hlength : (activated s m).ord.orders.length = s.ord.orders.length := by
    have hvord : v.ord.orders.length = s.ord.orders.length := by
      rw [hv, setOrderState_ord]
      exact (length_modifyAt _ _ _).trans ((congrArg (fun o => o.orders.length) hcounts).trans (length_modifyAt _ _ _))
    rw [hu]
    exact hvord
  have hcut : (activated s m).cut = s.cut := by
    have hvcut : v.cut = s.cut := by
      rw [hv, setOrderState_frame, State.writeOrderCounts, partStore_eq]
      rfl
    rw [hu]
    exact hvcut
  refine ⟨htold.active.trans hactive, by rw [htold.order]; exact hst, fun k hk => (htold.order k).trans (hother k hk),
    by rw [htold.orders]; exact hlength, htold.units.trans hunits, htold.cut.trans hcut, fun n j hn hne hj => ?_,
    fun i hi => htold.notice i ?_⟩
  · have hfits := orderSlot_fits hn
    have haway : orderSlotAddr n + 128 ≤ orderSlotAddr m ∨ orderSlotAddr m + 128 ≤ orderSlotAddr n := by
      unfold orderSlotAddr
      omega
    have hvz : v.readByte (orderSlotAddr n + j) = s.readByte (orderSlotAddr n + j) := by
      rw [hv, readByte_setOrderState _ _ hm (by rw [hcounts]; simpa using hlen) (by omega), if_neg (by omega),
        writeOrderCounts_outside _ (by omega)]
      rfl
    rw [htold.readByte_slot hn hj, readByte_of_mem (s := v) (by rw [hu])]
    exact hvz
  · rw [hu, hv]
    exact (steady_setOrderState _ m .active).notice i (by rw [State.writeOrderCounts, partStore_port]; exact hi)

/-- The unit at which the order flies: the first PENDING one at or beyond E. -/
theorem findSome?_first {before after : List UnitRec} {u : UnitRec} {α : Type} {f : UnitRec → Option α} {a : α}
    (hbefore : ∀ v ∈ before, f v = none) (hu : f u = some a) : (before ++ u :: after).findSome? f = some a := by
  rw [List.findSome?_append, List.findSome?_eq_none_iff.mpr hbefore, List.findSome?_cons, hu]
  rfl

/-- Whether a flying order's changeover happens at a unit, with the unit's span start. -/
def fliesAt (s : State) (n : Nat) (x : Int) (u : UnitRec) : Option (UnitRec × Int) :=
  if u.order = n ∧ u.verdict = .waiting then
    match s.spanStart u with
    | some b => if x ≤ b then some (u, b) else none
    | none => none
  else none

theorem fliesAt_none {s : State} {n : Nat} {x : Int} {u : UnitRec}
    (h : u.order = n → u.verdict = .waiting → ∀ b, s.spanStart u = some b → b < x) : fliesAt s n x u = none := by
  unfold fliesAt
  split
  next hu =>
    cases hspan : s.spanStart u with
    | none => rfl
    | some b => exact if_neg (not_le.mpr (h hu.1 hu.2 b hspan))
  next => rfl

theorem tryFly_flying {s : State} {n : Nat} {x : Int} (hst : (s.order n).st = .ending) (he : (s.order n).e = some x)
    (hflying : (s.order n).changeover = .flying) : s.tryFly n = match s.track.units.findSome? (fliesAt s n x) with
      | none => s
      | some (u, b) =>
        match s.flyingHead n with
        | some m => s.flyAt n m u b
        | none => s.becomeStopped n := by
  unfold State.tryFly
  rw [if_neg (by rw [hst, hflying]; simp), he]
  exact rfl

/-- The state after a flying changeover at `b`, the span start of the unit at `c`, with the order `m` activated in `w`. -/
def flown (w : State) (n m : Nat) (c b : Int) (moved : List UnitRec) (second : Option Int) : State :=
  let y := State.setOrder { w with track := { w.track with units := reassign n m c 1 w.track.units } } m (fun o => { o with
    nextUnit := nextCyclic 65535 moved.length, hasUnits := true, s0 := some b, s1 := second })
  State.countReassigned { y with ord := { y.ord with waste := false } } m moved

theorem flyAt_eq (v : State) (n m : Nat) (u : UnitRec) (b : Int) : ∃ second, v.flyAt n m u b
    = if ((v.order n).e.getD b) < b then
        (flown ((v.setOrder n (fun o => { o with changeover := .flown })).activate m) n m u.c b
          (v.track.units.filter (fun w => decide (w.order = n) && decide (u.c ≤ w.c))) second).request .changeover (some b)
      else flown ((v.setOrder n (fun o => { o with changeover := .flown })).activate m) n m u.c b
        (v.track.units.filter (fun w => decide (w.order = n) && decide (u.c ≤ w.c))) second := ⟨_, rfl⟩

theorem flyAt_spec {s v : State} {n m : Nat} {x : Int} (h : EndFixed s v n x) (hlen : n < s.ord.orders.length) (hn : n < 8)
    (hm : m < 8) (hmlen : m < s.ord.orders.length) (hne : m ≠ n) (u : UnitRec) (b : Int) :
    let t := v.flyAt n m u b
    (∃ c, t.order n = { s.order n with endAt := some x, e := some x, changeover := c } ∧ c = .flown)
      ∧ t.ord.active = some m ∧ (t.order m).st = .active ∧ (t.order m).s0 = some b ∧ t.ord.waste = false
      ∧ t.track.units = reassign n m u.c 1 s.track.units
      ∧ t.readBytes (orderSlotAddr n + 0x7A) 6 = intBytes 6 x
      ∧ (b = x → t.cut.rollOrder = if (s.track.units.filter (fun w => decide (w.order = n) && decide (u.c ≤ w.c))).any
          (fun w => decide (s.cut.first = some w.c)) then m else s.cut.rollOrder) := by
  intro t
  obtain ⟨hflown, hord⟩ := h.changeover hlen .flown
  obtain ⟨c, hc⟩ := h.same
  obtain ⟨w, hw⟩ : ∃ w, w = (v.setOrder n (fun o => { o with changeover := .flown })).activate m := ⟨_, rfl⟩
  obtain ⟨hactive, hst, hother, hlength, hunits, hcut, hbytes, -⟩ :=
    activate_elsewhere (v.setOrder n (fun o => { o with changeover := .flown })) hm (by rw [hflown.length]; exact hmlen)
  rw [← hw] at hactive hst hother hlength hunits hcut hbytes
  have hmlen' : m < w.ord.orders.length := by rw [hlength, hflown.length]; exact hmlen
  obtain ⟨second, ht⟩ := flyAt_eq v n m u b
  obtain ⟨moved, hmoved⟩ : ∃ l, l = v.track.units.filter (fun w => decide (w.order = n) && decide (u.c ≤ w.c)) := ⟨_, rfl⟩
  rw [← hw, ← hmoved] at ht
  obtain ⟨p, hp⟩ : ∃ p : State, p = { w with track := { w.track with units := reassign n m u.c 1 w.track.units } } := ⟨_, rfl⟩
  obtain ⟨y, hy⟩ : ∃ y, y = p.setOrder m (fun o => { o with
      nextUnit := nextCyclic 65535 moved.length, hasUnits := true, s0 := some b, s1 := second }) := ⟨_, rfl⟩
  obtain ⟨z, hz⟩ : ∃ z, z = flown w n m u.c b moved second := ⟨_, rfl⟩
  rw [← hz] at ht
  have hz : z = State.countReassigned { y with ord := { y.ord with waste := false } } m moved := by
    rw [hz, hy, hp]
    rfl
  have hpord : p.ord = w.ord := by rw [hp]
  have ht : t = if x < b then z.request .changeover (some b) else z := by rw [show t = _ from ht, hc]; rfl
  have hreach : PlanReach z t := by
    rw [ht]
    exact .ite (plan_request _ _ _) (.refl _)
  have hzorder (k : Nat) : z.order k = y.order k := order_of_orders (by rw [hz]; rfl) k
  have hyother (k : Nat) (hk : k ≠ m) : y.order k = w.order k := by
    rw [hy, order_setOrder_ne _ _ hk, order_congr hpord]
  have hysame : (y.order m).st = .active ∧ (y.order m).s0 = some b := by
    rw [hy, order_setOrder_same p _ (by rw [hpord]; exact hmlen'), order_congr hpord]
    exact ⟨hst, rfl⟩
  have htorder (k : Nat) : t.order k = y.order k := (order_of_orders (by rw [hreach.orders]) k).trans (hzorder k)
  have hzord : z.ord.active = some m ∧ z.ord.waste = false := by
    rw [hz, ← hactive, ← hpord, hy]
    exact ⟨rfl, rfl⟩
  have hztrack : z.track.units = reassign n m u.c 1 s.track.units := by
    have : z.track.units = reassign n m u.c 1 w.track.units := by
      rw [hz, hy, hp]
      rfl
    rw [this, hunits, hflown.track]
  refine ⟨⟨.flown, ?_, rfl⟩, by rw [hreach.orders]; exact hzord.1, by rw [htorder]; exact hysame.1, by rw [htorder]; exact hysame.2,
    by rw [hreach.orders]; exact hzord.2, by rw [hreach.track]; exact hztrack, ?_, fun hbx => ?_⟩
  · rw [htorder, hyother n (Ne.symm hne), hother n (Ne.symm hne), hord]
  · have hfits := orderSlot_fits hn
    calc t.readBytes (orderSlotAddr n + 0x7A) 6
        = z.readBytes (orderSlotAddr n + 0x7A) 6 := readBytes_congr fun a ha ha' => hreach.bytes a (by omega)
      _ = w.readBytes (orderSlotAddr n + 0x7A) 6 := readBytes_congr fun a _ _ => readByte_of_mem (by rw [hz, hy, hp]; rfl) a
      _ = (v.setOrder n (fun o => { o with changeover := .flown })).readBytes (orderSlotAddr n + 0x7A) 6 :=
        readBytes_congr fun a ha ha' => by
          have := hbytes n (a - orderSlotAddr n) hn (Ne.symm hne) (by omega)
          rwa [Nat.add_sub_cancel' (by omega)] at this
      _ = intBytes 6 x := hflown.bytes
  · have htz : t = z := ht.trans (if_neg (by rw [hbx]; exact lt_irrefl x))
    have hzcut : z.cut.rollOrder = if moved.any (fun q => decide (w.cut.first = some q.c)) then m else w.cut.rollOrder := by
      rw [hz, hy, hp]
      rfl
    rw [htz, hzcut, hcut, hflown.cut, hmoved, h.track]

theorem tryFly_cases {s : State} {n m : Nat} (hhead : s.flyingHead n = some m) :
    s.tryFly n = s ∨ (s.order n).st = .ending ∧ ∃ u b, s.tryFly n = s.flyAt n m u b := by
  by_cases hflies : (s.order n).changeover ≠ .flying ∨ (s.order n).st ≠ .ending
  · exact .inl (if_pos hflies)
  · obtain ⟨hflying, hst⟩ := not_or.mp hflies
    cases he : (s.order n).e with
    | none =>
      left
      unfold State.tryFly
      rw [if_neg hflies, he]
    | some e =>
      rw [tryFly_flying (not_not.mp hst) he (not_not.mp hflying), hhead]
      cases s.track.units.findSome? (fliesAt s n e) with
      | none => exact .inl rfl
      | some ub => exact .inr ⟨not_not.mp hst, ub.1, ub.2, rfl⟩

theorem ne_of_taken {s : State} {n m : Nat} (hm : (s.order m).st = .taken) (hn : (s.order n).st = .ending) : m ≠ n := by
  rintro rfl
  rw [hm] at hn
  cases hn

/-- The order unit's part of the obligation: the first report of an end (R132, R133). -/
theorem firstReport_spec (s : State) (n : Nat) (x : Int) (hn : n < 8) (hlen : n < s.ord.orders.length)
    (he : (s.order n).e = none) :
    let t := s.takeReport (.orderEnd n x false)
    (t.order n).e = some x ∧ (t.order n).endAt = some x ∧ t.readBytes (0x047A + 128 * n) 6 = intBytes 6 x
    ∧ (s.flyingHead n = none → (t.order n).changeover = .stopped ∧ t.ord.waste = true ∧ t.ord.active = s.ord.active
        ∧ t.track = { s.track with units := s.track.units.map (fun u =>
            if u.order = n ∧ (∀ b, s.spanStart u = some b → x ≤ b) then
              { u with flags := { u.flags with changeover := true } } else u) })
    ∧ (∀ m, s.flyingHead n = some m → (s.order n).st = .ending →
        ((∀ u ∈ s.track.units, u.order = n → u.verdict = .waiting → ∀ b, s.spanStart u = some b → b < x) →
          (t.order n).changeover = .flying ∧ t.track = s.track ∧ t.ord.active = s.ord.active)
        ∧ (∀ before u after b, s.track.units = before ++ u :: after →
            (s.track.units.map UnitRec.c).Pairwise (fun p q => p < q) →
            (∀ v ∈ before, v.order = n → v.verdict = .waiting → ∀ d, s.spanStart v = some d → d < x) →
            u.order = n → u.verdict = .waiting → s.spanStart u = some b → x ≤ b →
            (t.order n).changeover = .flown ∧ t.ord.active = some m ∧ (t.order m).st = .active
            ∧ (t.order m).s0 = some b ∧ t.ord.waste = false ∧ t.track.units.length = s.track.units.length
            ∧ (∃ v, t.unit? u.c = some v ∧ v.order = m ∧ v.number = 1)
            ∧ (b = x → ∀ w ∈ s.track.units, w.order = n → u.c ≤ w.c → s.cut.first = some w.c → t.cut.rollOrder = m)
            ∧ (∀ (k : Nat) (w : UnitRec), s.track.units[k]? = some w → ∃ v, t.track.units[k]? = some v
                ∧ (w.order = n ∧ u.c ≤ w.c → v = { w with order := m, number := v.number })
                ∧ (w.order ≠ n ∨ w.c < u.c → v = w)))) := by
  intro t
  have hv := endFixed_spec s hn hlen x
  have ht : t = _ := takeReport_first hlen he hv
  obtain ⟨hflying, hflyingOrder⟩ := hv.changeover hlen .flying
  obtain ⟨f, hf⟩ : ∃ f, f = (endFixed s n x).setOrder n (fun o => { o with changeover := .flying }) := ⟨_, rfl⟩
  rw [← hf] at hflying hflyingOrder
  have haddr : 0x047A + 128 * n = orderSlotAddr n + 0x7A := by unfold orderSlotAddr; omega
  rw [haddr]
  cases hhead : s.flyingHead n with
  | none =>
    rw [hhead] at ht
    have htStopped : t = (endFixed s n x).becomeStopped n := ht
    obtain ⟨hfixed, hstopped, hwaste, htrack⟩ := becomeStopped_spec hv hlen
    rw [← htStopped] at hfixed hstopped hwaste htrack
    obtain ⟨c, hc⟩ := hfixed.same
    have hord : t.order n = { s.order n with endAt := some x, e := some x, changeover := c } := hc
    exact ⟨by rw [hord], by rw [hord], hfixed.bytes, fun _ => ⟨hstopped, hwaste, hfixed.active, htrack⟩, nofun⟩
  | some m =>
    obtain ⟨hm, htaken⟩ := flyingHead_taken hhead
    have hmlen := lt_length_of_taken htaken
    rw [hhead] at ht
    have htFly : t = f.tryFly n := ht.trans (by rw [hf])
    have hquiet (hnone : ∀ u ∈ s.track.units, u.order = n → u.verdict = .waiting → ∀ b, s.spanStart u = some b → b < x)
        (hst : (s.order n).st = .ending) : t = f := by
      rw [htFly, tryFly_flying (x := x) (by rw [hflyingOrder]; exact hst) (by rw [hflyingOrder]) (by rw [hflyingOrder]),
        List.findSome?_eq_none_iff.mpr fun u hu => ?_]
      rw [hflying.track] at hu
      exact fliesAt_none fun ho hw b hb => hnone u hu ho hw b (by rwa [← hflying.spanStart])
    have hflies (before : List UnitRec) (u : UnitRec) (after : List UnitRec) (b : Int)
        (hunits : s.track.units = before ++ u :: after)
        (hbefore : ∀ v ∈ before, v.order = n → v.verdict = .waiting → ∀ d, s.spanStart v = some d → d < x)
        (hu : u.order = n) (hwaiting : u.verdict = .waiting) (hspan : s.spanStart u = some b) (hxb : x ≤ b)
        (hst : (s.order n).st = .ending) : t = f.flyAt n m u b := by
      have hfound : f.track.units.findSome? (fliesAt f n x) = some (u, b) := by
        rw [hflying.track, hunits]
        refine findSome?_first (fun v hv => fliesAt_none fun ho hw d hd => hbefore v hv ho hw d ?_) ?_
        · rwa [← hflying.spanStart]
        · rw [fliesAt, if_pos ⟨hu, hwaiting⟩, hflying.spanStart, hspan]
          exact if_pos hxb
      rw [htFly, tryFly_flying (x := x) (by rw [hflyingOrder]; exact hst) (by rw [hflyingOrder]) (by rw [hflyingOrder]), hfound]
      dsimp only
      rw [hflying.flyingHead, hhead]
    have hfly (hst : (s.order n).st = .ending) (u : UnitRec) (b : Int) :=
      flyAt_spec hflying hlen hn hm hmlen (ne_of_taken htaken hst) u b
    have hfixed : (∃ c, t.order n = { s.order n with endAt := some x, e := some x, changeover := c })
        ∧ t.readBytes (orderSlotAddr n + 0x7A) 6 = intBytes 6 x := by
      rw [htFly]
      rcases tryFly_cases (hflying.flyingHead.trans hhead) with h | ⟨hst, u, b, h⟩
      · rw [h]
        exact ⟨hflying.same, hflying.bytes⟩
      · rw [h]
        rw [hflying.st] at hst
        obtain ⟨⟨c, hord, -⟩, -, -, -, -, -, hbytes, -⟩ := hfly hst u b
        exact ⟨⟨c, hord⟩, hbytes⟩
    obtain ⟨⟨c, hord⟩, hbytes⟩ := hfixed
    refine ⟨by rw [hord], by rw [hord], hbytes, nofun, ?_⟩
    rintro m' hm' hst
    obtain rfl : m = m' := Option.some.inj hm'
    refine ⟨fun hnone => ?_, fun before u after b hunits hsorted hbefore hu hwaiting hspan hxb => ?_⟩
    · rw [hquiet hnone hst, hflyingOrder]
      exact ⟨rfl, hflying.track, hflying.active⟩
    · rw [hflies before u after b hunits hbefore hu hwaiting hspan hxb hst]
      obtain ⟨⟨d, hord, hd⟩, hactive, hmst, hs0, hwaste, htrack, -, hroll⟩ := hfly hst u b
      have hearlier : ∀ v ∈ before, v.c < u.c := by
        rw [hunits, List.map_append, List.pairwise_append] at hsorted
        exact fun v hv => hsorted.2.2 v.c (List.mem_map_of_mem hv) u.c (by simp)
      have hfirst := reassign_first (m := m) hu hearlier 1 (after := after)
      refine ⟨by rw [hord, hd], hactive, hmst, hs0, hwaste, by rw [htrack, reassign_length],
        ⟨{ u with order := m, number := 1 }, ?_, rfl, rfl⟩, fun hbx w hw ho hc hcount => ?_, fun k w hw => ?_⟩
      · rw [State.unit?, htrack, hunits, hfirst, List.find?_append, List.find?_eq_none.mpr, List.find?_cons]
        · simp
        · exact fun v hv => by simpa using ne_of_lt (hearlier v hv)
      · rw [hroll hbx]
        refine if_pos (List.any_eq_true.mpr ⟨w, List.mem_filter.mpr ⟨hw, ?_⟩, decide_eq_true hcount⟩)
        rw [decide_eq_true ho, decide_eq_true hc]
        rfl
      · rw [htrack]
        exact getElem?_reassign hw 1

/-- Settles O37: the placing by the rules of R89, a closing segment by the invariant of its merges, the landing inside a closed one,
and the end of an order by the changeover decided for it. -/
theorem requestPlaced : Obligations.RequestPlaced := by
  unfold Obligations.RequestPlaced
  refine ⟨fun s kind x waiting hroll => placeAt_spec s kind x waiting hroll,
    fun s b a x e f hordered he hf hbx hxa hafter hheld hno => ?_,
    fun s kind x a f waiting hkind hholding haround hroll hentry hf hafter =>
      takeAt_lands s kind x a f waiting hkind hholding haround hroll hentry hf hafter,
    fun s n x e he => takeReport_later he, fun s n x hn hlen he => firstReport_spec s n x hn hlen he⟩
  obtain ⟨-, hex⟩ := entryAt_mem he
  subst hex
  obtain ⟨hclosing, hcleared⟩ := finishClose_spec s b a hordered he hf hbx hxa hafter hheld hno
  obtain ⟨d, hd, habsorbs⟩ := hclosing.entryAt_end
  have hin : decide (e.x < a) = true := decide_eq_true hxa
  obtain ⟨htarget, hbatch, hbefore, hafter', hend, hchange⟩ := absorbs_iff.mp habsorbs
  refine ⟨⟨d, hd, ?_, fun h => hend ?_, fun h => hchange ?_⟩, fun d hd => hcleared d (entryAt_mem hd).1 (entryAt_mem hd).2⟩
  · refine absorbs_iff.mpr ⟨fun h => htarget ?_, fun h => hbatch ?_, fun h => hbefore ?_, fun h => hafter' ?_, fun h => hend ?_,
      fun h => hchange ?_⟩ <;> simp only [Reasons.union, h, Bool.true_or]
  · simp [Reasons.union, movedReasons, h, hin]
  · simp [Reasons.union, movedReasons, h, hin]

end Sys2Proof.Proofs.OrderEnds
end

section
/-! PROOFS. CUT DONE and the winder drive's replies (R100, R118, R149, R150), and the orders a cut ends (R134). -/

namespace Sys2Proof.Proofs.CutDone
open Sys2Proof.Machine Sys2Proof.Proofs.FaultFacts Sys2Proof.Proofs.Lookups Sys2Proof.Proofs.MemoryFacts
open Sys2Proof.Proofs.FaultList Sys2Proof.Proofs.WinderCuts Sys2Proof.Proofs.OrderUnit

/-! ## The roll that a CUT DONE closes (R100) -/

/-- The winder after a CUT DONE that closes `r`, whose units start where `starts` says. -/
def rollClosed (s : State) (c : OutstandingCut) (r : Roll) (residual : Int) (before : UnitRec → Bool) : Winder :=
  { s.cutLeft.winder with
    closing := s.winder.closing ++ [{ roll := { r with units := r.units.filter before }, stop := c.x, close := c.reasons,
                                      deferred := c.deferred, removed := false }],
    active := c.receiver, residual := residual,
    roll := some { start := c.x, opening := c.reasons, spindle := c.receiver, units := r.units.filter (fun u => !before u) } }

/-- Whether a unit's span starts before the cut. -/
def startsBefore (s : State) (x : Int) (u : UnitRec) : Bool :=
  match s.spanStart u with
  | some b => decide (b < x)
  | none => true

theorem closeRoll_eq {s : State} {r : Roll} (c : OutstandingCut) (residual : Int) (h : s.winder.roll = some r) :
    s.closeRoll c residual = State.clear { s with winder := rollClosed s c r residual (startsBefore s c.x) } winderStall 0 := by
  unfold State.closeRoll
  extract_lets before old closed late after
  have hclosed : closed = [{ roll := { r with units := r.units.filter before }, stop := c.x, close := c.reasons,
                             deferred := c.deferred, removed := false }] := by
    dsimp only [closed, old]
    rw [h]
    rfl
  have hlate : late = r.units.filter (fun u => !before u) := by
    dsimp only [late, old]
    rw [h]
  dsimp only [after]
  rw [hclosed, hlate]
  exact rfl

theorem startsBefore_of_known {s : State} {u : UnitRec} (x : Int) (h : u.g.isSome = true) : startsBefore s x u
    = decide (u.g.getD 0 + roundHalfAway ((s.body u.order).cutPhase * 100000) s.feP < x) := by
  obtain ⟨g, hg⟩ := Option.isSome_iff_exists.mp h
  rw [startsBefore, State.spanStart, hg]
  rfl

theorem closeRoll_spec (s : State) (c : OutstandingCut) (r : Roll) (residual : Int) (hroll : s.winder.roll = some r)
    (hknown : ∀ u ∈ r.units, u.g.isSome = true) :
    let starts (u : UnitRec) : Int := u.g.getD 0 + roundHalfAway ((s.body u.order).cutPhase * 100000) s.feP
    let t := s.closeRoll c residual
    t.winder.closing = s.winder.closing ++
        [{ roll := { r with units := r.units.filter (fun u => decide (starts u < c.x)) }, stop := c.x, close := c.reasons,
           deferred := c.deferred, removed := false }]
    ∧ t.winder.roll = some { start := c.x, opening := c.reasons, spindle := c.receiver,
                             units := r.units.filter (fun u => decide (c.x ≤ starts u)) }
    ∧ t.winder.out = none ∧ t.winder.active = c.receiver ∧ t.winder.residual = residual ∧ t.winder.st = .winding
    ∧ t.winder.lead = s.winder.lead.map (fun l => { l with fired := l.fired || decide (l.threshold ≤ s.posHF) })
    ∧ t.winder.blocked.clear = true ∧ t.winder.awaitBoundary = false
    ∧ t.faultActive winderStall 0 = false
    ∧ State.faultReach { s with winder := t.winder } t := by
  intro starts t
  have ht : t = _ := closeRoll_eq c residual hroll
  have hreach := reach_clear { s with winder := rollClosed s c r residual (startsBefore s c.x) } winderStall 0
  rw [← ht] at hreach
  have hw : t.winder = rollClosed s c r residual (startsBefore s c.x) := hreach.winder
  have hbefore : r.units.filter (startsBefore s c.x) = r.units.filter (fun u => decide (starts u < c.x)) :=
    List.filter_congr fun u hu => startsBefore_of_known c.x (hknown u hu)
  have hafter : r.units.filter (fun u => !startsBefore s c.x u) = r.units.filter (fun u => decide (c.x ≤ starts u)) :=
    List.filter_congr fun u hu => by
      rw [startsBefore_of_known c.x (hknown u hu), ← decide_not]
      exact decide_eq_decide.mpr not_lt
  rw [hw, rollClosed, hbefore, hafter]
  refine ⟨rfl, rfl, rfl, rfl, rfl, rfl, rfl, rfl, rfl, ?_, ?_⟩
  · rw [ht]
    exact clear_faultActive _ _ _
  · rw [rollClosed, hbefore, hafter] at hreach
    exact hreach

/-! ## The lead event after a cut -/

theorem leadStep_spec (s : State) (l : LeadEvent) (e : PlanEntry) (rest : List PlanEntry) (hplan : s.cut.plan = e :: rest)
    (hlead : s.winder.lead = some l) (hentry : l.entry = e.x) (hst : s.winder.st ≠ .stalled)
    (hawait : s.winder.awaitBoundary = false) :
    (l.fired = true → s.leadStep = some (if s.decideEntry.leadPassed then s.decideEntry.deferEarliest else s.decideEntry))
    ∧ (l.fired = false → s.leadStep = none) := by
  have hundecided : s.leadUndecided = l.fired := by
    rw [State.leadUndecided, hlead, hawait, decide_eq_true hst]
    rfl
  have hsame : s.cut.plan.head?.map PlanEntry.x = s.winder.lead.map LeadEvent.entry := by
    rw [hplan, hlead]
    exact congrArg some hentry.symm
  refine ⟨fun hfired => ?_, fun hfired => ?_⟩
  · have hleft : s.leadEntryLeft = false := by
      rw [State.leadEntryLeft, hlead, hplan]
      simp [hentry]
    have harm : s.armLead = (s, true) := by
      have : s.armLead = (s, s.leadUndecided) := by
        unfold State.armLead
        rw [hplan, hlead]
        exact if_pos (decide_eq_true hentry)
      rw [this, hundecided, hfired]
    unfold State.leadStep
    dsimp only
    rw [if_neg (by rw [hundecided, hfired]; simp), hleft]
    rw [if_neg Bool.false_ne_true, harm]
  · unfold State.leadStep
    exact if_pos ⟨hsame, hundecided.trans hfired⟩

/-! ## The winder drive's reply (R149, R150) -/

theorem unstall_out (s : State) : s.unstall.winder.out = s.winder.out := by
  unfold State.unstall
  split <;> rfl

theorem stall_out (s : State) (b : Blocked) : (s.stall b).winder.out = s.winder.out := by
  rw [(stall_spec s b).1]

/-- While a cut is outstanding a winder that looks at its conditions again leaves it. -/
theorem reassess_out {s : State} (h : s.winder.out.isSome = true) : s.reassess.winder.out = s.winder.out := by
  unfold State.reassess
  split
  · rfl
  · split
    · exact unstall_out s
    · split
      next hclear =>
        obtain ⟨-, -, hnone⟩ := (failing_clear_iff s).mp hclear
        rw [hnone] at h
        cases h
      next => exact stall_out s _

/-- A relation `Kept` leaves the last event numbers. -/
theorem lastEvent_kept {s t : State} (h : Kept s t) {i : Nat} {n : Node} (hn : s.link.nodes[i]? = some n) :
    ∃ m, t.link.nodes[i]? = some m ∧ m.lastEvent = n.lastEvent := by
  have hi : (t.link.nodes.map (fun n => { n with waiting := [] }))[i]? = some { n with waiting := [] } := by
    rw [h.nodes, List.getElem?_map, hn]
    rfl
  rw [List.getElem?_map, Option.map_eq_some_iff] at hi
  obtain ⟨m, hm, hmn⟩ := hi
  exact ⟨m, hm, (congrArg Node.lastEvent hmn :)⟩

/-- What the winder drive's reply brings before its event. -/
def heard (s : State) (l : List Byte) : State :=
  s.winderReported (spindleOf (l.getD 2 0).toNat, spindleOf (l.getD 3 0).toNat)

theorem heard_out (s : State) (l : List Byte) (h : s.winder.out.isSome = true) : (heard s l).winder.out = s.winder.out :=
  reassess_out h

theorem deliver_winder {s : State} {i : Nat} (l : List Byte) (h : s.ownerOf i = some .winder) : s.deliver i l
    = ((heard s l).winderEvent i (l.getD 4 0).toNat (l.getD 5 0).toNat (intOfBytes ((l.drop 6).take 4))).settlePlan := by
  unfold State.deliver
  simp only [h]
  exact rfl

theorem winderEvent_known {t : State} {i event number : Nat} (residual : Int) {n m : Node} (hm : t.link.nodes[i]? = some m)
    (hlast : m.lastEvent = n.lastEvent) (hknown : event = 0 ∨ number = n.lastEvent) :
    t.winderEvent i event number residual = t := by
  simp only [State.winderEvent, hm, hlast, if_pos hknown]

theorem winderEvent_new {t : State} {i event number : Nat} (residual : Int) {n m : Node} (hm : t.link.nodes[i]? = some m)
    (hlast : m.lastEvent = n.lastEvent) (hevent : event ≠ 0) (hnumber : number ≠ n.lastEvent) :
    t.winderEvent i event number residual
      = if event = 1 then (t.setNode i (fun m => { m with lastEvent := number })).cutDone residual
        else if event = 2 then (t.setNode i (fun m => { m with lastEvent := number })).rollRemoved .a
        else if event = 3 then (t.setNode i (fun m => { m with lastEvent := number })).rollRemoved .b
        else t.setNode i (fun m => { m with lastEvent := number }) := by
  have hnew : ¬ (event = 0 ∨ number = n.lastEvent) := not_or.mpr ⟨hevent, hnumber⟩
  simp only [State.winderEvent, hm, hlast, if_neg hnew]

theorem deliver_spec (s : State) (i : Nat) (n : Node) (l : List Byte) (hn : s.link.nodes[i]? = some n)
    (howner : s.ownerOf i = some .winder) :
    let event := (l.getD 4 0).toNat
    let number := (l.getD 5 0).toNat
    let heard := heard s l
    let taken := heard.setNode i (fun m => { m with lastEvent := number })
    (event = 0 ∨ number = n.lastEvent → s.deliver i l = heard.settlePlan)
    ∧ (event ≠ 0 → number ≠ n.lastEvent →
        (∀ c, event = 1 → heard.winder.out = some c →
          let closed := (taken.closeRoll c (intOfBytes ((l.drop 6).take 4))).shadeCutDone
          s.deliver i l = State.settlePlan (State.settlePlan (if c.reasons.orderEnd then closed.endOrders c.x else closed)))
        ∧ (event = 1 → heard.winder.out = none → s.deliver i l = taken.settlePlan)
        ∧ (event = 2 → s.deliver i l = (taken.rollRemoved .a).settlePlan)
        ∧ (event = 3 → s.deliver i l = (taken.rollRemoved .b).settlePlan)
        ∧ (3 < event → s.deliver i l = taken.settlePlan)) := by
  intro event number heard taken
  have hdeliver := deliver_winder l howner
  have hkept : Kept (s.setWinder (fun w => { w with
      spindles := some (spindleOf (l.getD 2 0).toNat, spindleOf (l.getD 3 0).toNat) })) heard := kept_reassess _
  obtain ⟨m, hm, hlast⟩ := lastEvent_kept hkept hn
  refine ⟨fun hknown => ?_, fun hevent hnumber => ?_⟩
  · rw [hdeliver]
    exact congrArg State.settlePlan (winderEvent_known _ hm hlast hknown)
  · have hnew := hdeliver.trans (congrArg State.settlePlan
      (winderEvent_new (intOfBytes ((l.drop 6).take 4)) hm hlast hevent hnumber))
    refine ⟨fun c hcut hout => ?_, fun hcut hout => ?_, fun htwo => ?_, fun hthree => ?_, fun hmore => ?_⟩
    · have hdone : taken.cutDone (intOfBytes ((l.drop 6).take 4))
          = State.settlePlan (if c.reasons.orderEnd then
              ((taken.closeRoll c (intOfBytes ((l.drop 6).take 4))).shadeCutDone).endOrders c.x
            else (taken.closeRoll c (intOfBytes ((l.drop 6).take 4))).shadeCutDone) := by
        have hout' : taken.winder.out = some c := hout
        simp only [State.cutDone, hout']
      exact (hnew.trans (congrArg State.settlePlan (if_pos hcut))).trans (congrArg State.settlePlan hdone)
    · have hdone : taken.cutDone (intOfBytes ((l.drop 6).take 4)) = taken := by
        have hout' : taken.winder.out = none := hout
        simp only [State.cutDone, hout']
      exact (hnew.trans (congrArg State.settlePlan (if_pos hcut))).trans (congrArg State.settlePlan hdone)
    · exact hnew.trans (congrArg State.settlePlan ((if_neg (by omega)).trans (if_pos htwo)))
    · exact hnew.trans (congrArg State.settlePlan ((if_neg (by omega)).trans ((if_neg (by omega)).trans (if_pos hthree))))
    · exact hnew.trans (congrArg State.settlePlan ((if_neg (by omega)).trans ((if_neg (by omega)).trans (if_neg (by omega)))))

/-! ## ROLL REMOVED (R118) -/

theorem find?_first {α : Type} {p : α → Bool} {before after : List α} {a : α} (hbefore : ∀ b ∈ before, p b = false)
    (ha : p a = true) : (before ++ a :: after).find? p = some a := by
  rw [List.find?_append, List.find?_eq_none.mpr fun b hb => by rw [hbefore b hb]; decide, List.find?_cons, ha]
  rfl

/-- A record's change, in a queue where no sequence number stands twice. -/
theorem map_record {before after : List RollRec} {r : RollRec} (f : RollRec → RollRec)
    (hnodup : ((before ++ r :: after).map RollRec.seq).Nodup) :
    (before ++ r :: after).map (fun q => if q.seq = r.seq then f q else q) = before ++ f r :: after := by
  rw [List.map_append, List.map_cons, List.nodup_append] at hnodup
  obtain ⟨-, hrest, hdisjoint⟩ := hnodup
  obtain ⟨hnot, -⟩ := List.nodup_cons.mp hrest
  have hother {l : List RollRec} (hl : ∀ q ∈ l, q.seq ≠ r.seq) : l.map (fun q => if q.seq = r.seq then f q else q) = l :=
    (List.map_congr_left fun q hq => if_neg (hl q hq)).trans (List.map_id _)
  rw [List.map_append, List.map_cons, if_pos rfl,
    hother fun q hq heq => hdisjoint q.seq (List.mem_map_of_mem hq) r.seq List.mem_cons_self heq,
    hother fun q hq heq => hnot (heq ▸ List.mem_map_of_mem hq)]

theorem markClosing_first {sp : Spindle} {before after : List ClosingRoll} {c : ClosingRoll}
    (hbefore : ∀ d ∈ before, d.roll.spindle ≠ sp ∨ d.removed = true) (hsp : c.roll.spindle = sp) (hrem : c.removed = false) :
    markClosing sp (before ++ c :: after) = before ++ { c with removed := true } :: after := by
  induction before with
  | nil => exact if_pos ⟨hsp, hrem⟩
  | cons d before ih =>
    have hd : ¬ (d.roll.spindle = sp ∧ d.removed = false) := fun h =>
      (hbefore d List.mem_cons_self).elim (fun hne => hne h.1) fun hr => by rw [h.2] at hr; cases hr
    rw [List.cons_append, markClosing, if_neg hd, ih fun e he => hbefore e (List.mem_cons_of_mem _ he)]
    rfl

theorem markClosing_none {sp : Spindle} {l : List ClosingRoll} (h : ∀ d ∈ l, d.roll.spindle ≠ sp ∨ d.removed = true) :
    markClosing sp l = l := by
  induction l with
  | nil => rfl
  | cons d l ih =>
    have hd : ¬ (d.roll.spindle = sp ∧ d.removed = false) := fun hc =>
      (h d List.mem_cons_self).elim (fun hne => hne hc.1) fun hr => by rw [hc.2] at hr; cases hr
    rw [markClosing, if_neg hd, ih fun e he => h e (List.mem_cons_of_mem _ he)]

theorem unmarked_false {r : RollRec} {sp : Spindle} (h : r.spindle ≠ sp ∨ r.removed = true) :
    (decide (r.spindle = sp) && !r.removed) = false := by
  rcases h with h | h <;> simp [h]

theorem rollRemoved_spec (s : State) (sp : Spindle) :
    (∀ before r after, s.rolls.queue = before ++ r :: after → (s.rolls.queue.map RollRec.seq).Nodup →
      (∀ q ∈ before, q.spindle ≠ sp ∨ q.removed = true) → r.spindle = sp → r.removed = false →
      s.rollRemoved sp = { s with rolls := { s.rolls with queue :=
        before ++ { r with removed := true, label := if r.label = .printed then .applied else r.label } :: after } })
    ∧ ((∀ q ∈ s.rolls.queue, q.spindle ≠ sp ∨ q.removed = true) →
        (∀ before c after, s.winder.closing = before ++ c :: after →
          (∀ d ∈ before, d.roll.spindle ≠ sp ∨ d.removed = true) → c.roll.spindle = sp → c.removed = false →
          s.rollRemoved sp = { s with winder := { s.winder with
            closing := before ++ { c with removed := true } :: after } })
        ∧ ((∀ d ∈ s.winder.closing, d.roll.spindle ≠ sp ∨ d.removed = true) → s.rollRemoved sp = s)) := by
  refine ⟨fun before r after hqueue hnodup hbefore hsp hrem => ?_, fun hnone => ?_⟩
  · have hfind : s.rolls.queue.find? (fun r => decide (r.spindle = sp) && !r.removed) = some r := by
      rw [hqueue]
      exact find?_first (fun q hq => unmarked_false (hbefore q hq)) (by simp [hsp, hrem])
    rw [hqueue] at hnodup
    have hmap := map_record (fun q => { q with
      removed := true, label := if q.label = .printed then .applied else q.label }) hnodup
    rw [← hqueue] at hmap
    simp only [State.rollRemoved, hfind]
    rw [State.setRecord, State.setRolls, hmap]
  · have hfind : s.rolls.queue.find? (fun r => decide (r.spindle = sp) && !r.removed) = none :=
      List.find?_eq_none.mpr fun q hq => by rw [unmarked_false (hnone q hq)]; decide
    have heq : s.rollRemoved sp = s.setWinder (fun w => { w with closing := markClosing sp w.closing }) := by
      simp only [State.rollRemoved, hfind]
    rw [heq]
    refine ⟨fun before c after hclosing hbefore hsp hrem => ?_, fun hmarked => ?_⟩
    · rw [State.setWinder, hclosing, markClosing_first hbefore hsp hrem]
    · rw [State.setWinder, markClosing_none hmarked]

end Sys2Proof.Proofs.CutDone
end

section
/-! PROOFS. The orders that a cut ends (R134), and the line while the stop of a stopped changeover is on its way (R135, R158). -/

namespace Sys2Proof.Proofs.EndedOrders
open Sys2Proof.Machine Sys2Proof.Proofs.FaultFacts Sys2Proof.Proofs.Lookups Sys2Proof.Proofs.MemoryFacts
open Sys2Proof.Proofs.FaultList Sys2Proof.Proofs.EmbossLoop Sys2Proof.Proofs.PlannerFacts Sys2Proof.Proofs.ImageAndConfig
open Sys2Proof.Proofs.OrderUnit Sys2Proof.Proofs.OrderEnds Sys2Proof.Proofs.WinderCuts Sys2Proof.Proofs.CutDone
open Sys2Proof.Proofs.ShadeBatches

/-! ## A running line, or one that has been stopped -/

/-- NORMAL or ALERT, or STOPPED with both lines low. -/
def RunningOrStopped (f : FaultUnit) : Prop :=
  f.st = .normal ∨ f.st = .alert ∨ (f.st = .stopped ∧ f.stopA = false ∧ f.stopB = false)

theorem RunningOrStopped.of_list {s t : State} (h : RunningOrStopped s.fault) (k : ListOnly s t) : RunningOrStopped t.fault := by
  have hstands := Stands.of_list k
  unfold RunningOrStopped
  rw [hstands.st, hstands.stopA, hstands.stopB]
  exact h

theorem RunningOrStopped.faultSettle {s : State} (h : RunningOrStopped s.fault) : RunningOrStopped s.faultSettle.fault := by
  have hjudged (c : Prop) [Decidable c] (f : FaultUnit) : RunningOrStopped { f with st := if c then .normal else .alert } := by
    unfold RunningOrStopped
    split
    · exact .inl rfl
    · exact .inr (.inl rfl)
  unfold State.faultSettle
  rcases h with h | h | h
  · rw [h]
    exact hjudged _ _
  · rw [h]
    exact hjudged _ _
  · rw [h.1]
    exact .inr (.inr h)

theorem RunningOrStopped.enterStopped {s : State} (h : RunningOrStopped s.fault) :
    s.enterStopped.fault.st = .stopped ∧ s.enterStopped.fault.stopA = false ∧ s.enterStopped.fault.stopB = false := by
  by_cases hrunning : s.fault.st = .normal ∨ s.fault.st = .alert
  · rw [enterStopped_running hrunning]
    exact ⟨rfl, rfl, rfl⟩
  · obtain ⟨hst, hpair⟩ : s.fault.st = .stopped ∧ s.fault.stopA = false ∧ s.fault.stopB = false := by
      rcases h with h | h | h
      · exact absurd (.inl h) hrunning
      · exact absurd (.inr h) hrunning
      · exact h
    rw [enterStopped_standing (.inr hst)]
    exact ⟨hst, hpair⟩

theorem RunningOrStopped.raiseCore {s : State} (h : RunningOrStopped s.fault) (code subject : Nat) :
    RunningOrStopped (s.raiseCore code subject).fault := by
  have hcharged : RunningOrStopped (charged s code subject).fault := by
    have hlist := h.of_list (listOnly_listRaise s code subject)
    unfold charged
    extract_lets t
    split
    · split <;> exact hlist
    · split <;> exact hlist
  rw [raiseCore_eq]
  split
  · exact RunningOrStopped.faultSettle (.inr (.inr hcharged.enterStopped))
  · exact hcharged.faultSettle

theorem RunningOrStopped.clearCore {s : State} (h : RunningOrStopped s.fault) (code subject : Nat) :
    RunningOrStopped (s.clearCore code subject).fault := by
  unfold State.clearCore
  split
  · split
    next n _ =>
      have hlist := h.of_list ((listOnly_clearEntry s n code true).trans (listOnly_latch _ .fault))
      exact RunningOrStopped.faultSettle (s := { State.latch (s.clearEntry n code true) .fault with fault := _ }) hlist
    next => exact RunningOrStopped.faultSettle (s := { s with fault := _ }) h
  · exact h

theorem RunningOrStopped.enterLifted {s : State} (h : RunningOrStopped s.fault) : RunningOrStopped s.enterLifted.fault := by
  have hlifted : RunningOrStopped (liftedState s).fault :=
    RunningOrStopped.clearCore (RunningOrStopped.clearCore (s := { s with emb := liftedEmb s.emb }) h _ _) _ _
  rw [enterLifted_eq]
  split
  · exact hlifted
  · split <;> exact hlifted

theorem RunningOrStopped.embossSettle {s : State} (h : RunningOrStopped s.fault) : RunningOrStopped s.embossSettle.fault := by
  unfold State.embossSettle
  split
  · exact h
  · split <;> exact h
  · split
    · exact h.enterLifted
    · exact h
  · split <;> exact h
  · split
    · rw [sendLift_fault]
      exact h
    · exact h
  · exact h

theorem RunningOrStopped.settle {s : State} (h : RunningOrStopped s.fault) : RunningOrStopped s.settle.fault := by
  rw [State.settle]
  exact RunningOrStopped.embossSettle (by rw [loopsSettle_fault]; exact h)

theorem RunningOrStopped.raise {s : State} (h : RunningOrStopped s.fault) (code subject : Nat) :
    RunningOrStopped (s.raise code subject).fault := (h.raiseCore code subject).settle

theorem RunningOrStopped.clear {s : State} (h : RunningOrStopped s.fault) (code subject : Nat) :
    RunningOrStopped (s.clear code subject).fault := (h.clearCore code subject).settle

theorem RunningOrStopped.follow {s : State} (h : RunningOrStopped s.fault) (code subject : Nat) (b : Bool) :
    RunningOrStopped (s.follow code subject b).fault := by
  unfold State.follow
  split
  · split
    · exact h
    · exact h.raise code subject
  · exact h.clear code subject

theorem RunningOrStopped.startLoops {s : State} (h : RunningOrStopped s.fault) (n : Nat) : RunningOrStopped (s.startLoops n).fault := by
  have hclears (u : State) (hu : RunningOrStopped u.fault) (x : RegisterUnit) (c d e f : Nat) :
      RunningOrStopped ((State.clear { u with reg := x } c d).clear e f).fault :=
    RunningOrStopped.clear (RunningOrStopped.clear (s := { u with reg := x }) hu c d) e f
  unfold State.startLoops
  generalize List.range 8 = l
  induction l generalizing s with
  | nil => exact h
  | cons i l ih =>
    refine ih ?_
    dsimp only
    split
    · exact hclears s h _ _ _ _ _
    · exact hclears s h _ _ _ _ _

theorem RunningOrStopped.takingChanged {s : State} (h : RunningOrStopped s.fault) (old new : Option OrderBody) :
    RunningOrStopped (s.takingChanged old new).fault := by
  unfold State.takingChanged
  extract_lets kept geom src t u
  clear_value kept geom
  refine RunningOrStopped.startLoops ?_ _
  have ht : RunningOrStopped t.fault := h
  dsimp only [u]
  split
  · exact ht
  · have hx (x : RegisterUnit) (k : Nat) :
        RunningOrStopped (State.clear { t with freeIdx := t.freeIdx + k, reg := x } referenceLost 0).fault :=
      RunningOrStopped.clear (s := { t with freeIdx := t.freeIdx + k, reg := x }) ht _ _
    split <;> exact hx _ _

/-! ## An order becomes DONE -/

theorem shadeOrderDone_keeps (s : State) (k : OrderKey) :
    (s.shadeOrderDone k).ord = s.ord ∧ (s.shadeOrderDone k).fault = s.fault := by
  unfold State.shadeOrderDone
  split
  · obtain ⟨hrun, -⟩ := decideRun_spec s
    obtain ⟨hclose, -⟩ := closeBatch_frame s.decideRun
    rw [hclose, hrun]
    exact ⟨rfl, rfl⟩
  · exact ⟨rfl, rfl⟩

theorem finished_fault (s : State) (n reason : Nat) : (finished s n reason).fault = s.fault := by
  rw [finished, setOrderState_frame, partStore_eq, State.writeOrderCounts, partStore_eq]
  rfl

theorem finished_ord (s : State) (n reason : Nat) : (finished s n reason).ord = { s.ord with
    orders := (finished s n reason).ord.orders } := by
  rw [finished, setOrderState_ord, setOrder_ord, partStore_ord, State.writeOrderCounts, partStore_ord]
  rfl

/-- The end of the active order with a stopped changeover begins the hold and stops the line (R135). -/
theorem finishOrder_stops {s : State} {n : Nat} (reason : Nat) (hactive : s.ord.active = some n)
    (hstopped : (s.order n).changeover = .stopped) :
    let t := s.finishOrder n reason
    t.ord.hold = true ∧ (RunningOrStopped s.fault → t.fault.st = .stopped ∧ t.fault.stopA = false ∧ t.fault.stopB = false) := by
  intro t
  obtain ⟨z, hz, ht⟩ : ∃ z : State, (RunningOrStopped s.fault → RunningOrStopped z.fault)
      ∧ t = (State.enterStopped { z with ord := { z.ord with hold := true } }).settle := by
    refine ⟨_, fun h => ?_, (if_pos (decide_eq_true hactive)).trans (if_pos (decide_eq_true hstopped))⟩
    refine RunningOrStopped.follow ?_ _ _ _
    refine RunningOrStopped.embossSettle (RunningOrStopped.follow ?_ _ _ _)
    refine RunningOrStopped.takingChanged (s := { (finished s n reason).shadeOrderDone (s.orderKey n) with ord := _ }) ?_ _ _
    rw [(shadeOrderDone_keeps _ _).2, finished_fault]
    exact h
  rw [ht]
  have hreach : State.faultReach { z with ord := { z.ord with hold := true } }
      (State.enterStopped { z with ord := { z.ord with hold := true } }).settle := (reach_enterStopped _).trans (reach_settle _)
  refine ⟨by rw [hreach.orders], fun h => ?_⟩
  obtain ⟨hst, hA, hB⟩ := RunningOrStopped.enterStopped (s := { z with ord := { z.ord with hold := true } }) (hz h)
  have hsettled := settle_stopped hst
  have hpair : (State.enterStopped { z with ord := { z.ord with hold := true } }).stopPairOk := by
    rw [State.stopPairOk, hst]
    exact ⟨hA, hB⟩
  have := (steady_settle _).stopPair hpair
  rw [State.stopPairOk, hsettled] at this
  exact ⟨hsettled, this.1, this.2⟩

/-! ## What the end of another order leaves alone -/

/-- From `s` to `t` slot `n` is as it was, and while no order but that of slot `n` is active, so are the active order, the hold
and the fault unit. -/
structure Elsewhere (n : Nat) (s t : State) : Prop where
  order : t.order n = s.order n
  length : t.ord.orders.length = s.ord.orders.length
  slot : ∀ j, j < 128 → t.readByte (orderSlotAddr n + j) = s.readByte (orderSlotAddr n + j)
  notice : ∀ i, s.port.notice.getLsbD i = true → t.port.notice.getLsbD i = true
  quiet : s.ord.active = some n ∨ s.ord.active = none →
    t.ord.active = s.ord.active ∧ t.ord.hold = s.ord.hold ∧ t.fault = s.fault

theorem Elsewhere.refl (n : Nat) (s : State) : Elsewhere n s s := ⟨rfl, rfl, fun _ _ => rfl, fun _ h => h, fun _ => ⟨rfl, rfl, rfl⟩⟩

theorem Elsewhere.trans {n : Nat} {s t u : State} (h : Elsewhere n s t) (k : Elsewhere n t u) : Elsewhere n s u where
  order := k.order.trans h.order
  length := k.length.trans h.length
  slot := fun j hj => (k.slot j hj).trans (h.slot j hj)
  notice := fun i hi => k.notice i (h.notice i hi)
  quiet := fun hs => by
    obtain ⟨hactive, hhold, hfault⟩ := h.quiet hs
    obtain ⟨kactive, khold, kfault⟩ := k.quiet (by rwa [hactive])
    exact ⟨kactive.trans hactive, khold.trans hhold, kfault.trans hfault⟩

theorem length_finished (s : State) (k reason : Nat) : (finished s k reason).ord.orders.length = s.ord.orders.length := by
  rw [finished, setOrderState_ord]
  refine (length_modifyAt _ _ _).trans ?_
  rw [partStore_ord, State.writeOrderCounts, partStore_ord]
  exact length_modifyAt _ _ _

theorem order_finished_ne (s : State) {n k : Nat} (reason : Nat) (h : n ≠ k) : (finished s k reason).order n = s.order n := by
  rw [finished, order_setOrderState_ne _ _ h, order_congr (partStore_ord _ _ _), State.writeOrderCounts,
    order_congr (partStore_ord _ _ _), order_setOrder_ne _ _ h]

theorem slot_finished (s : State) {n k j : Nat} (reason : Nat) (hn : n < 8) (hk : k < 8) (hlen : k < s.ord.orders.length) (h : n ≠ k)
    (hj : j < 128) : (finished s k reason).readByte (orderSlotAddr n + j) = s.readByte (orderSlotAddr n + j) := by
  have hfits := orderSlot_fits hn
  have haway : orderSlotAddr n + 128 ≤ orderSlotAddr k ∨ orderSlotAddr k + 128 ≤ orderSlotAddr n := by
    unfold orderSlotAddr
    omega
  have hlen' : k < (((s.setOrder k (fun o => { o with currentRoll := 0, endWanted := false })).writeOrderCounts k).partStore
      (orderSlotAddr k + 0x78) [byte reason]).ord.orders.length := by
    rw [partStore_ord, State.writeOrderCounts, partStore_ord]
    exact (length_modifyAt _ _ _).symm ▸ hlen
  rw [finished, readByte_setOrderState _ _ hk hlen' (by omega), if_neg (by omega), partStore_outside _ _ _ (by simp; omega),
    writeOrderCounts_outside _ (by omega)]
  rfl

theorem finishOrder_elsewhere (s : State) {n k : Nat} (reason : Nat) (hn : n < 8) (hk : k < 8) (hlen : k < s.ord.orders.length)
    (h : n ≠ k) : Elsewhere n s (s.finishOrder k reason) := by
  have htold := finishOrder_told s k reason
  have hfinished : ∃ v : State, OrdersKept v (s.finishOrder k reason)
      ∧ v.ord.orders = (finished s k reason).ord.orders ∧ v.mem = (finished s k reason).mem := by
    split at htold
    · exact ⟨_, htold, rfl, rfl⟩
    · exact ⟨_, htold, rfl, rfl⟩
  obtain ⟨v, hkept, horders, hmem⟩ := hfinished
  refine ⟨?_, ?_, fun j hj => ?_, (steady_finishOrder s k reason).notice, fun hquiet => ?_⟩
  · rw [hkept.order n, order_of_orders horders, order_finished_ne s reason h]
  · rw [hkept.orders, horders]
    exact length_finished s k reason
  · rw [hkept.readByte_slot hn hj, readByte_of_mem hmem, slot_finished s reason hn hk hlen h hj]
  · have hne : s.ord.active ≠ some k := by
      rcases hquiet with hq | hq <;> rw [hq]
      · exact fun he => h (Option.some.inj he)
      · nofun
    have heq : s.finishOrder k reason = (finished s k reason).shadeOrderDone (s.orderKey k) := if_neg (by simpa using hne)
    obtain ⟨hord, hfault⟩ := shadeOrderDone_keeps (finished s k reason) (s.orderKey k)
    rw [heq, hord, hfault, finished_fault, finished_ord]
    exact ⟨rfl, rfl, rfl⟩

/-- One slot's part in the end of orders at a cut. -/
def endOrder (x : Int) (s : State) (k : Nat) : State :=
  match (s.order k).st, (s.order k).endAt with
  | .ending, some y => if y ≤ x then s.finishOrder k (doneReason (s.order k).byWithdrawal) else s
  | _, _ => s

theorem endOrders_eq (s : State) (x : Int) : s.endOrders x = ((List.range 8).foldl (endOrder x) s).testActivation := rfl

theorem endOrder_ending {s : State} {x y : Int} {k : Nat} (hst : (s.order k).st = .ending) (hend : (s.order k).endAt = some y) :
    endOrder x s k = if y ≤ x then s.finishOrder k (doneReason (s.order k).byWithdrawal) else s := by
  unfold endOrder
  rw [hst, hend]

theorem lt_length_of_ending {s : State} {k : Nat} (h : (s.order k).st = .ending) : k < s.ord.orders.length := by
  by_contra hlen
  rw [State.order, List.getD_eq_default _ _ (not_lt.mp hlen)] at h
  cases h

theorem endOrder_elsewhere (x : Int) (s : State) {n k : Nat} (hn : n < 8) (hk : k < 8) (h : n ≠ k) :
    Elsewhere n s (endOrder x s k) := by
  unfold endOrder
  split
  next hst _ =>
    split
    · exact finishOrder_elsewhere s _ hn hk (lt_length_of_ending hst) h
    · exact .refl n s
  next => exact .refl n s

theorem foldl_elsewhere (x : Int) {n : Nat} (hn : n < 8) {l : List Nat} (hl : ∀ k ∈ l, k < 8 ∧ n ≠ k) (s : State) :
    Elsewhere n s (l.foldl (endOrder x) s) := by
  induction l generalizing s with
  | nil => exact .refl n s
  | cons k l ih =>
    obtain ⟨hk, hne⟩ := hl k List.mem_cons_self
    exact (endOrder_elsewhere x s hn hk hne).trans (ih (fun k hk => hl k (List.mem_cons_of_mem _ hk)) _)

/-- The slots before and after one. -/
theorem range_split {n : Nat} (hn : n < 8) : ∃ before after, List.range 8 = before ++ n :: after
    ∧ (∀ k ∈ before, k < 8 ∧ n ≠ k) ∧ (∀ k ∈ after, k < 8 ∧ n ≠ k) := by
  obtain ⟨before, after, hrange⟩ := List.append_of_mem (List.mem_range.mpr hn)
  have hnodup : (before ++ n :: after).Nodup := hrange ▸ List.nodup_range
  rw [List.nodup_append] at hnodup
  obtain ⟨-, hrest, hdisjoint⟩ := hnodup
  obtain ⟨hnot, -⟩ := List.nodup_cons.mp hrest
  have hlt {k : Nat} (hk : k ∈ before ++ n :: after) : k < 8 := List.mem_range.mp (hrange ▸ hk)
  refine ⟨before, after, hrange, fun k hk => ⟨hlt (List.mem_append_left _ hk), fun h => ?_⟩, fun k hk =>
    ⟨hlt (List.mem_append_right _ (List.mem_cons_of_mem _ hk)), fun h => hnot (h ▸ hk)⟩⟩
  exact hdisjoint k hk n List.mem_cons_self h.symm

/-- The activation test leaves every order that is not TAKEN. -/
theorem testActivation_keeps (s : State) {n : Nat} (hn : n < 8) (hst : (s.order n).st ≠ .taken) :
    s.testActivation.order n = s.order n
      ∧ (∀ j, j < 128 → s.testActivation.readByte (orderSlotAddr n + j) = s.readByte (orderSlotAddr n + j))
      ∧ (∀ i, s.port.notice.getLsbD i = true → s.testActivation.port.notice.getLsbD i = true) := by
  unfold State.testActivation
  split
  · split
    next m rest hqueue =>
      obtain ⟨hm, htaken⟩ := mem_orderQueue.mp (hqueue ▸ List.mem_cons_self : m ∈ s.orderQueue)
      have hne : n ≠ m := fun h => hst (h ▸ htaken)
      obtain ⟨-, -, hother, -, -, -, hslot, hnotice⟩ := activate_elsewhere s hm (lt_length_of_taken htaken)
      exact ⟨hother n hne, fun j hj => hslot n j hn hne hj, hnotice⟩
    next => exact ⟨rfl, fun _ _ => rfl, fun _ h => h⟩
  · exact ⟨rfl, fun _ _ => rfl, fun _ h => h⟩

theorem endOrders_spec (s : State) (x y : Int) (n : Nat) (hn : n < 8) (hlen : n < s.ord.orders.length)
    (hst : (s.order n).st = .ending) (hend : (s.order n).endAt = some y) :
    let t := s.endOrders x
    (x < y → t.order n = s.order n)
    ∧ (y ≤ x → (t.order n).st = .done ∧ (t.order n).currentRoll = 0 ∧ t.readByte (0x0471 + 128 * n) = 5
        ∧ t.readByte (0x0478 + 128 * n) = (if (s.order n).byWithdrawal then 2 else 1) ∧ t.noticed .order = true
        ∧ (s.ord.active = some n → (s.order n).changeover = .stopped → t.ord.hold = true ∧ t.ord.active = none
            ∧ (s.fault.st = .normal ∨ s.fault.st = .alert →
                t.fault.st = .stopped ∧ t.fault.stopA = false ∧ t.fault.stopB = false))) := by
  intro t
  obtain ⟨before, after, hrange, hbefore, hafter⟩ := range_split hn
  obtain ⟨v, hv⟩ : ∃ v, v = before.foldl (endOrder x) s := ⟨_, rfl⟩
  obtain ⟨u, hu⟩ : ∃ u, u = endOrder x v n := ⟨_, rfl⟩
  obtain ⟨w, hw⟩ : ∃ w, w = after.foldl (endOrder x) u := ⟨_, rfl⟩
  have ht : t = w.testActivation := by
    rw [hw, hu, hv, show t = _ from endOrders_eq s x, hrange, List.foldl_append, List.foldl_cons]
  have hsv : Elsewhere n s v := hv ▸ foldl_elsewhere x hn hbefore s
  have huw : Elsewhere n u w := hw ▸ foldl_elsewhere x hn hafter u
  rw [endOrder_ending (hsv.order ▸ hst) (hsv.order ▸ hend), hsv.order] at hu
  refine ⟨fun hlt => ?_, fun hle => ?_⟩
  · rw [if_neg (not_le.mpr hlt)] at hu
    have hword : w.order n = s.order n := by rw [huw.order, hu, hsv.order]
    rw [ht, (testActivation_keeps w hn (by rw [hword, hst]; nofun)).1, hword]
  · rw [if_pos hle] at hu
    obtain ⟨hdone, hroll, hstate, hreason, hnotice, hinactive⟩ :=
      finishOrder_spec v hn (hsv.length ▸ hlen) (doneReason (s.order n).byWithdrawal)
    have hstops := finishOrder_stops (s := v) (n := n) (doneReason (s.order n).byWithdrawal)
    rw [← hu] at hdone hroll hstate hreason hnotice hinactive hstops
    obtain ⟨hord, hslot, hkeep⟩ := testActivation_keeps w hn (by rw [huw.order, hdone]; nofun)
    rw [ht, hord, huw.order]
    have haddr (j : Nat) : 0x0400 + j + 128 * n = orderSlotAddr n + j := by unfold orderSlotAddr; omega
    refine ⟨hdone, hroll, ?_, ?_, hkeep _ (huw.notice _ hnotice), fun hactive hstopped => ?_⟩
    · rw [haddr 0x71, hslot _ (by decide), huw.slot _ (by decide), hstate]
    · rw [haddr 0x78, hslot _ (by decide), huw.slot _ (by decide), hreason, doneReason]
      split <;> rfl
    · obtain ⟨hvactive, hvhold, hvfault⟩ := hsv.quiet (.inl hactive)
      have hvact : v.ord.active = some n := hvactive.trans hactive
      obtain ⟨hhold, hline⟩ := hstops hvact (by rw [hsv.order]; exact hstopped)
      obtain ⟨hwactive, hwhold, hwfault⟩ := huw.quiet (.inr (hinactive hvact))
      have hidle : w.testActivation = w := if_neg fun h => by
        rw [hwhold, hhold] at h
        exact absurd h.2.2 (by decide)
      rw [hidle, hwhold, hwactive, hwfault]
      refine ⟨hhold, hinactive hvact, fun hrunning => hline ?_⟩
      rw [hvfault]
      exact hrunning.elim .inl fun h => .inr (.inl h)

/-- Settles O38: the roll that the cut closes, the lead event after it, the drive's reply, ROLL REMOVED, and the orders that end. -/
theorem cutDoneClosesRoll : Obligations.CutDoneClosesRoll := by
  unfold Obligations.CutDoneClosesRoll
  refine ⟨closeRoll_spec, leadStep_spec, fun s i n l hn howner => ?_, rollRemoved_spec, endOrders_spec⟩
  intro event number shown heard taken
  exact ⟨fun h => heard_out s l h, deliver_spec s i n l hn howner⟩

end Sys2Proof.Proofs.EndedOrders
end

section
/-! PROOFS. The frame of a link cycle (R139 to R144), and the end of enumeration (R142). -/

namespace Sys2Proof.Proofs.LinkFrames
open Sys2Proof.Machine Sys2Proof.Proofs.FaultFacts Sys2Proof.Proofs.Lookups Sys2Proof.Proofs.MemoryFacts
open Sys2Proof.Proofs.FaultList

/-! ## Slots -/

theorem slotOf_toList (bs : List Byte) : (slotOf bs).toList = (List.range 10).map (fun i => bs.getD i 0) := by
  refine List.ext_getElem (by simp) fun i h h' => ?_
  simp [slotOf]

theorem slotOf_getD (bs : List Byte) {i : Nat} (h : i < 10) : (slotOf bs).toList.getD i 0 = bs.getD i 0 := by
  rw [slotOf_toList, List.getD_eq_getElem?_getD, List.getElem?_map, List.getElem?_range h]
  rfl

theorem slot_length (x : Slot) : x.toList.length = 10 := Vector.length_toList ..

/-- The bytes of the slots of a frame, one behind the other. -/
def slotBytes (slots : List SentSlot) : List Byte := (slots.map (fun x => x.bytes.toList)).flatten

theorem slotBytes_cons (x : SentSlot) (slots : List SentSlot) : slotBytes (x :: slots) = x.bytes.toList ++ slotBytes slots := rfl

theorem slotBytes_length (slots : List SentSlot) : (slotBytes slots).length = 10 * slots.length := by
  induction slots with
  | nil => rfl
  | cons x slots ih =>
    rw [slotBytes_cons, List.length_append, ih, slot_length, List.length_cons]
    omega

theorem slotBytes_at {slots : List SentSlot} {i : Nat} {x : SentSlot} (h : slots[i]? = some x) (rest : List Byte) :
    ((slotBytes slots ++ rest).drop (10 * i)).take 10 = x.bytes.toList := by
  induction slots generalizing i with
  | nil => cases h
  | cons y slots ih =>
    rw [slotBytes_cons, List.append_assoc]
    cases i with
    | zero =>
      obtain rfl : y = x := by simpa using h
      exact List.take_left' (slot_length _)
    | succ i =>
      rw [show 10 * (i + 1) = y.bytes.toList.length + 10 * i by rw [slot_length]; omega, List.drop_length_add_append]
      exact ih h

/-! ## The bytes of a frame (R139) -/

/-- What the check covers. -/
def covered (kind cycle : Nat) (slots : List SentSlot) : List Byte :=
  [byte kind, byte cycle, byte (cycle / 256), 0] ++ slotBytes slots

theorem frameBytes_eq (kind cycle : Nat) (slots : List SentSlot) : frameBytes kind cycle slots
    = covered kind cycle slots ++ [byte (frameCheck (covered kind cycle slots) / 256), byte (frameCheck (covered kind cycle slots))] :=
  rfl

theorem covered_length (kind cycle : Nat) (slots : List SentSlot) : (covered kind cycle slots).length = 4 + 10 * slots.length := by
  rw [covered, List.length_append, slotBytes_length]
  rfl

/-- Header, check and slots of a frame as sent. -/
theorem frameBytes_spec (kind cycle : Nat) (slots : List SentSlot) :
    let tx := frameBytes kind cycle slots
    tx.length = 6 + 10 * slots.length
      ∧ tx.take 4 = [byte kind, byte cycle, byte (cycle / 256), 0]
      ∧ tx.drop (4 + 10 * slots.length) =
          [byte (frameCheck (tx.take (4 + 10 * slots.length)) / 256), byte (frameCheck (tx.take (4 + 10 * slots.length)))]
      ∧ ∀ i x, slots[i]? = some x → (tx.drop (4 + 10 * i)).take 10 = x.bytes.toList := by
  intro tx
  have htx : tx = _ := frameBytes_eq kind cycle slots
  have hlen := covered_length kind cycle slots
  have htake : tx.take (4 + 10 * slots.length) = covered kind cycle slots := by rw [htx]; exact List.take_left' hlen
  refine ⟨?_, ?_, ?_, fun i x hx => ?_⟩
  · rw [htx, List.length_append, hlen]
    simp only [List.length_cons, List.length_nil]
    omega
  · rw [htx, covered, List.append_assoc]
    exact List.take_left' rfl
  · rw [htake, htx]
    exact List.drop_left' hlen
  · have hsplit : tx = [byte kind, byte cycle, byte (cycle / 256), 0]
        ++ (slotBytes slots ++ [byte (frameCheck (covered kind cycle slots) / 256),
          byte (frameCheck (covered kind cycle slots))]) := by
      rw [htx]
      simp only [covered, List.append_assoc]
    rw [hsplit, show 4 + 10 * i = [byte kind, byte cycle, byte (cycle / 256), (0 : Byte)].length + 10 * i by rfl,
      List.drop_length_add_append]
    exact slotBytes_at hx _

/-! ## The slots of a cycle frame -/

theorem getElem?_nodeSlots (p : Nat) (l : List Node) (i : Nat) : (nodeSlots p l)[i]? = l[i]?.map (fun n => n.slot (p + i)) := by
  induction l generalizing p i with
  | nil => rfl
  | cons n l ih =>
    cases i with
    | zero => rfl
    | succ i =>
      rw [nodeSlots, List.getElem?_cons_succ, ih, List.getElem?_cons_succ, show p + 1 + i = p + (i + 1) by omega]

theorem length_nodeSlots (p : Nat) (l : List Node) : (nodeSlots p l).length = l.length := by
  induction l generalizing p with
  | nil => rfl
  | cons n l ih => rw [nodeSlots, List.length_cons, ih, List.length_cons]

theorem length_cycleSlots (l : Link) : l.cycleSlots.length = l.nodes.length + (l.n - l.nodes.length) := by
  rw [Link.cycleSlots, List.length_append, length_nodeSlots, List.length_map, List.length_range]

theorem cycleSlots_node {l : Link} {i : Nat} {n : Node} (h : l.nodes[i]? = some n) : l.cycleSlots[i]? = some (n.slot (i + 1)) := by
  have hi : i < (nodeSlots 1 l.nodes).length := by
    rw [length_nodeSlots]
    exact (List.getElem?_eq_some_iff.mp h).1
  rw [Link.cycleSlots, List.getElem?_append_left hi, getElem?_nodeSlots, h, Nat.add_comm 1 i]
  rfl

theorem cycleSlots_beyond {l : Link} {i : Nat} {x : SentSlot} (hi : l.nodes.length ≤ i) (h : l.cycleSlots[i]? = some x) :
    x.carries = .idle ∧ x.bytes.toList.getD 0 0 = 0 := by
  rw [Link.cycleSlots, List.getElem?_append_right (by rwa [length_nodeSlots])] at h
  obtain ⟨k, -, rfl⟩ := List.mem_map.mp (List.mem_of_getElem? h)
  exact ⟨rfl, slotOf_getD _ (by decide)⟩

theorem nextCount_eq (k : Nat) : nextCount k = if k < 15 then k + 1 else 1 := rfl

/-- The slot of a PRESENT settled node with a command. -/
theorem slot_command {n : Node} {p : Nat} {c : LinkCmd} {rest : List LinkCmd} (hst : n.st = .present) (hsettled : n.settled = true)
    (hwaiting : n.waiting = c :: rest) : n.slot p =
    { bytes := slotOf ([byte c.encode.1, byte (nextCount n.expected)] ++ argument c.encode.2 n.eventOut),
      carries := .command c } := by
  simp only [Node.slot, hst, hwaiting, hsettled, if_true]

theorem slot_configuring {n : Node} {p : Nat} (hst : n.st = .configuring) : n.slot p =
    { bytes := slotOf ([byte 2, byte (nextCount n.expected), byte p, byte n.station]), carries := .configure } := by
  simp only [Node.slot, hst]

theorem slot_idle {n : Node} {p : Nat}
    (h : n.st = .silent ∨ n.st = .mismatched ∨ (n.st = .present ∧ (n.settled = false ∨ n.waiting = []))) : n.slot p =
    { bytes := slotOf ([byte 0, byte n.expected] ++ argument [] n.eventOut), carries := .idle } := by
  rcases h with hst | hst | ⟨hst, hsettled | hwaiting⟩
  · simp only [Node.slot, hst]
  · simp only [Node.slot, hst]
  · cases hw : n.waiting with
    | nil => simp only [Node.slot, hst, hw]
    | cons c rest => simp only [Node.slot, hst, hw, hsettled, Bool.false_eq_true, if_false]
  · simp only [Node.slot, hst, hwaiting]

theorem sent_waiting {n : Node} {c : LinkCmd} {rest : List LinkCmd} (hst : n.st = .present) (hsettled : n.settled = true)
    (hwaiting : n.waiting = c :: rest) : n.sent = { n with waiting := rest } := by
  rw [Node.sent, if_pos ⟨hst, hsettled⟩, hwaiting]
  rfl

theorem sent_stays {n : Node} (h : n.st ≠ .present ∨ n.settled = false ∨ n.waiting = []) : n.sent = n := by
  unfold Node.sent
  split
  next hsends =>
    rcases h with h | h | h
    · exact absurd hsends.1 h
    · rw [hsends.2] at h
      cases h
    · rw [h]
      exact congrArg (fun w => { n with waiting := w }) h.symm
  next => rfl

/-! ## The cycle -/

/-- From `s` to `t` only the shade unit's requests have changed. -/
theorem tellSent_frame (slots : List SentSlot) (s : State) : slots.foldl (fun s x => s.tellSent x.carries) s
    = { s with shade := { s.shade with queue := (slots.foldl (fun s x => s.tellSent x.carries) s).shade.queue } } := by
  induction slots generalizing s with
  | nil => rfl
  | cons x slots ih =>
    have hone : ∃ q, s.tellSent x.carries = { s with shade := { s.shade with queue := q } } := by
      unfold State.tellSent
      split
      · exact ⟨_, rfl⟩
      · exact ⟨_, rfl⟩
    obtain ⟨q, hq⟩ := hone
    rw [List.foldl_cons, ih, hq]

/-- The slots of the next frame. -/
def nextSlots (l : Link) : List SentSlot := if l.enumerating then List.replicate 12 enumerateSlot else l.cycleSlots

theorem sendFrame_eq (s : State) : ∃ q, s.sendFrame = { s with
    link := { s.link with
      tx := frameBytes (if s.link.enumerating then 2 else 1) s.link.cycle (nextSlots s.link),
      cycle := (s.link.cycle + 1) % 65536, out := some { enumerate := s.link.enumerating, slots := nextSlots s.link },
      nodes := if s.link.enumerating then s.link.nodes else s.link.nodes.map Node.sent },
    shade := { s.shade with queue := q } } := ⟨_, tellSent_frame (nextSlots s.link) _⟩

/-- Settles O40: the frame's bytes by their layout, and its slots node by node. -/
theorem linkCycleSendsFrame : Obligations.LinkCycleSendsFrame := by
  unfold Obligations.LinkCycleSendsFrame
  intro s
  refine ⟨fun _ => rfl, fun hout => ?_⟩
  have hidle : s.frameFailed false = s := by rw [State.frameFailed, hout]
  have hexec : exec .linkCycle s = .next s.sendFrame := by
    show Host.Outcome.next (s.frameFailed false).sendFrame = _
    rw [hidle]
  obtain ⟨q, hsend⟩ := sendFrame_eq s
  obtain ⟨hlen, hheader, hcheck, hslots⟩ :=
    frameBytes_spec (if s.link.enumerating then 2 else 1) s.link.cycle (nextSlots s.link)
  have hcycle (h : s.link.enumerating = false) : nextSlots s.link = s.link.cycleSlots := if_neg (by rw [h]; decide)
  have henum (h : s.link.enumerating = true) : nextSlots s.link = List.replicate 12 enumerateSlot := if_pos h
  refine ⟨_, { enumerate := s.link.enumerating, slots := nextSlots s.link }, hexec, ?_⟩
  rw [hsend]
  refine ⟨rfl, rfl, rfl, rfl, fun h => ?_, fun h hn => ?_, fun h i x hi hx => ?_, hlen, ?_, hcheck, hslots, fun h => ?_,
    fun h i n hn => ?_⟩
  · dsimp only
    rw [henum h, List.length_replicate]
  · dsimp only
    rw [hcycle h, length_cycleSlots]
    omega
  · dsimp only at hx
    rw [hcycle h] at hx
    exact cycleSlots_beyond hi hx
  · dsimp only
    rw [hheader]
    split <;> rfl
  · refine ⟨if_pos h, fun x hx => ?_⟩
    dsimp only at hx
    rw [henum h] at hx
    rw [List.eq_of_mem_replicate hx]
    exact ⟨rfl, slotOf_toList _⟩
  · have hnode : (if s.link.enumerating then s.link.nodes else s.link.nodes.map Node.sent)[i]? = some n.sent := by
      rw [if_neg (by rw [h]; decide), List.getElem?_map, hn]
      rfl
    refine ⟨n.slot (i + 1), ?_, fun c rest hst hsettled hwaiting => ?_, fun hst => ?_, fun hst => ?_⟩
    · dsimp only
      rw [hcycle h]
      exact cycleSlots_node hn
    · rw [slot_command hst hsettled hwaiting]
      refine ⟨rfl, slotOf_getD _ (by decide), (slotOf_getD _ (by decide)).trans (congrArg byte (nextCount_eq _)), ?_⟩
      dsimp only
      rw [hnode, sent_waiting hst hsettled hwaiting]
    · rw [slot_configuring hst]
      refine ⟨rfl, ?_, ?_⟩
      · rw [slotOf_toList, nextCount_eq]
        rfl
      · dsimp only
        rw [hnode, sent_stays (.inl (by rw [hst]; nofun))]
    · rw [slot_idle hst]
      refine ⟨rfl, slotOf_getD _ (by decide), slotOf_getD _ (by decide), ?_⟩
      dsimp only
      rw [hnode, sent_stays]
      rcases hst with hst | hst | ⟨-, hst⟩
      · exact .inl (by rw [hst]; nofun)
      · exact .inl (by rw [hst]; nofun)
      · exact .inr hst

/-! ## The end of enumeration -/

theorem tableOf_shown (rank : Nat) (l : List Found) : (tableOf rank l).map (fun n => (n.kind, n.serial, n.expected, n.st))
    = l.map (fun g => (g.kind, g.serial, g.counter, .configuring)) := by
  induction l generalizing rank with
  | nil => rfl
  | cons f l ih => rw [tableOf, List.map_cons, List.map_cons, ih]

theorem tableOf_fresh (rank : Nat) (l : List Found) : ∀ n ∈ tableOf rank l, n.settled = true ∧ n.silent = 0 := by
  induction l generalizing rank with
  | nil => nofun
  | cons f l ih =>
    intro n hn
    rcases List.mem_cons.mp hn with rfl | hn
    · exact ⟨rfl, rfl⟩
    · exact ih _ n hn

/-- A view of a node that does not look at what waits for it. -/
theorem map_of_waiting {α : Type} {l l' : List Node} (view : Node → α) (hview : ∀ n, view { n with waiting := [] } = view n)
    (h : l'.map (fun n => { n with waiting := [] }) = l.map (fun n => { n with waiting := [] })) : l'.map view = l.map view := by
  have hmap := congrArg (List.map view) h
  rw [List.map_map, List.map_map] at hmap
  simpa only [Function.comp_def, hview] using hmap

/-- The table in place, before the blocks see the new phase. -/
def tableBuilt (s : State) (c : Chain) : State :=
  State.setPhase (State.latch { s with
    link := { s.link with enumerating := false, nodes := tableOf 0 c.nodes, n := c.hop, stale := false, lastChain := none },
    port := { s.port with sweepTimer := true } } .link) .config

theorem buildTable_eq (s : State) (c : Chain) : s.buildTable c = (tableBuilt s c).settle := rfl

theorem buildTable_spec (s : State) (c : Chain) :
    let t := s.buildTable c
    t.port.phase = .config ∧ t.port.sweepTimer = true ∧ t.noticed .link = true ∧ t.readByte 0x04 = 1
      ∧ t.link.enumerating = false ∧ t.link.n = c.hop ∧ t.link.stale = false ∧ t.link.out = s.link.out
      ∧ t.link.nodes.map (fun n => (n.kind, n.serial, n.expected, n.st)) =
          c.nodes.map (fun g => (g.kind, g.serial, g.counter, .configuring))
      ∧ (∀ n ∈ t.link.nodes, n.settled = true ∧ n.silent = 0)
      ∧ t.track = s.track ∧ t.coord = s.coord ∧ t.settings = s.settings ∧ t.rolls = s.rolls ∧ t.ord = s.ord := by
  intro t
  have hreach : (tableBuilt s c).faultReach t := reach_settle _
  have hbuilt := ImageAndConfig.setPhase_eq (State.latch { s with
    link := { s.link with enumerating := false, nodes := tableOf 0 c.nodes, n := c.hop, stale := false, lastChain := none },
    port := { s.port with sweepTimer := true } } .link) .config
  have hnodes : (tableBuilt s c).link.nodes = tableOf 0 c.nodes := by rw [tableBuilt, hbuilt]; rfl
  refine ⟨?_, ?_, hreach.inputs.notice _ ?_, ?_, ?_, ?_, ?_, ?_, ?_, ?_, ?_, ?_, ?_, ?_, ?_⟩
  · rw [hreach.inputs.port, tableBuilt, hbuilt]
  · rw [hreach.inputs.port, tableBuilt, hbuilt]
    rfl
  · rw [tableBuilt, hbuilt]
    exact latch_noticed _ .link
  · rw [hreach.bytes _ (.inl (by decide))]
    exact ImageAndConfig.setPhase_read _ _
  · rw [hreach.link, tableBuilt, hbuilt]
    rfl
  · rw [hreach.link, tableBuilt, hbuilt]
    rfl
  · rw [hreach.link, tableBuilt, hbuilt]
    rfl
  · rw [hreach.link, tableBuilt, hbuilt]
    rfl
  · rw [map_of_waiting _ (fun _ => rfl) hreach.nodes, hnodes, tableOf_shown]
  · have hview := map_of_waiting (fun n => (n.settled, n.silent)) (fun _ => rfl) hreach.nodes
    intro n hn
    have hmem : (n.settled, n.silent) ∈ (tableBuilt s c).link.nodes.map (fun n => (n.settled, n.silent)) :=
      hview ▸ List.mem_map_of_mem hn
    obtain ⟨m, hm, heq⟩ := List.mem_map.mp hmem
    rw [hnodes] at hm
    obtain ⟨hsettled, hsilent⟩ := tableOf_fresh 0 c.nodes m hm
    rw [Prod.mk.injEq] at heq
    exact ⟨heq.1 ▸ hsettled, heq.2 ▸ hsilent⟩
  · rw [hreach.track, tableBuilt, hbuilt]
    rfl
  · rw [hreach.inputs.coord, tableBuilt, hbuilt]
    rfl
  · rw [hreach.inputs.settings, tableBuilt, hbuilt]
    rfl
  · rw [hreach.rolls, tableBuilt, hbuilt]
    rfl
  · rw [hreach.orders, tableBuilt, hbuilt]
    rfl

/-- Settles O41. -/
theorem enumerationEnds : Obligations.EnumerationEnds := by
  unfold Obligations.EnumerationEnds
  intro s f hop slots hout henumerate chain
  have hexec : exec (.frameReturn hop slots) s
      = .next (State.enumerateReturned { s with link := { s.link with out := none } } chain) := by
    show Host.Outcome.next (s.frameReturned hop.toNat slots) = _
    unfold State.frameReturned
    rw [hout]
    exact congrArg Host.Outcome.next (if_pos henumerate)
  rw [hexec]
  refine ⟨fun hother => ?_, fun d hd hsame => ⟨_, rfl, ?_⟩⟩
  · refine congrArg Host.Outcome.next ?_
    unfold State.enumerateReturned
    cases hd : s.link.lastChain with
    | none => exact rfl
    | some d => exact if_neg (by rw [hother d hd]; decide)
  · have hbuild : State.enumerateReturned { s with link := { s.link with out := none } } chain
        = State.buildTable { s with link := { s.link with out := none } } chain := by
      unfold State.enumerateReturned
      dsimp only
      rw [hd]
      exact if_pos hsame
    rw [hbuild]
    exact buildTable_spec _ chain

end Sys2Proof.Proofs.LinkFrames
end

section
/-! PROOFS. Nodes that are not PRESENT are handed nothing by the blocks, and what a change of a node's state leaves of it. -/

namespace Sys2Proof.Proofs.NodeStates
open Sys2Proof.Machine Sys2Proof.Proofs.FaultFacts Sys2Proof.Proofs.Lookups Sys2Proof.Proofs.PlannerFacts
open Sys2Proof.Proofs.ShadeBatches

/-! ## The planner and the winder -/

theorem plan_joinReasons (s : State) (a : Int) (r : Reasons) : PlanReach s (s.joinReasons a r) :=
  .ite (.refl s) (.ite (plan_setCut s _) (plan_setCut s _))

theorem plan_mergeReasons (s : State) (b a : Int) (e : PlanEntry) : PlanReach s (s.mergeReasons b a e) := by
  unfold State.mergeReasons
  extract_lets inside src keep src' movesOn plan t u v
  have htu : PlanReach t u := .ite (plan_report t _) (.refl t)
  refine (((plan_setPlan s _).trans (plan_joinReasons _ a movesOn)).trans htu).trans ?_
  split
  · split
    · exact (plan_setCut u _).trans (plan_joinSegments v _ _ _)
    · exact .refl u
  · exact .refl u

theorem plan_mergeEntry (s : State) (b a x : Int) : PlanReach s (s.mergeEntry b a x) := by
  unfold State.mergeEntry
  split
  · exact .refl s
  · exact .ite (plan_mergeReasons s _ _ _) (.refl s)

theorem plan_mergeRequest (s : State) (b a : Int) (q : CutRequest) : PlanReach s (s.mergeRequest b a q) := by
  unfold State.mergeRequest
  extract_lets g
  have hrequest : PlanReach s (s.request q.kind q.coordinate) := plan_request s _ _
  split
  · refine .ite hrequest ?_
    split
    · exact .ite (.refl s) hrequest
    · exact .ite (plan_placeAt s _ _ _) hrequest
    · exact .ite (plan_placeAt s _ _ _) hrequest
    · exact .ite (plan_joinSegments s _ _ _) hrequest
    · exact hrequest
  · exact hrequest

theorem plan_finishClose (s : State) (b a : Int) : PlanReach s (s.finishClose b a) := by
  unfold State.finishClose
  extract_lets joining t inside u v held w
  clear_value inside held
  have htu : PlanReach t u := .ite (plan_setCut t _) (.refl t)
  have huv : PlanReach u v := .foldl (fun s x => plan_mergeEntry s b a x) _ u
  exact ((((plan_setCut s _).trans htu).trans huv).trans (plan_setCut v _)).trans
    (.foldl (fun s q => plan_mergeRequest s b a q) _ w)

theorem plan_closeAtEntry (s : State) (x : Int) : PlanReach s (s.closeAtEntry x) := by
  unfold State.closeAtEntry
  split
  · exact .refl s
  · exact (plan_setCut s _).trans (plan_finishClose _ _ _)

theorem plan_entryMoved (s : State) (x y : Int) (orderEnd : Bool) : PlanReach s (s.entryMoved x y orderEnd) := by
  unfold State.entryMoved
  extract_lets shift t
  exact (plan_setCut s _).trans (.ite (plan_report t _) (.refl t))

theorem plan_deferEntry (s : State) (e : PlanEntry) (y : Int) : PlanReach s (s.deferEntry e y) := by
  unfold State.deferEntry
  extract_lets plan t u
  have hst : PlanReach s t := .ite (.ite (.refl s) (plan_stripTarget s y)) (.refl s)
  have htu : PlanReach t u := (plan_setPlan t _).trans (plan_entryMoved _ _ _ _)
  exact (hst.trans htu).trans (.ite (plan_countFrom u y) (.refl u))

theorem plan_deferEarliest (s : State) : PlanReach s s.deferEarliest := by
  unfold State.deferEarliest
  split
  · exact .refl s
  · split
    · exact (plan_deferEntry s _ _).trans (plan_setWinder _ _)
    · exact plan_setWinder s _

theorem plan_overlengthTest (s : State) : PlanReach s s.overlengthTest := by
  unfold State.overlengthTest
  split
  · split
    · extract_lets limit
      exact .ite (plan_raise _ _ _) (.refl s)
    · exact .refl s
  · exact .refl s

theorem plan_stall (s : State) (b : Blocked) : PlanReach s (s.stall b) := by
  unfold State.stall
  extract_lets entering t u
  have htu : PlanReach t u := .ite (plan_raise t _ _) (.refl t)
  exact ((plan_setWinder s _).trans htu).trans (.ite (plan_overlengthTest u) (.refl u))

theorem plan_unstall (s : State) : PlanReach s s.unstall := .ite (.refl s) (plan_setWinder s _)

theorem plan_giveUpCut (s : State) : PlanReach s s.giveUpCut := by
  unfold State.giveUpCut
  split
  · exact .refl s
  · exact ((plan_raise s _ _).trans (plan_setWinder _ _)).trans (plan_setCut _ _)

/-- A command handed to the link, with what its block does when it is not taken. -/
theorem idle_handed {s : State} {t : Target} {c : LinkCmd} {f : State → State} (hf : ∀ u, IdleKept u (f u)) :
    IdleKept s (match s.hand t c with
      | (u, false) => u
      | (u, true) => f u) := by
  have hhand := idle_hand s t c
  split
  · rename_i heq
    rw [heq] at hhand
    exact hhand
  · rename_i heq
    rw [heq] at hhand
    exact hhand.trans (hf _)

theorem idle_cutInLost (s : State) (serial fuel : Nat) : IdleKept s (s.cutInLost serial fuel) := by
  induction fuel generalizing s with
  | zero => exact .refl s
  | succ fuel ih =>
    unfold State.cutInLost
    split
    · exact .refl s
    · extract_lets rem t
      have hsent : IdleKept s (match t.hand .winder (.cutIn rem serial) with
          | (u, false) => u
          | (u, true) => u.cutInLost serial fuel) := IdleKept.trans (t := t) (.of_link rfl) (idle_handed fun u => ih u)
      exact .ite (.refl s) (.ite (plan_giveUpCut s).idle (.ite hsent (plan_giveUpCut s).idle))

theorem idle_commitCut (s : State) (e : PlanEntry) (rem : Int) : IdleKept s (s.commitCut e rem) := by
  unfold State.commitCut
  extract_lets t u v serial c w
  have huv : PlanReach u v := .ite (plan_setCut u _) (.refl u)
  have hsw : PlanReach s w := (((plan_setPlan s _).trans (plan_setCut t _)).trans huv).trans (plan_setWinder v _)
  exact hsw.idle.trans (idle_handed fun u => idle_cutInLost u _ _)

theorem idle_decideEntry (s : State) : IdleKept s s.decideEntry := by
  unfold State.decideEntry
  split
  · exact .refl s
  · extract_lets t
    have hst : IdleKept s t := (plan_closeAtEntry s _).idle
    refine hst.trans ?_
    clear_value t
    split
    · exact .refl t
    · exact .ite (.ite (idle_commitCut t _ _) (plan_deferEarliest t).idle) (plan_stall t _).idle

theorem idle_reassess (s : State) : IdleKept s s.reassess := by
  unfold State.reassess
  refine .ite (.refl s) ?_
  split
  · exact (plan_unstall s).idle
  · extract_lets t
    have hst : IdleKept s t := (plan_unstall s).idle
    exact .ite (hst.trans (.ite (idle_decideEntry t) (.refl t))) (plan_stall s _).idle

theorem idle_nodeStateSeen (s : State) : IdleKept s s.nodeStateSeen :=
  IdleKept.trans (t := s.latch .link) (.of_link rfl) ((idle_settle _).trans (idle_reassess _))

/-! ## The shade unit -/

theorem idle_decided {s t : State} (h : Decided s t) : IdleKept s t := .of_link (by rw [h.frame])

theorem idle_decideUnit (s : State) (c : Int) (v : Verdict) (b : Nat) (counted : Bool) : IdleKept s (s.decideUnit c v b counted) :=
  idle_decided (decided_decideUnit s c v b counted)

theorem idle_decideOut (s : State) (b : Nat) (c : Int) : IdleKept s (s.decideOut b c) := by
  unfold State.decideOut
  split
  · exact .refl s
  · exact idle_decideUnit s _ _ _ _

theorem idle_decideRun (s : State) : IdleKept s s.decideRun := .of_link (by rw [(decideRun_spec s).1])

theorem idle_closeBatch (s : State) : IdleKept s s.closeBatch := .of_link (by rw [(closeBatch_frame s).1])

theorem idle_changeClassifying (s : State) (k : OrderKey) : IdleKept s (s.changeClassifying k) := by
  refine ((idle_decideRun s).trans (idle_closeBatch _)).trans (.of_link ?_)
  unfold State.changeClassifying State.zeroMirror
  rw [latch_link, partStore_link]
  exact rfl

theorem idle_openNewBatch (s : State) (c : Int) (ref : Reading) : IdleKept s (s.openNewBatch c ref) := by
  cases hc : s.unit? c with
  | none =>
    rw [State.openNewBatch, hc]
    exact .refl s
  | some u =>
    rw [openNewBatch_eq hc]
    refine ((idle_closeBatch s).trans (.of_link ?_)).trans ((plan_request _ _ _).idle.trans (.of_link rfl))
    rw [refStored_frame, runJoined_frame]

theorem idle_testRun (s : State) (body : OrderBody) : IdleKept s (s.testRun body) := by
  have hfull : IdleKept s s.tableFullRun := by
    unfold State.tableFullRun
    extract_lets run t raised u
    have hst : IdleKept s t := .foldl (fun s c => idle_decideOut s _ c) _ s
    exact (hst.trans (.of_link rfl)).trans (.ite (.refl u) (idle_raise u _ _))
  have hshed : IdleKept s s.shedRun := by
    unfold State.shedRun
    extract_lets n b t
    have hst : IdleKept s t := .foldl (fun s c => idle_decideOut s _ c) _ s
    exact hst.trans (.of_link rfl)
  unfold State.testRun
  extract_lets rs ref
  refine .ite (.ite (.ite hfull ?_) hshed) (.refl s)
  split
  · exact idle_openNewBatch s _ _
  · exact .refl s

theorem idle_joinRun (s : State) (c : Int) (body : OrderBody) : IdleKept s (s.joinRun c body) :=
  idle_testRun ((s.setUnit c (fun u => { u with verdict := .outRun })).setShade
    (fun p => { p with run := p.run ++ [c], runReadings := p.runReadings + 1 })) body

theorem idle_classifyRunning (s : State) (c : Int) (body : OrderBody) (result : Option Reading) :
    IdleKept s (s.classifyRunning c body result) := by
  unfold State.classifyRunning
  split
  · split
    · exact .ite ((idle_decideRun s).trans (idle_decideUnit _ _ _ _ _)) (idle_joinRun s _ _)
    · exact idle_joinRun s _ _
  · exact .ite (idle_decideUnit s _ _ _ _) (.of_link rfl)

theorem idle_classify (s : State) (c : Int) (result : Option Reading) : IdleKept s (s.classify c result) := by
  unfold State.classify
  split
  · exact .refl s
  · extract_lets body t k u
    have hst : IdleKept s t := by
      dsimp only [t]
      split
      · exact .of_link rfl
      · exact .refl s
    have htu : IdleKept t u := .ite (.refl t) (idle_changeClassifying t k)
    exact (hst.trans htu).trans (.ite (idle_decideUnit u _ _ _ _) (idle_classifyRunning u _ _ _))

theorem idle_drainRequests (s : State) (fuel : Nat) : IdleKept s (s.drainRequests fuel) := by
  induction fuel generalizing s with
  | zero => exact .refl s
  | succ fuel ih =>
    unfold State.drainRequests
    split
    · exact .refl s
    · rename_i q rest _
      exact .ite ((IdleKept.trans (t := s.setShade (fun p => { p with queue := rest })) (.of_link rfl) (idle_classify _ _ _)).trans
        (ih _)) (.refl s)

/-- What waits for a node that has nothing waiting stays so. -/
theorem idle_dropRequests (s : State) : IdleKept s s.dropRequests := by
  unfold State.dropRequests
  extract_lets t
  have hst : IdleKept s t := by
    intro i n hn hst hwaiting
    dsimp only [t]
    split
    next j _ =>
      show (modifyAt _ j s.link.nodes)[i]? = _
      rw [getElem?_modifyAt, hn]
      split
      · rw [Option.map_some, hwaiting, List.filter_nil, ← hwaiting]
      · rfl
    next => exact hn
  exact (hst.trans (.of_link rfl)).trans (idle_drainRequests (t.endRequests (fun _ => true)) 9)

/-! ## Commands that are lost -/

theorem idle_drawResend (s : State) : IdleKept s s.drawResend :=
  idle_hand { s with draw := { s.draw with settle := s.drawSettleLength } } .draw _

theorem idle_engageLost (s : State) : IdleKept s s.engageLost := by
  unfold State.engageLost
  have hagain : IdleKept s (match ({ s with emb := { s.emb with resent := true, timer := true } } : State).hand .emboss .engage with
      | (u, false) => u
      | (u, true) => u.enterLifted) :=
    IdleKept.trans (t := { s with emb := { s.emb with resent := true, timer := true } }) (.of_link rfl)
      (idle_handed idle_enterLifted)
  exact .ite (.refl s) (.ite hagain (idle_enterLifted s))

theorem idle_sendCalibrate (s : State) : IdleKept s s.sendCalibrate := by
  unfold State.sendCalibrate
  extract_lets again t
  have hsent : IdleKept s (match t.hand .shade (.calibrate again) with
      | (u, false) => u
      | (u, true) => u.calibrateLost again) :=
    IdleKept.trans (t := t) (.of_link rfl) (idle_handed fun u => .ite (.refl u) (.of_link rfl))
  exact .ite hsent (.refl s)

theorem idle_cmdLost (s : State) (i : Nat) (c : LinkCmd) : IdleKept s (s.cmdLost i c) := by
  unfold State.cmdLost
  split
  · exact .of_link rfl
  · exact .ite (.of_link rfl) (.refl s)
  · exact idle_engageLost s
  · exact .ite (idle_hand { s with emb := { s.emb with resent := true, timer := true } } .emboss .lift) (.refl s)
  · exact idle_drawResend s
  · exact IdleKept.trans (t := s.calibrateLost _) (.ite (.refl s) (.of_link rfl)) (idle_sendCalibrate _)
  · exact idle_cutInLost s _ _
  · exact .refl s

theorem idle_slotLost (s : State) (i : Nat) (c : SlotCmd) : IdleKept s (s.slotLost i c) := by
  unfold State.slotLost
  split
  · exact idle_cmdLost s i _
  all_goals exact .refl s

theorem cmdLost_kept (s : State) (i : Nat) (c : LinkCmd) : Kept s (s.cmdLost i c) := by
  unfold State.cmdLost
  split
  · exact kept_printTrimLost s _
  · exact kept_embossTrimLost s
  · exact kept_engageLost s
  · exact kept_liftLost s
  · exact kept_drawResend s
  · exact (kept_calibrateLost s _).trans (kept_sendCalibrate _)
  · exact kept_cutInLost s _ _
  · exact Kept.refl s

theorem slotLost_kept (s : State) (i : Nat) (c : SlotCmd) : Kept s (s.slotLost i c) := by
  unfold State.slotLost
  split
  · exact cmdLost_kept s i _
  all_goals exact Kept.refl s

/-! ## One node of the table -/

theorem getElem?_setNode_same (s : State) (i : Nat) (f : Node → Node) :
    (s.setNode i f).link.nodes[i]? = s.link.nodes[i]?.map f := by
  show (modifyAt f i s.link.nodes)[i]? = _
  rw [getElem?_modifyAt, if_pos rfl]

/-- The nodes are the same but for what waits for them. -/
def SameNodes (s t : State) : Prop :=
  t.link.nodes.map (fun n => { n with waiting := [] }) = s.link.nodes.map (fun n => { n with waiting := [] })

theorem SameNodes.node {s t : State} (h : SameNodes s t) {i : Nat} {n : Node} (hn : s.link.nodes[i]? = some n) :
    ∃ w, t.link.nodes[i]? = some { n with waiting := w } := by
  have hi : (t.link.nodes.map (fun n => { n with waiting := [] }))[i]? = some { n with waiting := [] } := by
    rw [show t.link.nodes.map _ = _ from h, List.getElem?_map, hn]
    rfl
  rw [List.getElem?_map, Option.map_eq_some_iff] at hi
  obtain ⟨m, hm, hmn⟩ := hi
  refine ⟨m.waiting, hm.trans (congrArg some ?_)⟩
  rw [Node.mk.injEq] at hmn
  obtain ⟨hkind, hserial, hst, hstation, hexpected, hsettled, hsilent, -, hlast, hwas⟩ := hmn
  rw [← hkind, ← hserial, ← hst, ← hstation, ← hexpected, ← hsettled, ← hsilent, ← hlast, ← hwas]

/-- A relation `Kept` leaves a node but for what waits for it. -/
theorem kept_node {s t : State} (h : Kept s t) {i : Nat} {n : Node} (hn : s.link.nodes[i]? = some n) :
    ∃ w, t.link.nodes[i]? = some { n with waiting := w } := SameNodes.node h.nodes hn

/-- Of the link only the nodes have changed. -/
def NodesOnly (s t : State) : Prop := t.link = { s.link with nodes := t.link.nodes }

theorem NodesOnly.trans {s t u : State} (h : NodesOnly s t) (k : NodesOnly t u) : NodesOnly s u := by
  unfold NodesOnly at *
  rw [k, h]

theorem nodesOnly_setNode (s : State) (i : Nat) (f : Node → Node) : NodesOnly s (s.setNode i f) := rfl

theorem NodesOnly.of_kept {s t : State} (h : Kept s t) : NodesOnly s t := h.link

theorem nodeStateSeen_kept (s : State) : Kept s s.nodeStateSeen :=
  ((kept_latch s .link).trans (kept_settle _)).trans (kept_reassess _)

theorem nodeStateSeen_noticed (s : State) : s.nodeStateSeen.noticed .link = true :=
  ((steady_settle (s.latch .link)).trans (steady_reassess _)).notice _ (FaultList.latch_noticed s .link)

/-- A node that leaves PRESENT has nothing waiting. -/
theorem leavePresent_spec (s : State) {i : Nat} {n : Node} {st : NodeState} (hn : s.link.nodes[i]? = some n)
    (hst : st ≠ .present) :
    (s.leavePresent i st).link.nodes[i]? = some { n with st := st, waiting := [] }
      ∧ NodesOnly s (s.leavePresent i st) ∧ (s.leavePresent i st).noticed .link = true := by
  obtain ⟨t, ht⟩ : ∃ t, t = (s.setNode i (fun n => { n with st := st, waiting := [] })).nodeStateSeen := ⟨_, rfl⟩
  obtain ⟨u, hu⟩ : ∃ u, u = n.waiting.foldl (fun s c => s.cmdLost i c) t := ⟨_, rfl⟩
  have heq : s.leavePresent i st = if u.ownerOf i = some .shade then u.dropRequests else u := by
    rw [State.leavePresent, hn, hu, ht]
  have hset : (s.setNode i (fun n => { n with st := st, waiting := [] })).link.nodes[i]?
      = some { n with st := st, waiting := [] } := by
    rw [getElem?_setNode_same, hn]
    rfl
  have htu : IdleKept t u := hu ▸ .foldl (fun s c => idle_cmdLost s i c) _ t
  have hidle : IdleKept t (s.leavePresent i st) := by
    rw [heq]
    exact htu.trans (.ite (idle_dropRequests u) (.refl u))
  have htukept : Kept t u := hu ▸ kept_foldl (fun s c => cmdLost_kept s i c) _ t
  have hkept : Kept t (s.leavePresent i st) := by
    rw [heq]
    exact htukept.trans (Kept.ite (kept_dropRequests u) (Kept.refl u))
  have htusteady : Steady t u := hu ▸ steady_foldl (fun s c => steady_cmdLost s i c) _ t
  have hsteady : Steady t (s.leavePresent i st) := by
    rw [heq]
    exact htusteady.trans (Steady.ite (steady_dropRequests u) (Steady.refl u))
  refine ⟨hidle i _ (ht ▸ idle_nodeStateSeen _ i _ hset hst rfl) hst rfl, ?_, hsteady.notice _ (ht ▸ nodeStateSeen_noticed _)⟩
  have hst : NodesOnly s t := by
    rw [ht]
    exact NodesOnly.trans (nodesOnly_setNode s i (fun n => { n with st := st, waiting := [] })) (.of_kept (nodeStateSeen_kept _))
  exact hst.trans (.of_kept hkept)

/-- A node that takes a state other than PRESENT. -/
theorem nodeTo_spec (s : State) {i : Nat} {n : Node} {st : NodeState} (hn : s.link.nodes[i]? = some n) (hst : st ≠ .present)
    (hmismatched : n.st ≠ .mismatched) :
    ∃ w, (s.nodeTo i st).link.nodes[i]? = some { n with st := st, waiting := w } ∧ (n.st = .present → w = [])
      ∧ NodesOnly s (s.nodeTo i st) ∧ (n.st ≠ st → (s.nodeTo i st).noticed .link = true) := by
  have heq : s.nodeTo i st = if n.st = st ∨ n.st = .mismatched then s
      else if n.st = .present then s.leavePresent i st
      else (s.setNode i (fun n => { n with st := st })).nodeStateSeen := by
    rw [State.nodeTo, hn]
  rw [heq]
  split
  next hsame =>
    have hsame : n.st = st := hsame.resolve_right hmismatched
    exact ⟨n.waiting, by rw [← hsame]; exact hn, fun hp => absurd (hsame.symm.trans hp) hst, rfl, fun h => absurd hsame h⟩
  next =>
    split
    next =>
      obtain ⟨hnode, honly, hnotice⟩ := leavePresent_spec s hn hst
      exact ⟨[], hnode, fun _ => rfl, honly, fun _ => hnotice⟩
    next hnot =>
      have hset : (s.setNode i (fun n => { n with st := st })).link.nodes[i]? = some { n with st := st } := by
        rw [getElem?_setNode_same, hn]
        rfl
      obtain ⟨w, hw⟩ := kept_node (nodeStateSeen_kept (s.setNode i (fun n => { n with st := st }))) hset
      exact ⟨w, hw, fun hp => absurd hp hnot,
        NodesOnly.trans (nodesOnly_setNode s i _) (.of_kept (nodeStateSeen_kept _)), fun _ => nodeStateSeen_noticed _⟩

end Sys2Proof.Proofs.NodeStates
end

section
/-! PROOFS. How a good cycle frame is judged: counters, restarts, mismatched kinds and the hop count (R146, R147, R152; O42). -/

namespace Sys2Proof.Proofs.RepliesJudged
open Sys2Proof.Machine Sys2Proof.Proofs.FaultFacts Sys2Proof.Proofs.Lookups Sys2Proof.Proofs.PlannerFacts
open Sys2Proof.Proofs.NodeStates

/-! ## The counter of a reply -/

/-- The state in which a reply of the node at index `i` is judged. -/
def heard (s : State) (i : Nat) : State := s.setNode i (fun m => { m with silent := 0 })

/-- A node's count settles at the counter of a reply. -/
def settledAt (s : State) (i counter : Nat) : State := s.setNode i (fun m => { m with expected := counter, settled := true })

theorem heard_node {s : State} {i : Nat} {n : Node} (hn : s.link.nodes[i]? = some n) :
    (heard s i).link.nodes[i]? = some { n with silent := 0 } := by
  rw [heard, getElem?_setNode_same, hn]
  rfl

theorem judgeCounter_idle_unsettled (s : State) (i : Nat) {n : Node} (q counter : Nat) (h : n.settled = false) :
    s.judgeCounter i n .idle q counter = settledAt s i counter := by
  simp only [State.judgeCounter, h, if_true]
  exact rfl

theorem judgeCounter_idle_agrees (s : State) (i : Nat) {n : Node} (q : Nat) {counter : Nat} (h : n.settled = true)
    (heq : counter = n.expected) : s.judgeCounter i n .idle q counter = s := by
  simp only [State.judgeCounter, h, heq, if_true, Bool.true_eq_false, if_false]

theorem judgeCounter_idle_differs (s : State) (i : Nat) {n : Node} (q : Nat) {counter : Nat} (h : n.settled = true)
    (hne : counter ≠ n.expected) : s.judgeCounter i n .idle q counter = (settledAt s i counter).raise commandLost (i + 1) := by
  simp only [State.judgeCounter, h, if_true, Bool.true_eq_false, if_false, if_neg hne]
  exact rfl

theorem judgeCounter_executed (s : State) (i : Nat) (n : Node) {c : SlotCmd} {q counter : Nat} (hc : c ≠ .idle)
    (heq : counter = q) : s.judgeCounter i n c q counter = settledAt s i counter := by
  simp only [State.judgeCounter, if_neg hc, if_pos heq]
  exact rfl

theorem judgeCounter_lost (s : State) (i : Nat) (n : Node) {c : SlotCmd} {q counter : Nat} (hc : c ≠ .idle)
    (hne : counter ≠ q) : s.judgeCounter i n c q counter = settledAt ((s.slotLost i c).raise commandLost (i + 1)) i counter := by
  simp only [State.judgeCounter, if_neg hc, if_neg hne]
  exact rfl

/-- A reply of another kind than the table's. -/
theorem judgeReply_mismatch {s : State} {i : Nat} {n : Node} (hn : s.link.nodes[i]? = some n) (sent : SentSlot) {l : List Byte}
    (hkind : (l.getD 1 0).toNat / 16 ≠ n.kind) :
    s.judgeReply i sent l = if n.st = .mismatched then heard s i else (heard s i).mismatch i sent.carries := by
  simp only [State.judgeReply, getElem?_setNode_same, hn, Option.map_some, if_pos hkind]
  exact rfl

/-- A reply of the table's kind with the counter 0 where another was expected. -/
theorem judgeReply_restart {s : State} {i : Nat} {n : Node} (hn : s.link.nodes[i]? = some n) (sent : SentSlot) {l : List Byte}
    (hkind : (l.getD 1 0).toNat / 16 = n.kind) (hcounter : (l.getD 1 0).toNat % 16 = 0) (hexpected : n.expected ≠ 0) :
    s.judgeReply i sent l = if n.st = .mismatched then (heard s i).restarted i sent.carries
      else ((heard s i).restarted i sent.carries).deliver i l := by
  simp only [State.judgeReply, getElem?_setNode_same, hn, Option.map_some, hkind, hcounter, hexpected, ne_eq, not_true_eq_false,
    if_false, not_false_eq_true, and_self, if_true]
  exact rfl

/-- A reply of the table's kind that shows no restart. -/
theorem judgeReply_counter {s : State} {i : Nat} {n : Node} (hn : s.link.nodes[i]? = some n) (sent : SentSlot) {l : List Byte}
    (hkind : (l.getD 1 0).toNat / 16 = n.kind) (hcounter : (l.getD 1 0).toNat % 16 = 0 → n.expected = 0) {t : State}
    (ht : ((heard s i).judgeCounter i { n with silent := 0 } sent.carries (sent.bytes.toList.getD 1 0).toNat
      ((l.getD 1 0).toNat % 16)).afterJudging i { n with silent := 0 } sent.carries
        (decide ((l.getD 0 0).toNat = 0) && decide ((l.getD 1 0).toNat % 16 = (sent.bytes.toList.getD 1 0).toNat)) = t) :
    s.judgeReply i sent l = if n.st = .mismatched then t else t.deliver i l := by
  have hnone : ¬ ((l.getD 1 0).toNat % 16 = 0 ∧ n.expected ≠ 0) := fun h => h.2 (hcounter h.1)
  simp only [State.judgeReply, getElem?_setNode_same, hn, Option.map_some, hkind, ne_eq, not_true_eq_false, if_false, if_neg hnone]
  rw [← ht]
  exact rfl

theorem afterJudging_present (s : State) (i : Nat) {n : Node} (c : SlotCmd) (executed : Bool) (h : n.st = .present) :
    s.afterJudging i n c executed = s := by rw [State.afterJudging, h]

theorem afterJudging_mismatched (s : State) (i : Nat) {n : Node} (c : SlotCmd) (executed : Bool) (h : n.st = .mismatched) :
    s.afterJudging i n c executed = s := by rw [State.afterJudging, h]

theorem afterJudging_configuring (s : State) (i : Nat) {n : Node} (executed : Bool) (h : n.st = .configuring) :
    s.afterJudging i n .configure executed = if executed = true then s.nodePresents i else s := by
  simp only [State.afterJudging, h, true_and]

/-- A PRESENT node that shows no restart has its counter judged, and its value is delivered. -/
theorem judgeReply_present {s : State} {i : Nat} {n : Node} (hn : s.link.nodes[i]? = some n) (hst : n.st = .present)
    (sent : SentSlot) {l : List Byte} (hkind : (l.getD 1 0).toNat / 16 = n.kind)
    (hcounter : (l.getD 1 0).toNat % 16 = 0 → n.expected = 0) :
    s.judgeReply i sent l = ((heard s i).judgeCounter i { n with silent := 0 } sent.carries (sent.bytes.toList.getD 1 0).toNat
      ((l.getD 1 0).toNat % 16)).deliver i l := by
  rw [judgeReply_counter hn sent hkind hcounter (afterJudging_present _ i _ _ hst), if_neg (by rw [hst]; decide)]

/-- A MISMATCHED node that shows its kind again and no restart has its counter judged alone. -/
theorem judgeReply_mismatched {s : State} {i : Nat} {n : Node} (hn : s.link.nodes[i]? = some n) (hst : n.st = .mismatched)
    (sent : SentSlot) {l : List Byte} (hkind : (l.getD 1 0).toNat / 16 = n.kind)
    (hcounter : (l.getD 1 0).toNat % 16 = 0 → n.expected = 0) :
    s.judgeReply i sent l = (heard s i).judgeCounter i { n with silent := 0 } sent.carries (sent.bytes.toList.getD 1 0).toNat
      ((l.getD 1 0).toNat % 16) := by
  rw [judgeReply_counter hn sent hkind hcounter (afterJudging_mismatched _ i _ _ hst), if_pos hst]

/-- A CONFIGURING node whose CONFIGURE was in the slot. -/
theorem judgeReply_configuring {s : State} {i : Nat} {n : Node} (hn : s.link.nodes[i]? = some n) (hst : n.st = .configuring)
    {sent : SentSlot} (hsent : sent.carries = .configure) {l : List Byte} (hkind : (l.getD 1 0).toNat / 16 = n.kind)
    (hcounter : (l.getD 1 0).toNat % 16 = 0 → n.expected = 0) {t : State}
    (ht : (heard s i).judgeCounter i { n with silent := 0 } .configure (sent.bytes.toList.getD 1 0).toNat
      ((l.getD 1 0).toNat % 16) = t) :
    s.judgeReply i sent l =
      (if (l.getD 0 0).toNat = 0 ∧ (l.getD 1 0).toNat % 16 = (sent.bytes.toList.getD 1 0).toNat then t.nodePresents i
        else t).deliver i l := by
  rw [judgeReply_counter hn sent hkind hcounter rfl, hsent, if_neg (by rw [hst]; decide), ht,
    afterJudging_configuring (n := { n with silent := 0 }) _ _ _ hst]
  simp only [Bool.and_eq_true, decide_eq_true_eq]

/-! ## A node comes to PRESENT, or restarts -/

/-- A node that goes to PRESENT is so, whatever its block does. -/
theorem nodePresents_spec {s : State} {i : Nat} {n : Node} (hn : s.link.nodes[i]? = some n) :
    (s.nodePresents i).noticed .link = true
      ∧ ∃ w, (s.nodePresents i).link.nodes[i]? = some { n with st := .present, waiting := w } := by
  obtain ⟨t, ht⟩ : ∃ t, t = (s.setNode i (fun n => { n with st := .present })).nodeStateSeen := ⟨_, rfl⟩
  have hblock : Kept t (s.nodePresents i) ∧ Steady t (s.nodePresents i) := by
    rw [State.nodePresents, ← ht]
    split
    · exact ⟨kept_drawPresent t, steady_drawPresent t⟩
    · exact ⟨kept_sendCalibrate t, steady_sendCalibrate t⟩
    · exact ⟨.refl t, .refl t⟩
  have hset : (s.setNode i (fun n => { n with st := .present })).link.nodes[i]? = some { n with st := .present } := by
    rw [getElem?_setNode_same, hn]
    rfl
  have hnoticed : t.noticed .link = true := ht ▸ nodeStateSeen_noticed _
  exact ⟨hblock.2.notice _ hnoticed, kept_node ((ht ▸ nodeStateSeen_kept _ : Kept _ t).trans hblock.1) hset⟩

theorem tellRestart_sameNodes (s : State) (i : Nat) : SameNodes s (s.tellRestart i) := by
  unfold State.tellRestart
  split
  · exact (kept_printRestarted s _).nodes
  · exact (kept_embossRestarted s).nodes
  · exact (kept_drawResend s).nodes
  · exact (kept_shadeRestarted s).nodes
  · exact ((kept_giveUpCut (s.setWinder (fun w => { w with spindles := none }))).trans (kept_reassess _)).nodes
  · exact rfl

/-- A restart of a PRESENT node leaves it CONFIGURING with a settled count of 0 and nothing waiting. -/
theorem restarted_spec {s : State} {i : Nat} {n : Node} (hn : s.link.nodes[i]? = some n) (hst : n.st = .present) (c : SlotCmd) :
    (s.restarted i c).noticed .link = true
      ∧ (s.restarted i c).link.nodes[i]? =
        some { n with st := .configuring, expected := 0, settled := true, waiting := [], lastEvent := 0 } := by
  obtain ⟨t, ht⟩ : ∃ t, t = s.raise nodeRestarted (i + 1) := ⟨_, rfl⟩
  obtain ⟨u, hu⟩ : ∃ u, u = (t.setNode i (fun n => { n with expected := 0, settled := true })).tellRestart i := ⟨_, rfl⟩
  obtain ⟨v, hv⟩ : ∃ v, v = u.nodeTo i .configuring := ⟨_, rfl⟩
  obtain ⟨w, hw⟩ : ∃ w, w = (v.slotLost i c).clear nodeSilent (i + 1) := ⟨_, rfl⟩
  have heq : s.restarted i c = w.setNode i (fun n => { n with lastEvent := 0 }) := by rw [State.restarted, hw, hv, hu, ht]
  obtain ⟨wt, htnode⟩ := kept_node (ht ▸ kept_raise s _ _ : Kept s t) hn
  have hset : (t.setNode i (fun n => { n with expected := 0, settled := true })).link.nodes[i]? =
      some { n with expected := 0, settled := true, waiting := wt } := by
    rw [getElem?_setNode_same, htnode]
    rfl
  obtain ⟨wu, hunode⟩ := SameNodes.node (hu ▸ tellRestart_sameNodes _ i : SameNodes _ u) hset
  obtain ⟨wv, hvnode, hempty, -, hnotice⟩ := nodeTo_spec u hunode (st := .configuring) (by decide) (by rw [hst]; decide)
  rw [hempty hst, ← hv] at hvnode
  have hlost : IdleKept v w := hw ▸ (idle_slotLost v i c).trans (idle_clear _ _ _)
  have hwnode := hlost i _ hvnode nofun rfl
  have hnoticed : w.noticed .link = true := by
    rw [hw, hv]
    exact ((steady_slotLost _ i c).trans (steady_clear _ _ _)).notice _ (hnotice (by rw [hst]; decide))
  rw [heq]
  refine ⟨hnoticed, ?_⟩
  rw [getElem?_setNode_same, hwnode]
  rfl

/-! ## Another kind -/

/-- Raising a condition activates no other. -/
theorem raise_activates_itself (s : State) {code subject code' : Nat} (subject' : Nat) (hc : isEventKind code = false)
    (hne : code' ≠ code) (h : s.faultActive code' subject' = false) :
    (s.raise code subject).faultActive code' subject' = false := by
  rw [Bool.eq_false_iff, ne_eq, faultActive_iff] at h ⊢
  intro hmem
  have hmem := mem_of_settle_active _ hmem
  rw [raiseCore_active_condition s subject hc] at hmem
  split at hmem
  · exact h hmem
  · rcases List.mem_append.mp hmem with hmem | hmem
    · exact h hmem
    · exact hne (congrArg FaultId.code (List.mem_singleton.mp hmem))

/-- ARRANGEMENT is raised in OPERATING alone, where it is not active. -/
theorem raiseArrangement_spec (s : State) (p : Nat) :
    (s.raiseArrangement p (s.faultActive arrangementFault p)
        = if s.port.phase = .operating ∧ s.faultActive arrangementFault p = false then s.raise arrangementFault p else s)
      ∧ (s.port.phase = .operating →
        (s.raiseArrangement p (s.faultActive arrangementFault p)).faultActive arrangementFault p = true) := by
  refine ⟨rfl, fun hphase => ?_⟩
  rw [State.raiseArrangement]
  split
  next => exact raise_faultActive s (code := arrangementFault) p rfl (by decide) (by decide)
  next h => exact (Bool.not_eq_false _).mp fun hinactive => h ⟨hphase, hinactive⟩

/-- What a change of a mismatched kind leaves: the table stale, the node MISMATCHED with nothing waiting where it was PRESENT. -/
theorem mismatch_spec {s : State} {i : Nat} {n : Node} (hn : s.link.nodes[i]? = some n) (hst : n.st ≠ .mismatched) (c : SlotCmd) :
    let t := s.mismatch i c
    t.link.stale = true ∧ t.noticed .link = true ∧ t.faultActive nodeSilent (i + 1) = false
      ∧ (s.port.phase = .operating → t.faultActive arrangementFault (i + 1) = true)
      ∧ (∃ w, t.link.nodes[i]? = some { n with st := .mismatched, waiting := w } ∧ (n.st = .present → w = [])) := by
  obtain ⟨a, ha⟩ : ∃ a, a = (s.setLink (fun l => { l with stale := true })).slotLost i c := ⟨_, rfl⟩
  obtain ⟨b, hb⟩ : ∃ b, b = (a.nodeTo i .mismatched).clear nodeSilent (i + 1) := ⟨_, rfl⟩
  obtain ⟨t, ht⟩ : ∃ t, t = b.raiseArrangement (i + 1) (b.faultActive arrangementFault (i + 1)) := ⟨_, rfl⟩
  have heq : s.mismatch i c = t := by rw [State.mismatch, ht, hb, ha]
  have hlost : Kept (s.setLink (fun l => { l with stale := true })) a := ha ▸ slotLost_kept _ i c
  obtain ⟨wa, hanode⟩ := kept_node hlost (n := n) hn
  obtain ⟨w, hnode, hempty, honly, hnotice⟩ := nodeTo_spec a hanode (st := .mismatched) (by decide) hst
  have hkept : Kept (a.nodeTo i .mismatched) t := by
    rw [ht, hb]
    exact (kept_clear _ _ _).trans (Kept.ite (kept_raise _ _ _) (.refl _))
  have hidle : IdleKept (a.nodeTo i .mismatched) t := by
    rw [ht, hb]
    exact (idle_clear _ _ _).trans (.ite (idle_raise _ _ _) (.refl _))
  have hsteady : Steady (a.nodeTo i .mismatched) t := by
    rw [ht, hb]
    exact (steady_clear _ _ _).trans (Steady.ite (steady_raise _ _ _) (.refl _))
  have hphase : b.port.phase = s.port.phase := by
    have hport : b.port = _ := ((steady_slotLost (s.setLink (fun l => { l with stale := true })) i c).trans
      (ha ▸ hb ▸ (steady_nodeTo a i .mismatched).trans (steady_clear _ nodeSilent (i + 1)))).port
    rw [hport]
    rfl
  have hstale : t.link.stale = true := by
    have hlink : NodesOnly (s.setLink (fun l => { l with stale := true })) t :=
      ((NodesOnly.of_kept hlost).trans honly).trans (.of_kept hkept)
    rw [show t.link = _ from hlink]
    rfl
  rw [heq]
  refine ⟨hstale, hsteady.notice _ (hnotice hst), ?_, fun h => ht ▸ (raiseArrangement_spec b (i + 1)).2 (hphase.trans h), ?_⟩
  · have hsilent : b.faultActive nodeSilent (i + 1) = false := hb ▸ clear_faultActive _ _ _
    rw [ht, State.raiseArrangement]
    split
    · exact raise_activates_itself b _ rfl (by decide) hsilent
    · exact hsilent
  · by_cases hpresent : n.st = .present
    · rw [hempty hpresent] at hnode
      exact ⟨[], hidle i _ hnode nofun rfl, fun _ => rfl⟩
    · obtain ⟨w', hw'⟩ := kept_node hkept hnode
      exact ⟨w', hw', fun h => absurd h hpresent⟩

theorem modifyAt_eq_set {α : Type} (f : α → α) {i : Nat} {l : List α} {a : α} (h : l[i]? = some a) :
    modifyAt f i l = l.set i (f a) := by
  refine List.ext_getElem? fun j => ?_
  rw [getElem?_modifyAt, List.getElem?_set]
  split
  next hij =>
    obtain ⟨hi, _⟩ := List.getElem?_eq_some_iff.mp h
    rw [← hij, h, if_pos hi]
    rfl
  next => rfl

/-! ## A good frame -/

theorem frameReturned_none {s : State} (h : s.link.out = none) (hop : Nat) (slots : List Slot) : s.frameReturned hop slots = s := by
  simp only [State.frameReturned, h]

/-- A good CYCLE frame: what its hop count changes, then its slots. -/
theorem frameReturned_cycle {s : State} {f : Frame} (h : s.link.out = some f) (hf : f.enumerate = false) (hop : Nat)
    (slots : List Slot) :
    s.frameReturned hop slots = State.settlePlan (State.countCycles (State.judgeSlots
      (if hop = s.link.n then { s with link := { s.link with out := none, badRun := 0 } }
        else State.raiseArrangement { s with link := { s.link with out := none, badRun := 0, stale := true } } (min hop s.link.n + 1)
          (s.faultActiveAny arrangementFault)) 0 f.slots slots)) := by
  simp only [State.frameReturned, h, hf, Bool.false_eq_true, if_false]
  exact rfl

theorem faultActiveAny_iff (s : State) (code : Nat) :
    s.faultActiveAny code = false ↔ ∀ a ∈ s.fault.active, a.code ≠ code := by
  simp only [State.faultActiveAny, List.any_eq_false, decide_eq_true_eq, ne_eq]

/-- Settles O42: each kind of reply is judged by the equation of its case (`judgeReply_present` and its like), and what a restart and
a mismatched kind leave of a node is `restarted_spec` and `mismatch_spec`. -/
theorem cycleFrameJudged : Obligations.CycleFrameJudged := by
  unfold Obligations.CycleFrameJudged
  intro s
  refine ⟨fun h hop slots => congrArg Host.Outcome.next (frameReturned_none h _ slots), ?goodFrame, ?present, ?mismatched,
    ?configuring, ?restart, ?otherKind, ?hopCount⟩
  case goodFrame =>
    intro f hop slots h hf hhop
    refine congrArg Host.Outcome.next ((frameReturned_cycle h hf _ slots).trans ?_)
    rw [if_pos hhop]
  case present =>
    intro i n sent l hn hst hkind hcounter
    have hjudged := judgeReply_present hn hst sent hkind hcounter
    refine ⟨fun c hc => ⟨fun heq => ?_, fun hne => ?_⟩, fun hc => ⟨fun h => ?_, fun h heq => ?_, fun h hne => ?_⟩⟩
    · exact hjudged.trans (congrArg (State.deliver · i l) (judgeCounter_executed _ i _ (by rw [hc]; nofun) heq))
    · exact hjudged.trans (congrArg (State.deliver · i l) (judgeCounter_lost _ i _ (by rw [hc]; nofun) hne))
    · rw [hc] at hjudged
      exact hjudged.trans (congrArg (State.deliver · i l) (judgeCounter_idle_unsettled _ i _ _ h))
    · rw [hc] at hjudged
      exact hjudged.trans (congrArg (State.deliver · i l) (judgeCounter_idle_agrees _ i _ h heq))
    · rw [hc] at hjudged
      exact hjudged.trans (congrArg (State.deliver · i l) (judgeCounter_idle_differs _ i _ h hne))
  case mismatched =>
    intro i n sent l hn hst
    refine ⟨fun st => ?_, fun hkind => ?_, fun hkind => ⟨fun hzero hexpected => ?_, fun hcounter hc => ?_⟩⟩
    · simp only [State.nodeTo, hn, hst, or_true, if_true]
    · exact (judgeReply_mismatch hn sent hkind).trans (if_pos hst)
    · exact (judgeReply_restart hn sent hkind hzero hexpected).trans (if_pos hst)
    · have hjudged := judgeReply_mismatched hn hst sent hkind hcounter
      rw [hc] at hjudged
      exact ⟨fun h => hjudged.trans (judgeCounter_idle_unsettled _ i _ _ h),
        fun h heq => hjudged.trans (judgeCounter_idle_agrees _ i _ h heq),
        fun h hne => hjudged.trans (judgeCounter_idle_differs _ i _ h hne)⟩
  case configuring =>
    intro i n sent l hn hst hsent hkind hcounter
    have hexecuted (heq : (l.getD 1 0).toNat % 16 = (sent.bytes.toList.getD 1 0).toNat) :=
      judgeReply_configuring hn hst hsent hkind hcounter (judgeCounter_executed _ i _ nofun heq)
    refine ⟨fun heq hstatus => ?_, fun heq hstatus => ?_, fun hne => ?_⟩
    · have hset : (settledAt (heard s i) i ((l.getD 1 0).toNat % 16)).link.nodes[i]? =
          some { n with silent := 0, expected := (l.getD 1 0).toNat % 16, settled := true } := by
        rw [settledAt, getElem?_setNode_same, heard_node hn]
        rfl
      obtain ⟨hnotice, w, hnode⟩ := nodePresents_spec hset
      exact ⟨(hexecuted heq).trans (by rw [if_pos ⟨congrArg BitVec.toNat hstatus, heq⟩]; rfl), hnotice, _, hnode, rfl, rfl⟩
    · exact (hexecuted heq).trans (by rw [if_neg fun h => hstatus (BitVec.eq_of_toNat_eq h.1)]; rfl)
    · exact (judgeReply_configuring hn hst hsent hkind hcounter (judgeCounter_lost _ i _ nofun hne)).trans
        (by rw [if_neg fun h => hne h.2]; rfl)
  case restart =>
    intro i n sent l hn hst hkind hzero hexpected
    obtain ⟨hnotice, hnode⟩ := restarted_spec (heard_node hn) hst sent.carries
    exact ⟨rfl, (judgeReply_restart hn sent hkind hzero hexpected).trans (if_neg (by rw [hst]; decide)), hnotice, _, hnode, rfl,
      rfl, rfl, rfl, rfl⟩
  case otherKind =>
    intro i n sent l hn hst hkind lost left t
    have ht : t = (heard s i).mismatch i sent.carries := (judgeReply_mismatch hn sent hkind).trans (if_neg hst)
    obtain ⟨hstale, hnotice, hsilent, harrangement, w, hnode, hempty⟩ := mismatch_spec (heard_node hn) hst sent.carries
    have hlost : lost = ((heard s i).setLink (fun l => { l with stale := true })).slotLost i sent.carries := by
      dsimp only [lost]
      rw [← modifyAt_eq_set (fun n => { n with silent := 0 }) hn]
      rfl
    have hleft : (heard s i).mismatch i sent.carries
        = left.raiseArrangement (i + 1) (left.faultActive arrangementFault (i + 1)) := by
      dsimp only [left]
      rw [hlost]
      rfl
    have hphase : left.port.phase = s.port.phase := by
      have hport := ((steady_slotLost ((heard s i).setLink (fun l => { l with stale := true })) i sent.carries).trans
        ((steady_nodeTo _ i .mismatched).trans (steady_clear _ nodeSilent (i + 1)))).port
      dsimp only [left]
      rw [hlost, hport]
      rfl
    rw [ht]
    refine ⟨?_, hstale, hnotice, hsilent, harrangement, _, hnode, rfl, hempty⟩
    rw [hleft, ← hphase]
    exact (raiseArrangement_spec left (i + 1)).1
  case hopCount =>
    intro f hop slots h hf hhop stale u
    have hu : stale.raiseArrangement (min hop.toNat s.link.n + 1) (s.faultActiveAny arrangementFault) = u := by
      simp only [State.raiseArrangement, faultActiveAny_iff]
      rfl
    refine ⟨congrArg Host.Outcome.next ((frameReturned_cycle h hf _ slots).trans ?_), fun hphase => ?_⟩
    · rw [if_neg hhop]
      exact congrArg (fun u => State.settlePlan (State.countCycles (State.judgeSlots u 0 f.slots slots))) hu
    · by_cases hactive : ∀ a ∈ s.fault.active, a.code ≠ arrangementFault
      · have hraised : u = stale.raise arrangementFault (min hop.toNat s.link.n + 1) := if_pos ⟨hphase, hactive⟩
        have hmem := (faultActive_iff _ _ _).mp
          (raise_faultActive stale (code := arrangementFault) (min hop.toNat s.link.n + 1) rfl (by decide) (by decide))
        exact ⟨_, hraised ▸ hmem, rfl⟩
      · have hkept : u = stale := if_neg fun hboth => hactive hboth.2
        push Not at hactive
        obtain ⟨a, ha, hcode⟩ := hactive
        exact ⟨a, hkept ▸ ha, hcode⟩

end Sys2Proof.Proofs.RepliesJudged
end

section
/-! PROOFS. Frames that give no reply: the slots that went unanswered, lost commands and silent nodes (R145, R148; O43). -/

namespace Sys2Proof.Proofs.UnheardFrames
open Sys2Proof.Machine Sys2Proof.Proofs.FaultFacts Sys2Proof.Proofs.Lookups Sys2Proof.Proofs.PlannerFacts
open Sys2Proof.Proofs.NodeStates Sys2Proof.Proofs.RepliesJudged

/-! ## Bad frames -/

theorem frameFailed_none {s : State} (h : s.link.out = none) (returned : Bool) : s.frameFailed returned = s := by
  simp only [State.frameFailed, h]

theorem frameFailed_enumerate {s : State} {f : Frame} (h : s.link.out = some f) (hf : f.enumerate = true) (returned : Bool) :
    s.frameFailed returned = { s with link := { s.link with out := none, lastChain := none } } := by
  simp only [State.frameFailed, h, hf, if_true]
  exact rfl

/-- A bad CYCLE frame that came back. -/
theorem frameFailed_cycle {s : State} {f : Frame} (h : s.link.out = some f) (hf : f.enumerate = false) :
    s.frameFailed true = State.settlePlan (State.countCycles (State.badFrame
      (State.allUnanswered { s with link := { s.link with out := none } } 0 f.slots))) := by
  simp only [State.frameFailed, h, hf, Bool.false_eq_true, if_false, if_true]
  exact rfl

/-! ## Nodes that are not heard -/

/-- A node that was not heard once more. -/
def unheardOnce (n : Node) : Node := { n with silent := n.silent + 1 }

/-- The node at index `i` with its silent count risen from that of `n`. -/
def countedSilent (s : State) (i : Nat) (n : Node) : State := s.setNode i (fun m => { m with silent := saturate 3 (n.silent + 1) })

/-- A node that goes SILENT keeps whether it was CONFIGURING. -/
def rememberedState (s : State) (i : Nat) (n : Node) : State :=
  s.setNode i (fun m => { m with wasConfiguring := decide (n.st = .configuring) })

theorem nodeUnheard_eq {s : State} {i : Nat} {n : Node} (hn : s.link.nodes[i]? = some n) :
    s.nodeUnheard i = if 3 ≤ saturate 3 (n.silent + 1) ∧ (n.st = .present ∨ n.st = .configuring) then
      ((rememberedState (countedSilent s i n) i n).nodeTo i .silent).raise nodeSilent (i + 1) else countedSilent s i n := by
  rw [State.nodeUnheard, hn]
  rfl

theorem countedSilent_node {s : State} {i : Nat} {n : Node} (hn : s.link.nodes[i]? = some n) :
    (countedSilent s i n).link.nodes[i]? = some { n with silent := min 3 (n.silent + 1) } := by
  rw [countedSilent, getElem?_setNode_same, hn]
  rfl

theorem nodeUnheard_early {s : State} {i : Nat} {n : Node} (hn : s.link.nodes[i]? = some n) (h : n.silent + 1 < 3) :
    s.nodeUnheard i = { s with link := { s.link with nodes := s.link.nodes.set i (unheardOnce n) } } := by
  have hcount : saturate 3 (n.silent + 1) = n.silent + 1 := min_eq_right (by omega)
  rw [nodeUnheard_eq hn, if_neg (by rw [hcount]; omega), countedSilent, State.setNode, modifyAt_eq_set _ hn, hcount]
  rfl

/-- A node that is not heard for the third time goes SILENT, and keeps its counts. -/
theorem nodeUnheard_silent {s : State} {i : Nat} {n : Node} (hn : s.link.nodes[i]? = some n)
    (hst : n.st = .present ∨ n.st = .configuring) (h : 2 ≤ n.silent) :
    (s.nodeUnheard i).faultActive nodeSilent (i + 1) = true ∧ (s.nodeUnheard i).noticed .link = true
      ∧ ∃ m, (s.nodeUnheard i).link.nodes[i]? = some m ∧ m.st = .silent ∧ m.settled = n.settled ∧ m.expected = n.expected
        ∧ m.silent = min 3 (n.silent + 1) := by
  have hcount : 3 ≤ saturate 3 (n.silent + 1) := le_min le_rfl (by omega)
  have hnode : (rememberedState (countedSilent s i n) i n).link.nodes[i]?
      = some { n with silent := min 3 (n.silent + 1), wasConfiguring := decide (n.st = .configuring) } := by
    rw [rememberedState, getElem?_setNode_same, countedSilent_node hn]
    rfl
  have hmismatched : n.st ≠ .mismatched := by rcases hst with hst | hst <;> rw [hst] <;> decide
  have hsilent : n.st ≠ .silent := by rcases hst with hst | hst <;> rw [hst] <;> decide
  obtain ⟨w, hw, -, -, hnotice⟩ := nodeTo_spec _ hnode (st := .silent) (by decide) hmismatched
  obtain ⟨w', hw'⟩ := kept_node (kept_raise _ nodeSilent (i + 1)) hw
  rw [nodeUnheard_eq hn, if_pos ⟨hcount, hst⟩]
  exact ⟨raise_faultActive _ (code := nodeSilent) _ rfl (by decide) (by decide), (steady_raise _ _ _).notice _ (hnotice hsilent),
    _, hw', rfl, rfl, rfl, rfl⟩

/-- What a missing reply leaves of a node. -/
theorem nodeUnheard_node {s : State} {i : Nat} {n : Node} (hn : s.link.nodes[i]? = some n) :
    ∃ m, (s.nodeUnheard i).link.nodes[i]? = some m ∧ m.settled = n.settled ∧ m.expected = n.expected
      ∧ m.silent = min 3 (n.silent + 1) := by
  by_cases h : 3 ≤ saturate 3 (n.silent + 1) ∧ (n.st = .present ∨ n.st = .configuring)
  · obtain ⟨hcount, hst⟩ := h
    have hcount : 3 ≤ n.silent + 1 := hcount.trans (min_le_right _ _)
    obtain ⟨-, -, m, hm, -, hrest⟩ := nodeUnheard_silent hn hst (by omega)
    exact ⟨m, hm, hrest⟩
  · rw [nodeUnheard_eq hn, if_neg h]
    exact ⟨_, countedSilent_node hn, rfl, rfl, rfl⟩

/-- IDLE slots alone leave every node of the rest of the chain unheard once more. -/
theorem allUnanswered_idle (slots : List SentSlot) (s : State) (heardOf rest : List Node) (hnodes : s.link.nodes = heardOf ++ rest)
    (hidle : ∀ x ∈ slots, x.carries = .idle) (hlen : slots.length = rest.length) (hsilent : ∀ n ∈ rest, n.silent + 1 < 3) :
    s.allUnanswered heardOf.length slots
      = { s with link := { s.link with nodes := heardOf ++ rest.map unheardOnce } } := by
  induction slots generalizing s heardOf rest with
  | nil =>
    rw [List.length_nil] at hlen
    rw [List.eq_nil_of_length_eq_zero hlen.symm] at hnodes ⊢
    rw [List.map_nil, ← hnodes]
    rfl
  | cons x slots ih =>
    cases rest with
    | nil => exact absurd hlen (Nat.succ_ne_zero _)
    | cons n rest =>
      have hn : s.link.nodes[heardOf.length]? = some n := by
        rw [hnodes, List.getElem?_append_right le_rfl, Nat.sub_self]
        rfl
      have hset : s.link.nodes.set heardOf.length (unheardOnce n) = (heardOf ++ [unheardOnce n]) ++ rest := by
        rw [hnodes, List.set_append_right _ _ le_rfl, Nat.sub_self, List.append_assoc]
        rfl
      have hslot : s.slotUnanswered heardOf.length x.carries
          = { s with link := { s.link with nodes := (heardOf ++ [unheardOnce n]) ++ rest } } := by
        rw [hidle x List.mem_cons_self, ← hset]
        exact nodeUnheard_early hn (hsilent n List.mem_cons_self)
      have hrest := ih { s with link := { s.link with nodes := (heardOf ++ [unheardOnce n]) ++ rest } }
        (heardOf ++ [unheardOnce n]) rest rfl (fun y hy => hidle y (List.mem_cons_of_mem _ hy)) (Nat.succ.inj hlen)
        (fun m hm => hsilent m (List.mem_cons_of_mem _ hm))
      rw [List.length_append, List.length_singleton] at hrest
      have hall : (heardOf ++ [unheardOnce n]) ++ rest.map unheardOnce = heardOf ++ (n :: rest).map unheardOnce := by
        rw [List.append_assoc]
        rfl
      rw [State.allUnanswered, hslot, hrest, hall]

theorem badFrame_early {s : State} (h : s.link.badRun < 99) :
    s.badFrame = { s with link := { s.link with badRun := s.link.badRun + 1 } } := if_neg (by omega)

/-- A slot that carried a command went unanswered: the node's count is unsettled. -/
theorem slotUnanswered_spec {s : State} {i : Nat} {n : Node} (hn : s.link.nodes[i]? = some n) {c : SlotCmd} (hc : c ≠ .idle) :
    s.slotUnanswered i c = ((s.slotLost i c).setNode i (fun m => { m with settled := false })).nodeUnheard i
      ∧ ∃ m, (s.slotUnanswered i c).link.nodes[i]? = some m ∧ m.settled = false ∧ m.expected = n.expected
        ∧ m.silent = min 3 (n.silent + 1) := by
  have heq : s.slotUnanswered i c = ((s.slotLost i c).setNode i (fun m => { m with settled := false })).nodeUnheard i := by
    rw [State.slotUnanswered, if_neg hc]
  obtain ⟨w, hw⟩ := kept_node (slotLost_kept s i c) hn
  have hset : ((s.slotLost i c).setNode i (fun m => { m with settled := false })).link.nodes[i]?
      = some { n with waiting := w, settled := false } := by
    rw [getElem?_setNode_same, hw]
    rfl
  exact ⟨heq, heq ▸ nodeUnheard_node hset⟩

/-! ## Lost commands -/

/-- A lost PHASE TRIM of a print drive ends SETTLING with reload pending; a mark of a block due to close is not used (log 62). -/
theorem printTrimLost_spec (s : State) (st : Nat) : s.printTrimLost st = s.setLoop st (fun l =>
    if l.st = .settling then { l with
      st := .tracking, settle := 0, reload := true,
      spent := match s.reg.block with
        | some b => if l.settle ≤ 1 ∧ b.closeAfter < s.posH then some b.r else l.spent
        | none => l.spent } else l) := by
  refine congrArg (s.setLoop st) (funext fun l => ?_)
  by_cases hst : l.st = .settling
  · rw [if_pos hst, if_pos hst, State.dueUnit]
    cases s.reg.block with
    | none =>
      simp only [Option.filter_none, Option.map_none, Option.none_or, ite_self]
      exact rfl
    | some b =>
      by_cases hdue : b.closeAfter < s.posH
      · by_cases hsettle : l.settle ≤ 1 <;> simp [Option.filter, hdue, hsettle, Loop.toTracking]
      · simp [Option.filter, hdue, Loop.toTracking]
  · rw [if_neg hst, if_neg hst]

theorem embossTrimLost_spec (s : State) :
    s.embossTrimLost = { s with emb := { s.emb with settle := 0, reload := s.emb.reload || decide (0 < s.emb.settle) } } := by
  rw [State.embossTrimLost]
  split
  next h => rw [decide_eq_true h, Bool.or_true]
  next h =>
    have hzero : s.emb.settle = 0 := by omega
    rw [decide_eq_false h, Bool.or_false, ← hzero]

/-- The node of a block that owns the node at index `i`. -/
theorem nodeIndex_of_ownerOf {s : State} {i : Nat} (h : s.ownerOf i = some .winder) : s.nodeIndex .winder = some i := by
  unfold State.ownerOf at h
  split at h
  · exact absurd h nofun
  · split at h
    · split at h
      · split at h
        · exact absurd (Option.some.inj h) nofun
        · exact absurd h nofun
      · exact absurd h nofun
    · have hfound := List.find?_some h
      exact of_decide_eq_true hfound

/-- A lost CUT IN of another cut than the outstanding one. -/
theorem cutInLost_other {s : State} {serial : Nat} (h : ∀ c, s.winder.out = some c → c.serial ≠ serial) (fuel : Nat) :
    s.cutInLost serial (fuel + 1) = s := by
  rw [State.cutInLost]
  split
  next => rfl
  next c hout => exact if_pos (h c hout)

/-- A CUT IN lost for the second time, or with no distance left, gives the cut up. -/
theorem cutInLost_givenUp {s : State} {c : OutstandingCut} (hout : s.winder.out = some c)
    (h : c.resent = true ∨ s.remaining c.x ≤ 0)
    (fuel : Nat) : s.cutInLost c.serial (fuel + 1) = s.giveUpCut := by
  simp only [State.cutInLost, hout, ne_eq, not_true_eq_false, if_false]
  rcases h with hresent | hleft
  · exact if_pos hresent
  · rw [if_neg (not_lt.mpr hleft), ite_self]

/-- A CUT IN lost for the first time, with distance left, is handed over again. -/
theorem cutInLost_again {s : State} {c : OutstandingCut} {i : Nat} {n : Node} (howner : s.ownerOf i = some .winder)
    (hout : s.winder.out = some c) (hresent : c.resent = false) (hleft : 0 < s.remaining c.x) (hn : s.link.nodes[i]? = some n)
    (hst : n.st = .present) (hroom : n.waiting.length < 10) (fuel : Nat) :
    s.cutInLost c.serial (fuel + 1) = { s with
      winder := { s.winder with out := some { c with resent := true } },
      link := { s.link with
        nodes := s.link.nodes.set i { n with waiting := n.waiting ++ [.cutIn (s.remaining c.x) c.serial] } } } := by
  have hhand := EmbossLoop.hand_joins (s := s.setWinder (fun w => { w with out := some { c with resent := true } }))
    (c := .cutIn (s.remaining c.x) c.serial) (nodeIndex_of_ownerOf howner) hn hst rfl hroom
  simp only [State.cutInLost, hout, ne_eq, not_true_eq_false, if_false, hresent, Bool.false_eq_true, if_pos hleft, hhand]
  rw [← modifyAt_eq_set (fun n => { n with waiting := n.waiting ++ [.cutIn (s.remaining c.x) c.serial] }) hn]
  exact rfl

/-- Settles O43: the frame as a whole by `frameFailed_cycle` and `allUnanswered_idle`, one slot by `slotUnanswered_spec`, each lost
command by the rule of its block, and the third missing reply by `nodeUnheard_silent`. -/
theorem badFrameUnheard : Obligations.BadFrameUnheard := by
  unfold Obligations.BadFrameUnheard
  intro s
  refine ⟨fun h => congrArg Host.Outcome.next (frameFailed_none h true),
    fun f h hf => congrArg Host.Outcome.next (frameFailed_enumerate h hf true),
    fun f h hf => congrArg Host.Outcome.next (frameFailed_cycle h hf), ?allIdle, fun _ _ _ => rfl, ?slot, fun _ => ⟨rfl, rfl⟩,
    ?printTrim, ?embossTrim, ?embossMove, ?drawTrim, ?otherCut, ?givenUp, ?sentAgain, ?silent⟩
  case allIdle =>
    intro f h hf hidle hlen hsilent hrun
    have hslots := allUnanswered_idle f.slots { s with link := { s.link with out := none } } [] s.link.nodes rfl hidle hlen hsilent
    refine congrArg Host.Outcome.next ((frameFailed_cycle h hf).trans ?_)
    rw [show State.allUnanswered _ 0 f.slots = _ from hslots]
    exact congrArg (fun t => State.settlePlan (State.countCycles t)) (badFrame_early hrun)
  case slot =>
    intro i n c hn hc
    exact slotUnanswered_spec hn hc
  case printTrim =>
    intro i st v howner
    simp only [State.slotLost, State.cmdLost, howner]
    exact printTrimLost_spec s st
  case embossTrim =>
    intro i v howner
    simp only [State.slotLost, State.cmdLost, howner]
    exact embossTrimLost_spec s
  case embossMove =>
    intro i howner
    constructor <;> simp only [State.slotLost, State.cmdLost, howner]
  case drawTrim =>
    intro i v howner
    simp only [State.slotLost, State.cmdLost, howner]
    exact rfl
  case otherCut =>
    intro i v serial howner hserial
    simp only [State.slotLost, State.cmdLost, howner]
    exact cutInLost_other hserial 2
  case givenUp =>
    intro i v c howner hout h
    simp only [State.slotLost, State.cmdLost, howner]
    exact cutInLost_givenUp hout h 2
  case sentAgain =>
    intro i v c n howner hout hresent hleft hn hst hroom
    simp only [State.slotLost, State.cmdLost, howner]
    exact cutInLost_again howner hout hresent hleft hn hst hroom 2
  case silent =>
    intro i n hn hst hsilent _
    obtain ⟨hactive, hnotice, m, hm, hmst, -, -, hcount⟩ := nodeUnheard_silent hn (.inl hst) hsilent.ge
    exact ⟨⟨m, hm, hmst, by rw [hcount, hsilent]; rfl⟩, hactive, hnotice⟩

end Sys2Proof.Proofs.UnheardFrames
end

section
/-! PROOFS. Sweeps: what asks for one, and what each block does at its end (R120, R124, R163, R170, R171; O52). -/

namespace Sys2Proof.Proofs.Sweeps
open Sys2Proof.Machine Sys2Proof.Proofs.MemoryFacts Sys2Proof.Proofs.FaultFacts Sys2Proof.Proofs.Lookups
open Sys2Proof.Proofs.PlannerFacts

/-! ## The slots as the sweep reads them -/

theorem orderSlotAddr_add (n j : Nat) : orderSlotAddr n + j = 0x0400 + j + 128 * n := by
  unfold orderSlotAddr
  omega

theorem rollSlotAddr_add (n j : Nat) : rollSlotAddr n + j = 0x0800 + j + 96 * n := by
  unfold rollSlotAddr
  omega

theorem faultSlotAddr_add (n j : Nat) : faultSlotAddr n + j = 0x1500 + j + 32 * n := by
  unfold faultSlotAddr
  omega

theorem readNat_one_eq (s : State) (a b : Nat) : s.readNat a 1 = s.readNat b 1 ↔ s.readByte a = s.readByte b := by
  rw [readNat_one, readNat_one, BitVec.toNat_inj]

theorem readNat_one_literal (s : State) (a : Nat) (v : Byte) : s.readNat a 1 = v.toNat ↔ s.readByte a = v := by
  rw [readNat_one, BitVec.toNat_inj]

theorem orderCommand_eq_two (s : State) (n : Nat) : s.orderCommand n = 2 ↔ s.readByte (0x0401 + 128 * n) = 2 := by
  rw [State.orderCommand, orderSlotAddr_add]
  exact readNat_one_literal s _ 2

/-- The tag of the host stands as part tag. -/
theorem hostTag_eq_partTag (s : State) (n : Nat) :
    s.hostTag n = s.orderPartTag n ↔ s.readByte (0x0400 + 128 * n) = s.readByte (0x0470 + 128 * n) := by
  rw [State.hostTag, State.orderPartTag, orderSlotAddr_add n 0x70]
  exact readNat_one_eq s _ _

theorem newPost_eq (s : State) (n : Nat) : s.newPost n = decide (s.readByte (0x0401 + 128 * n) = 1
    ∧ s.readByte (0x0400 + 128 * n) ≠ 0 ∧ s.readByte (0x0400 + 128 * n) ≠ s.readByte (0x0470 + 128 * n)) := by
  have hcommand : s.orderCommand n = 1 ↔ s.readByte (0x0401 + 128 * n) = 1 := by
    rw [State.orderCommand, orderSlotAddr_add]
    exact readNat_one_literal s _ 1
  have htag : s.hostTag n = 0 ↔ s.readByte (0x0400 + 128 * n) = 0 := readNat_one_literal s _ 0
  simp only [State.newPost, ne_eq, hcommand, htag, hostTag_eq_partTag, Bool.decide_and, Bool.and_assoc]

theorem rollSlotFree_eq (s : State) (n : Nat) : s.rollSlotFree n = decide (s.readByte (0x0800 + 96 * n) = 0
    ∨ s.readByte (0x0800 + 96 * n) = s.readByte (0x0802 + 96 * n)) := by
  have hzero : s.readNat (rollSlotAddr n) 1 = 0 ↔ s.readByte (0x0800 + 96 * n) = 0 := readNat_one_literal s _ 0
  have hequal : s.readNat (rollSlotAddr n) 1 = s.readNat (rollSlotAddr n + 2) 1
      ↔ s.readByte (0x0800 + 96 * n) = s.readByte (0x0802 + 96 * n) := by
    rw [rollSlotAddr_add n 2]
    exact readNat_one_eq s _ _
  simp only [State.rollSlotFree, hzero, hequal, Bool.decide_or]

/-! ## Refused posts that are forgotten -/

/-- Only what is noted of refused posts has changed. -/
def OrdersOnly (s t : State) : Prop := t = { s with ord := { s.ord with orders := t.ord.orders } }

theorem OrdersOnly.trans {s t u : State} (h : OrdersOnly s t) (k : OrdersOnly t u) : OrdersOnly s u := by
  unfold OrdersOnly at *
  rw [k, h]

theorem ordersOnly_dropBusy (s : State) (n : Nat) : OrdersOnly s (s.dropBusy n) := by
  unfold OrdersOnly State.dropBusy
  split <;> rfl

/-- A slot number without a record. -/
theorem order_beyond {s : State} {n : Nat} (h : s.ord.orders.length ≤ n) : s.order n = OrderRec.reset := by
  rw [State.order, List.getD_eq_getElem?_getD, List.getElem?_eq_none h]
  rfl

/-- The record of a slot whose refused post is forgotten. -/
theorem order_forgotten (s : State) (n : Nat) :
    (s.setOrder n (fun o => { o with busyTag := 0 })).order n = { s.order n with busyTag := 0 } := by
  by_cases hlen : n < s.ord.orders.length
  · exact order_setOrder_same s _ hlen
  · have hbeyond := order_beyond (s := s.setOrder n (fun o => { o with busyTag := 0 })) (n := n) (by
      show (modifyAt _ n s.ord.orders).length ≤ n
      rw [modifyAt_eq_modify, List.length_modify]
      exact not_lt.mp hlen)
    rw [hbeyond, order_beyond (not_lt.mp hlen)]
    rfl

theorem order_dropBusy (s : State) (m n : Nat) : (s.dropBusy m).order n
    = if n = m ∧ (s.hostTag n = s.orderPartTag n ∨ s.orderCommand n = 2) then { s.order n with busyTag := 0 }
      else s.order n := by
  rw [State.dropBusy]
  by_cases hdrop : s.hostTag m = s.orderPartTag m ∨ s.orderCommand m = 2
  · rw [if_pos hdrop]
    split
    next h => rw [h.1, order_forgotten]
    next h => exact order_setOrder_ne s _ fun hnm => h ⟨hnm, hnm ▸ hdrop⟩
  · rw [if_neg hdrop, if_neg]
    rintro ⟨rfl, h⟩
    exact hdrop h

/-- After the slots of a list the refused posts of those slots are forgotten whose tags are equal or whose command is WITHDRAW. -/
theorem dropBusy_foldl (l : List Nat) (s : State) :
    OrdersOnly s (l.foldl State.dropBusy s) ∧ ∀ n, (l.foldl State.dropBusy s).order n
      = if n ∈ l ∧ (s.hostTag n = s.orderPartTag n ∨ s.orderCommand n = 2) then { s.order n with busyTag := 0 }
        else s.order n := by
  induction l generalizing s with
  | nil => exact ⟨rfl, fun n => (if_neg fun h => nomatch h.1).symm⟩
  | cons m l ih =>
    obtain ⟨honly, horder⟩ := ih (s.dropBusy m)
    have hfirst := ordersOnly_dropBusy s m
    refine ⟨hfirst.trans honly, fun n => ?_⟩
    have hsame : ((s.dropBusy m).hostTag n = (s.dropBusy m).orderPartTag n ∨ (s.dropBusy m).orderCommand n = 2)
        ↔ (s.hostTag n = s.orderPartTag n ∨ s.orderCommand n = 2) := by
      rw [hfirst]
      exact .rfl
    rw [List.foldl_cons, horder n, order_dropBusy]
    simp only [hsame, List.mem_cons]
    by_cases hdrop : s.hostTag n = s.orderPartTag n ∨ s.orderCommand n = 2
    · by_cases hnm : n = m
      · simp only [hnm, hnm ▸ hdrop, true_or, if_true, and_true, ite_self]
      · simp only [hnm, false_or, false_and, if_false]
    · simp only [hdrop, and_false, if_false]

/-! ## The end of a sweep -/

theorem sweepPass_eq (s : State) : s.sweepPass = (List.range 32).foldl (fun s n => s.sweepFault n)
    (State.settlePlan (State.moveRecords
      { s.sweepOrders.settlePlan with rolls := { s.sweepOrders.settlePlan.rolls with
        freeSlots := ((List.range 32).filter s.sweepOrders.settlePlan.rollSlotFree).length } }
      ((List.range 32).filter s.sweepOrders.settlePlan.rollSlotFree))) := rfl

theorem sweepFault_eq (s : State) (n : Nat) : s.sweepFault n = { s with fault := { s.fault with
    acked := s.fault.acked.set n (decide (s.readByte (0x1500 + 32 * n) = s.readByte (0x1502 + 32 * n))),
    free := s.fault.free.set n (s.fault.free.getD n false
      || decide (s.readByte (0x1500 + 32 * n) = s.readByte (0x1502 + 32 * n)
          ∧ s.readByte (0x1500 + 32 * n) ≠ 0 ∧ s.faultEntryState n = 2)) } } := by
  have hequal : s.faultTag n = s.faultAck n ↔ s.readByte (0x1500 + 32 * n) = s.readByte (0x1502 + 32 * n) := by
    rw [State.faultTag, State.faultAck, faultSlotAddr_add n 0x02]
    exact readNat_one_eq s _ _
  have hzero : s.faultTag n = 0 ↔ s.readByte (0x1500 + 32 * n) = 0 := readNat_one_literal s _ 0
  simp only [State.sweepFault, ne_eq, hequal, hzero, Bool.decide_and, Bool.and_assoc]

theorem askSweep_eq (s : State) : s.askSweep = { s with port := { s.port with
    sweepRunning := true, sweepPending := s.port.sweepPending || s.port.sweepRunning } } := by
  unfold State.askSweep State.setPort
  cases h : s.port.sweepRunning <;> simp [h]

/-- The order unit's part of a sweep: withdrawals, then the posts in order, then the activation test. -/
theorem sweepOrders_eq (s : State) : s.sweepOrders = State.testActivation
    ((sortBy (fun n => (((List.range 8).foldl State.dropBusy s.withdrawAll).readBody n).seq)
        ((List.range 8).filter s.withdrawAll.newPost)).foldl
      (fun s n => s.dealPost n) ((List.range 8).foldl State.dropBusy s.withdrawAll)) := rfl

/-- Settles O52: the sweep's end is the order unit's part (`sweepOrders_eq`, with `dropBusy_foldl` for the refused posts), the ready
records and the fault slots; each test on a slot is read off its bytes. -/
theorem sweepsAskedAndEnded : Obligations.SweepsAskedAndEnded := by
  unfold Obligations.SweepsAskedAndEnded
  intro s asked
  have hasked : s.askSweep = asked := askSweep_eq s
  refine ⟨fun h => ?_, fun h => ?_, fun h => ?_, fun h => ?_, fun h => ?_, fun h => ?_, ?pass, fun n _ => sweepFault_eq s n⟩
  · exact congrArg Host.Outcome.next ((if_neg h).trans hasked)
  · exact congrArg Host.Outcome.next (if_pos h)
  · exact congrArg Host.Outcome.next ((if_pos h).trans hasked)
  · exact congrArg Host.Outcome.next (if_neg (by rw [h]; decide))
  · exact congrArg Host.Outcome.next (if_neg (by rw [h]; decide))
  · have hpass := steady_sweepPass s
    refine ⟨_, congrArg Host.Outcome.next (if_pos h), ?_, rfl, hpass.leavesInputs⟩
    show { s.sweepPass.port with sweepRunning := s.sweepPass.port.sweepPending, sweepPending := false } = _
    rw [hpass.port]
  case pass =>
    intro withdrawn w tag part command slots
    have hw : s.withdrawAll = w := by
      have hfilter : ((List.range 8).filter (fun n => decide (s.orderCommand n = 2)))
          = (List.range 8).filter (fun n => decide (s.readByte (0x0401 + 128 * n) = 2)) := by simp only [orderCommand_eq_two]
      simp only [State.withdrawAll, hfilter, Bool.and_eq_true, Option.isNone_iff_eq_none]
      rfl
    have hslots : (List.range 8).filter w.newPost = slots := List.filter_congr fun n _ => newPost_eq w n
    obtain ⟨x, hx⟩ : ∃ x, x = (List.range 8).foldl State.dropBusy w := ⟨_, rfl⟩
    obtain ⟨honly, horder⟩ := dropBusy_foldl (List.range 8) w
    rw [← hx] at honly horder
    have hbody (n : Nat) : x.readBody n = w.readBody n := by
      rw [honly]
      rfl
    refine ⟨sortBy (fun n => (w.readBody n).seq) slots, x, sortBy_perm _ _,
      sortBy_keyOrder ((range_rising 8).sublist List.filter_sublist), honly, fun n hn => ?_, ?_⟩
    · rw [horder n]
      simp only [List.mem_range, hn, true_and, hostTag_eq_partTag, orderCommand_eq_two]
      rfl
    · intro orders free moved
      have horders : s.sweepOrders.settlePlan = orders := by
        simp only [sweepOrders_eq, hw, ← hx, hbody, hslots]
        rfl
      have hfree : (List.range 32).filter orders.rollSlotFree = free := List.filter_congr fun n _ => rollSlotFree_eq orders n
      rw [sweepPass_eq, horders, hfree]

end Sys2Proof.Proofs.Sweeps
end

section
/-! PROOFS. LINE RESET composes a closing roll whose units name no order slot, and its count goes into a roll slot (R131, R183;
O58). -/

namespace Sys2Proof.Proofs.LineResetRolls
open Sys2Proof.Machine Sys2Proof.Tests

/-- A closing roll whose one unit names order slot 8; the order slots are 0…7. -/
def rollOfNoSlot : ClosingRoll :=
  { roll := { start := 5, opening := Reasons.none, spindle := .a, units := [{ unitAt 5 1 (some 5) with order := 8 }] },
    stop := 9, close := Reasons.none, deferred := false, removed := false }

/-- After power-on, in CONFIG, with that roll to be handed over, and with a byte of roll slot 1 that is not 0: the rolls produced of
an order slot 8 would stand there. -/
def lineWithRollOfNoSlot : State :=
  { State.reset with
    port := { Port.reset with phase := .config }, mem := memStore resetMemory 0x0874 [1],
    winder := { Winder.reset with closing := [rollOfNoSlot] } }

theorem lineWithRollOfNoSlot_byte : lineWithRollOfNoSlot.readByte 0x0874 = 1 := by decide +kernel

/-- The count of the roll overwrites the byte of the roll slot. -/
theorem lineReset_rollOfNoSlot_byte : lineWithRollOfNoSlot.lineReset.readByte 0x0874 = 0 := by decide +kernel

/-- Refutes O58: the statement speaks of every state and says that the roll slots stay. In a state whose closing roll names order
slot 8 (`rollOfNoSlot`) the count of that roll (R131) is written where order slot 8 would lie, into roll slot 1. -/
theorem not_lineResetValues : ¬ Obligations.LineResetValues := by
  unfold Obligations.LineResetValues
  intro h
  obtain ⟨t, ht, htail⟩ := (h lineWithRollOfNoSlot).2 (by decide)
  have hrolls : ∀ a, 0x0800 ≤ a → a < 0x1400 → t.readByte a = lineWithRollOfNoSlot.readByte a := by
    obtain ⟨-, -, -, -, -, -, -, -, -, -, -, -, -, -, -, -, -, -, -, -, -, -, -, -, -, -, -, -, -, -, -, -, -, -, -, -, -, hrolls,
      -⟩ := htail
    exact hrolls
  obtain rfl : lineWithRollOfNoSlot.lineReset = t := Host.Outcome.next.inj ht
  have hbyte := hrolls 0x0874 (by decide) (by decide)
  rw [lineWithRollOfNoSlot_byte, lineReset_rollOfNoSlot_byte] at hbyte
  exact absurd hbyte (by decide)

end Sys2Proof.Proofs.LineResetRolls
end
